-- ==== Sys2Proof/Word.lean ====
section
/-! DEFINITION. The words of the module: bytes, 16-, 32-, 64-, 128- and 512-bit words (R10: bit 0 is
the least significant bit). Addresses, indices and counts are natural numbers. -/

namespace Sys2Proof

/-- One byte. -/
abbrev Byte := BitVec 8
abbrev W16 := BitVec 16
/-- A register (R369), a module ID (R80), a key (R54), a sequence number (R82). -/
abbrev W32 := BitVec 32
/-- A virtual address, a signal descriptor (R26), a RISC-V register. -/
abbrev W64 := BitVec 64
/-- A tile command (R251). -/
abbrev W128 := BitVec 128
/-- A ring entry as it stands in memory: byte i is bits [8i+7:8i] (R25, R11). -/
abbrev Entry := BitVec 512

end Sys2Proof
end

