-- ==== Sys2Proof/Syntax.lean ====
section
/-! DEFINITION. The commands: one constructor of `Instr` for each row of spec/opcode_table.json, and the
data a command carries: a queue's name, a packet, a bond frame, an Ethernet frame, a Waibor request.
A command is one of the part's steps, whole and indivisible (95_what_each_step_holds.md). -/

namespace Sys2Proof

/-- The three kinds of ring the device takes entries from (R22, `QSEL.kind` 0, 1 and 4). -/
inductive QKind where
  | send
  | control
  | admin
deriving DecidableEq, Repr

/-- A queue: its function (0 the PF, 1–1,024 the VFs), its kind and its index as the function numbers it
(R52, R370: a VF's local index, a global QP on the PF; 0 for a control queue; 0–7 for an admin ring). -/
structure QRef where
  fn : Nat
  kind : QKind
  index : Nat
deriving DecidableEq, Repr

/-- Enpin packet types (R83). -/
inductive PType where
  | data
  | readRequest
  | readResponse
  | atomic
  | atomicResponse
  | abort
  | ack
  | nack
  | rnr
  | collective
  | tie
deriving DecidableEq, Repr

/-- The type extension of a packet (R87 to R92, R94 to R97). -/
inductive PExt where
  /-- Data extension; `op` is the ring opcode, `a` and `b` an atomic's operands or `a` a read length. -/
  | data (key : W32) (offset : W64) (srcQp : Nat) (op : Nat) (a b : W64)
  /-- Data extension with the multicast extension (R88). -/
  | multicast (key : W32) (offset : W64) (srcQp : Nat) (axis : Nat) (bitmap : W32)
  /-- Response extension (R89). -/
  | response (value : W64) (reqMsgId : W32)
  /-- Abort extension (R96). -/
  | abort (status : Nat) (lastSeq : W32)
  /-- Ack extension (R94). -/
  | ack (sackBase : W32) (sackBitmap : W64)
  /-- Nack extension (R95). -/
  | nack (status : Nat) (curEpoch : Nat) (nackSeq : W32) (offset : W64)
  /-- Receiver-not-ready extension (R97). -/
  | rnr (cause : Nat) (hint : Nat) (rnrSeq : W32)
  /-- Collective extension (R91); `ring` and `down` are `path` bits 0 and 1. -/
  | coll (group inst : W32) (op red dtype : Nat) (ring down : Bool) (elements elemOffset : Nat) (member : Nat)
  /-- The tie header (R92). -/
  | tie (result : Bool) (member : Nat) (group inst : W32) (op red dtype elements : Nat)
deriving DecidableEq, Repr

/-- An Enpin packet as its header fields (R82 to R93), its payload, and for a secure packet the secure
extension and the ICV (R110, R111). -/
structure Packet where
  ptype : PType
  bondForm : Bool
  ackReq : Bool := false
  secure : Bool := false
  chained : Bool := false
  solicit : Bool := false
  retx : Bool := false
  epoch : Nat := 0
  ecnEcho : Nat := 0
  src : W32
  dst : W32
  seq : W32 := 0
  ackSeq : W32 := 0
  msgId : W32 := 0
  pktIndex : Nat := 0
  pktCount : Nat := 0
  dstQp : Nat := 0
  tc : Nat := 0
  ext : PExt
  /-- The signal extension (R93), present when `flags` bit 1 is set. -/
  sig : Option W64 := none
  sa : Nat := 0
  nonceSalt : W32 := 0
  nonceCtr : W64 := 0
  icv : W128 := 0
  /-- A secure packet's ciphertext: everything from the type extension to the end of the payload (R111). -/
  cipher : Option (List Byte) := none
  payload : List Byte := []
deriving DecidableEq, Repr

/-- How a packet reached the module: the Keystone, the bond link (if any), and whether it carries CE or
the bond mark bit (R151). -/
structure RxInfo where
  ks : Nat
  link : Option Nat := none
  port : Option Nat := none
  marked : Bool := false
deriving DecidableEq, Repr

/-- A link announcement (R184). -/
structure Announce where
  origin : W32
  nonce : W16
  aseq : W16
  linksDown : Byte
  fenced : Bool
deriving DecidableEq, Repr

/-- A circuit-control frame (R193, R195): its content is the device's own; the model carries the circuit's
handle, its end points, its slots, the phase it is in and the module that refused. -/
inductive CircuitPhase where
  | lay
  | laid
  | refused (cause : Nat)
  | lift
  | lifted
deriving DecidableEq, Repr

structure CircuitCtl where
  handle : W32
  source : W32
  dest : W32
  slots : Nat
  phase : CircuitPhase
  /-- The VC4 queue the sender's next input uses (R191). -/
  queue : Nat := 0
  refusedAt : W32 := 0
  /-- The directions of the path's legs along x and y, as R187 gave them when the lay was issued: 0 E, 1 W, 2 N, 3 S. -/
  dx : Nat := 0
  dy : Nat := 3
deriving DecidableEq, Repr

/-- What a packet's bytes fail (R101): version, type or form; or the lengths of R85. -/
inductive WireErr where
  | badType
  | badLength
deriving DecidableEq, Repr

/-- What a bond frame holds (R175 kinds 0 to 3). `malformed` is Enpin content, kept as its bytes, that spells no packet. -/
inductive BondContent where
  | packet (p : Packet)
  | announce (a : Announce)
  | circuit (c : CircuitCtl)
  | malformed (e : WireErr) (raw : List Byte)
  | reservedKind
deriving DecidableEq, Repr

/-- A bond frame (R175). -/
structure BondFrame where
  vc : Nat
  mark : Bool := false
  lane : Nat := 0
  multicast : Bool := false
  src : W32
  dst : W32
  aux : W32 := 0
  content : BondContent
deriving DecidableEq, Repr

/-- What the receiving link finds out about a bond frame (R176). -/
inductive FrameFate where
  | good
  /-- CRC wrong, or a codeword of it uncorrectable, or `sof` or `length` wrong. -/
  | bad
  /-- It ends with the bitwise inverse of the correct CRC. -/
  | stomped
deriving DecidableEq, Repr

/-- A bond frame as its flits bring it: their control fields (R174) and the frame's bytes (R175). -/
structure WireFrame where
  ctl : List (BitVec 20)
  bytes : List Byte
deriving DecidableEq, Repr

/-- What befell a frame on its way: codewords corrected and uncorrectable, and whether part of it had gone onward (R176, R203). -/
structure Transit where
  corrected : Nat
  lost : Nat
  begun : Bool
deriving DecidableEq, Repr

/-- The uncorrectable codewords that take a link down, with how many of them no frame has counted (R179, R203). -/
structure LinkLoss where
  link : Nat
  uncounted : Nat
deriving DecidableEq, Repr

/-- The content of an idle flit (R177). -/
structure IdleFlit where
  module : W32
  link : Nat
  origin : Bool := false
  posValid : Bool
  goingDown : Bool := false
  sizeX : Nat
  sizeY : Nat
  freed : List W16 := []
deriving DecidableEq, Repr

/-- An Ethernet frame as it ends reception (R352, R359, R360): its bytes from the destination MAC to the
FCS, how it came, and what the receiver found. -/
structure EthFrame where
  bytes : List Byte
  express : Bool := false
  fragment : Bool := false
  reassemblyError : Bool := false
  overflow : Bool := false
  fcsBad : Bool := false
  codeError : Bool := false
  fecUncorrectable : Bool := false
  ce : Bool := false
  /-- Codewords corrected and uncorrectable since the frame before it (R365). -/
  corrected : Nat := 0
  lost : Nat := 0
deriving DecidableEq, Repr

/-- Where a Waibor request comes from (R443, R451): the PF's DOE mailbox (class M), a field node by its
MAC address (class F), or the firmware (class W). -/
inductive WSource where
  | doe
  | field (mac : Nat)
  | firmware
deriving DecidableEq, Repr

/-- The value part of a Waibor request or answer (R441). -/
abbrev Bytes := List Byte

/-- The header of a field-side Waibor message that a service looks at (R446): its sequence number and its
session fields. -/
structure WHeader where
  source : WSource
  wseq : Nat := 0
  session : Bool := false
  sessionCtr : Nat := 0
  tag : W128 := 0
  /-- The header and payload as they came, where the message came as bytes: a session's tag covers their reserved bits too. -/
  wire : Bytes := []
deriving DecidableEq, Repr

/-- A start-up step's outcome (R466). -/
inductive StepOutcome where
  | ok
  | failed
deriving DecidableEq, Repr

/-- A frame on the field port (R447, R455). -/
structure FieldFrame where
  etherType : Nat
  dstMac : Nat
  srcMac : Nat
  bytes : List Byte
deriving DecidableEq, Repr

/-- The unit an idle state acts on (R436). -/
inductive PowerUnit where
  | engine (core engine : Nat)
  | coreClock (core : Nat)
  | bank (core bank : Nat)
  | cluster (cluster : Nat)
  | die (die : Nat)
deriving DecidableEq, Repr

/-- A memory a patrol or scrub read meets (R314 `detail`). -/
inductive ScrubTarget where
  | hbm (addr : Nat)
  | lpddr (addr : Nat)
  | scratch (addr : Nat)
  | clusterStore (addr : Nat)
  | ksram (addr : Nat)
  | secureSram
  | skippedBank (core bank : Nat)
deriving DecidableEq, Repr

/-- What a scrub or another read finds (R312, R314, R473). -/
inductive ScrubResult where
  | clean
  | corrected
  | uncorrectable
deriving DecidableEq, Repr

/-- The three reference clocks (R487). -/
inductive RefClock where
  | cxl100
  | eth156
  | osc25
deriving DecidableEq, Repr

/-- A die-to-die link (R477): between the Keystones, or from a Keystone to an Ashlar die. -/
inductive D2dLink where
  | k0k1
  | ka (ks die : Nat)
deriving DecidableEq, Repr

/-- The reading a meter, sensor or telemetry command carries. -/
structure Reading where
  watts : Nat
deriving DecidableEq, Repr

/-- Who waits on a host access (R382). -/
inductive HostAccess where
  /-- An entry of a queue, by its ring index. -/
  | entry (q : QRef) (idx : Nat)
  /-- A fault record's read or write-back (R309). -/
  | migration (ks record : Nat)
  /-- A QP-context fetch (R141). -/
  | qpContext (qp : Nat)
deriving DecidableEq, Repr

/-- The commands, one for each row of spec/opcode_table.json, in the table's order. -/
inductive Instr where
  | doorbell (q : QRef)
  | rescanTimerExpiry (q : QRef)
  | tornLimitExceeded (q : QRef)
  | write (q : QRef) (e : Entry)
  | writeSignal (q : QRef) (e : Entry)
  | read (q : QRef) (e : Entry)
  | fetchAdd (q : QRef) (e : Entry)
  | compareSwap (q : QRef) (e : Entry)
  | send (q : QRef) (e : Entry)
  | multicastWrite (q : QRef) (e : Entry)
  | waitCount (q : QRef) (e : Entry)
  | fence (q : QRef) (e : Entry)
  | localCopy (q : QRef) (e : Entry)
  | collective (q : QRef) (e : Entry)
  | launch (q : QRef) (e : Entry)
  | signalOnly (q : QRef) (e : Entry)
  | waitCountRelease (q : QRef)
  | fenceRelease (q : QRef)
  | headHoldRelease (q : QRef)
  | cqHeadWrite (fn ring : Nat) (value : W32)
  | eqHeadWrite (fn : Nat) (value : W32)
  | queueEnable (fn : Nat) (value : W32)
  | queueDisable (fn : Nat) (value : W32)
  | cntValueRead (fn : Nat)
  | registerWrite (fn offset : Nat) (value : W32)
  | regionRegister (q : QRef) (e : Entry)
  | regionDeregister (q : QRef) (e : Entry)
  | windowOpen (q : QRef) (e : Entry)
  | windowRevoke (q : QRef) (e : Entry)
  | keyDrainEnd (index : Nat)
  | settle (q : QRef) (e : Entry)
  | settleComplete (q : QRef) (idx : Nat)
  | recvReturn (fn : Nat) (value : W32)
  | dataReceive (rx : RxInfo) (p : Packet)
  | readRequestReceive (rx : RxInfo) (p : Packet)
  | readResponseReceive (rx : RxInfo) (p : Packet)
  | atomicReceive (rx : RxInfo) (p : Packet)
  | atomicResponseReceive (rx : RxInfo) (p : Packet)
  | abortReceive (rx : RxInfo) (p : Packet)
  | ackReceive (rx : RxInfo) (p : Packet)
  | nackReceive (rx : RxInfo) (p : Packet)
  | rnrReceive (rx : RxInfo) (p : Packet)
  | openingReceive (rx : RxInfo) (p : Packet)
  | writtenNotice (peer : W32) (seq : W32)
  | packetWriteDone (peer : W32) (seq : W32)
  | ackDelayExpiry (peer : W32)
  | packetTransmit (peer : W32) (draw : Nat)
  | retransmitTimeout (peer : W32) (seq : W32)
  | rnrBackoffExpiry (peer : W32)
  | giveUpExpiry (peer : W32) (seq : W32)
  | responseGiveUp (peer : W32) (msgId : W32)
  | openingGiveUp (peer : W32)
  | abortGiveUp (peer : W32) (seq : W32)
  | contextFetchComplete (ks : Nat) (peer : W32) (qp : Option Nat) (result : ScrubResult)
  | bankerWaitExpiry (ks : Nat) (peer : W32) (seq : W32)
  | tallyContextAvailable (q : QRef) (idx : Nat)
  | contextPeriodicTouch (peer : W32)
  | pacingTouch (peer : W32)
  | shaperTick
  | telemetrySample (fn : Nat)
  | telemetryEnable (fn : Nat) (value : W32)
  /-- A frame ends: its flits' control fields and bytes, its codewords that were corrected and discarded, and whether part of it has
  been sent onward already (R174 to R176). -/
  | bondFrameReceive (link : Nat) (f : WireFrame) (way : Transit)
  | bondFrameSend (link : Nat) (vc : Nat)
  | idleFlitSend (link : Nat)
  /-- The 320 bytes of an idle flit (R177). -/
  | idleFlitReceive (link : Nat) (bytes : List Byte)
  | bondIdleTimeout (link : Nat)
  /-- With the discarded codewords that no received frame has counted. -/
  | bondFecErrorLimit (loss : LinkLoss)
  | bondLinkTrained (link : Nat)
  | bondGoingDownExpiry (link : Nat)
  | bondEnableWrite (link : Nat) (value : Nat)
  /-- The 12 bytes of an announcement (R184). -/
  | announcementReceive (link : Nat) (bytes : List Byte)
  | announcePeriodic
  | announcementStale (peer : W32)
  | circuitLay (q : QRef) (e : Entry)
  | circuitControlReceive (link : Nat) (c : CircuitCtl)
  | circuitLayAnswer (link : Nat) (c : CircuitCtl)
  | circuitLift (q : QRef) (e : Entry)
  | circuitLiftAnswer (link : Nat) (c : CircuitCtl)
  | fenceModule (q : QRef) (e : Entry)
  | unfenceModule (q : QRef) (e : Entry)
  | lineContextReopen (axis : Nat)
  | deadlockWindowExpiry (launch : Nat)
  | waitSatisfied (core : Nat)
  | groupCreate (q : QRef) (e : Entry)
  | groupDestroy (q : QRef) (e : Entry)
  | treeDataReceive (link : Nat) (p : Packet)
  | upAck (link : Nat) (p : Packet)
  | downAck (link : Nat) (p : Packet)
  | treeAbort (link : Nat) (p : Packet)
  | fallback (link : Nat) (p : Packet)
  | controlAck (link : Nat) (p : Packet)
  | busy (link : Nat) (p : Packet)
  | treeHopTimeout (group inst : W32) (member : Nat) (chunk : Nat) (down : Bool)
  | fallbackRingReceive (rx : RxInfo) (p : Packet)
  | tieReceive (link : Nat) (p : Packet)
  | tieTimeout (group inst : W32)
  | collGiveUp (group inst : W32)
  | cmd1Write (core : Nat) (cmd0 : Option W64) (cmd1 : W64)
  | loadw (core : Nat)
  | stream (core : Nat)
  | acc (core : Nat)
  | epilogue (core : Nat)
  | move (core : Nat)
  | doorwaySend (core : Nat)
  | wait (core : Nat)
  | signal (core : Nat)
  | phase (core : Nat)
  | tileCommandFinish (core : Nat) (unit : Nat)
  | coreTrap (core : Nat) (cause : Nat) (addr : W64)
  | ecall (core : Nat) (a7 a0 pc : W64)
  | launchComplete (launch : Nat)
  | bankPwrWrite (core : Nat) (value : W32)
  | bankStateChange (core bank : Nat)
  | bankWakeComplete (core bank : Nat)
  | bankStarvation (core bank : Nat) (mover : Bool) (waited : Nat)
  | corePcRead (fn : Nat)
  | segmentEnable (fn : Nat) (value : W32)
  | segmentDisable (fn : Nat) (value : W32)
  | segmentDisableEnd (fn seg : Nat)
  | segmentFlush (fn : Nat) (value : W32)
  | segmentFlushEnd (fn seg : Nat)
  | walkerReadComplete (ks walker : Nat) (result : ScrubResult)
  | migrationStart (ks record : Nat)
  | migrationWritebackComplete (ks record : Nat) (result : ScrubResult)
  | migrationReadComplete (ks record : Nat) (poisoned : Bool)
  | stampReport
  | residencyStampPass
  | streamBindingEnable (fn : Nat) (value : W32)
  | streamBindingDisable (fn : Nat) (value : W32)
  | streamWatchdogTick
  | cutRuleEnable (value : W32)
  | cutRuleDisable (value : W32)
  | pd23PowerOn
  | cutterIncrement (rule slot : Nat)
  | stampReadComplete (rule : Nat)
  | answerTimeout (rule slot : Nat)
  | ethFrameReceive (port : Nat) (f : EthFrame)
  | ethFrameTransmit (port : Nat)
  | ethTxComplete (port : Nat)
  | ethTxrDoorbell (port : Nat)
  | ethRingEnable (port : Nat) (tx : Bool) (value : W32)
  | ethRxrHeadWrite (port : Nat) (value : W32)
  | ethStatRead (port : Nat)
  | pauseFrameReceive (port : Nat) (pfc : Bool) (classMask : Nat) (quanta : List Nat)
  | pauseTimerExpiry (port : Nat) (cls : Option Nat)
  | xoffRepeat (port prio : Nat)
  | ethLinkUp (port : Nat)
  | ethLinkDown (port : Nat)
  | ethEnableWrite (port value : Nat)
  | verifyTimeout (port : Nat)
  | verifyResponseReceive (port : Nat)
  | hostDataLinkDown
  | hostDataLinkUp (x16 gt64 : Bool)
  | perstAssert
  | perstDeassert
  | hostAttachResume
  | hostAttachFresh
  | cxlCompletionTimeout (a : HostAccess)
  | snoopReceive (line : Nat)
  | vfFlr (fn : Nat)
  | pfFlr
  | flrDrainEnd (fn : Nat)
  | exchangeWindowEnable (value : W32)
  | doeRequest (objType : Nat) (payload : Bytes)
  | doeAbort
  | getVersion
  | getCapabilities
  | negotiateAlgorithms (algs : Bytes)
  | getDigests
  | getCertificate (slot offset length : Nat)
  | challenge (slot : Nat) (nonce : Bytes)
  | getMeasurements (index : Nat) (signed : Bool) (nonce : Bytes)
  | keyExchange (peerKey : Bytes)
  | finish (mac : Bytes)
  | endSession
  | vdevCreate (q : QRef) (e : Entry)
  | vdevDestroy (q : QRef) (e : Entry)
  | vdevFreeze (q : QRef) (e : Entry)
  | vdevFreezeDrainEnd (vdev : Nat)
  | vdevSave (q : QRef) (e : Entry)
  | vdevSaveComplete (vdev : Nat)
  | vdevRestore (q : QRef) (e : Entry)
  | vdevRestoreComplete (vdev : Nat)
  | vdevReset (q : QRef) (e : Entry)
  | vdevDrainEnd (vdev : Nat)
  | clusterReturn (cluster : Nat)
  | keyInstallTransmit (fn index : Nat)
  | keyInstallReceive (fn index : Nat)
  | keyRemoveTransmit (fn index : Nat)
  | keyRemoveReceive (fn index : Nat)
  | keyCommandEnd
  | alarm (bit : Nat)
  | secureWipeEnd
  | lockRead
  | lockRelease (token : W32)
  | lockTimeout
  | drbgReseed
  | lcRequest (h : WHeader) (blob : Bytes)
  | ownerKekImport (h : WHeader) (blob : Bytes)
  | controlPeriod
  | opChangeComplete (die : Nat)
  | probeIntervalExpiry (die : Nat)
  | droopDetect (cluster : Nat)
  | attributionRecord
  | meterSample (watts : Nat)
  | disagreeHoldExpiry
  | refitComplete
  | fallbackClear
  | thermalCeilingStep (unit : Nat) (tj : Nat)
  | thermtrip (unit : Nat)
  | idleStateEntry (u : PowerUnit)
  | unitWakeComplete (u : PowerUnit)
  | waiborRead (h : WHeader) (index sub : Nat)
  | waiborWrite (h : WHeader) (index sub vtype : Nat) (value : Bytes)
  | waiborReadSeg (h : WHeader) (index sub offset : Nat)
  | waiborWriteSegInit (h : WHeader) (index sub total : Nat)
  | waiborWriteSeg (h : WHeader) (index sub : Nat) (last : Bool) (offset : Nat) (data : Bytes)
  | sessionOpen (h : WHeader) (fieldKey : Bytes)
  | sessionAuth (h : WHeader) (mode keyIndex : Nat) (proof : Bytes)
  | sessionClose (h : WHeader)
  | sessionAuthTimeout
  | sessionIdleExpiry
  | segmentStagingExpiry (src : WSource)
  | ledgerCommitComplete (ok : Bool)
  | moduleResetWrite (h : WHeader)
  | faultLogClear (h : WHeader)
  | heartbeat
  | emergencyRepeat
  | fieldFrameReceive (f : FieldFrame)
  | powerOnReset
  | moduleReset (cause : Nat)
  | startupStepComplete (o : StepOutcome)
  | positionWaitExpiry
  | watchdogExpiry
  | firmwareRestartEnd
  | fatalAutoResetExpiry
  | d2dCrcFailure (link : D2dLink)
  | d2dFailureTimeout (link : D2dLink)
  | patrolScrub (t : ScrubTarget) (r : ScrubResult)
  | rfmRefresh (row : Nat)
  | sensorCalibration (sensor : Nat)
  | tallyWritebackPass (ks : Nat)
  | undervoltageDip
  | undervoltageDeclared
  | supplyRestore
  | refclkLoss (c : RefClock)
  | segmentZeroingEnd (fn seg : Nat)
  | contextWaitGiveUp (q : QRef) (idx : Nat)
  | droopStretchEnd (cluster : Nat) (ns : Nat)
  | undervoltageDipEnd
  | fieldPwrLoss
  | fieldPwrRestore
  | refclkRestore (c : RefClock)
deriving DecidableEq, Repr

end Sys2Proof
end

