-- ==== Sys2Proof/Config.lean ====
section
/-! DEFINITION. What an implementation fixes and the free values: constants without a body, so that no proof can
see what they are. A statement that mentions one holds whatever it is. -/

namespace Sys2Proof

/-- The `n`-th value the Quoin engine's generator gives (R405). The state field `free` counts the draws. -/
opaque Config.draw : Nat → BitVec 64
/-- The generation of key-table index `i` drawn at the module reset numbered `boot` (R56). -/
opaque Config.resetGeneration (boot i : Nat) : BitVec 16
/-- Draw `n` of the generator of an epilogue unit that a seed started (R288, which gives the generator no algorithm). -/
opaque Config.roundDraw (seed : BitVec 64) (n : Nat) : BitVec 16
/-- GELU away from the exact points of R285; the meaning keeps it within 4 ulp of the exact value. -/
opaque Config.gelu : BitVec 32 → BitVec 32
/-- SiLU away from the exact points of R285. -/
opaque Config.silu : BitVec 32 → BitVec 32
/-- exp2 away from the exact points of R285. -/
opaque Config.exp2 : BitVec 32 → BitVec 32
/-- AES-KW unwrapping (RFC 3394, R400): the plaintext, or none when the integrity check fails. -/
opaque Config.aesKwUnwrap (kek : BitVec 256) (wrapped : List Byte) : Option (List Byte)
/-- The AES-256-GCM tag of a secure packet's bytes (R111). -/
opaque Config.gcmTag (key : BitVec 256) (nonce : BitVec 96) (bytes : List Byte) : BitVec 128
/-- Byte `i` of the keystream of AES-256-GCM under a key and a nonce (R111). -/
opaque Config.gcmStream (key : BitVec 256) (nonce : BitVec 96) (i : Nat) : BitVec 8
/-- AES-256-CMAC (NIST SP 800-38B). -/
opaque Config.cmac (key : BitVec 256) (bytes : List Byte) : BitVec 128
/-- SHA-256. -/
opaque Config.sha256 (bytes : List Byte) : BitVec 256
/-- HKDF-SHA-256 (RFC 5869) with the given secret, salt and info. -/
opaque Config.hkdf (secret salt info : List Byte) : BitVec 256
/-- P-256 ECDH between a private key and a public key of 64 bytes. -/
opaque Config.ecdh (priv : BitVec 256) (pub : List Byte) : List Byte
/-- The public key of a P-256 private key. -/
opaque Config.ecPublic (priv : BitVec 256) : List Byte
/-- An ECDSA P-256 signature, r then s, over a digest. -/
opaque Config.ecdsaSign (priv : BitVec 256) (digest : BitVec 256) : List Byte
/-- ECDSA P-256 verification under a public key. -/
opaque Config.ecdsaVerify (pub : List Byte) (digest : BitVec 256) (sig : List Byte) : Bool
/-- The sensitivity a probe sample shows (R426: a quotient of logarithms, clamped to 0–1), in units of 2^-16,
from the two rates and the two points. -/
opaque Config.probeSensitivity (rateHi rateLo pointHi pointLo : Nat) : Nat
/-- The gain of a step of a pair with sensitivity `s` from a point to the next (R428 names it and gives no
formula for one pair). -/
opaque Config.pairGain (s point : Nat) : Nat
/-- The power of a die that no activity count explains, its static share (R428), in mW. -/
opaque Config.staticShare (die point : Nat) : Nat
/-- The coefficient a refit gives (R433 step 2: least squares over the last second of samples). -/
opaque Config.refit (sub n : Nat) : BitVec 32
/-- The value of a factory-set or one-time-programmed Ledger entry that the manual does not state. -/
opaque Config.factory (index sub : Nat) : List Byte
/-- Whether the device's own LPDDR5X memory has room for residency maps of so many pages in all (R301 names the refusal,
R293 the memory; the manual gives no figure). -/
opaque Config.mapFits : Nat → Bool
/-- The LPDDR5X tier address at which the device places the residency map of a segment, by function × 16 + segment (R293, R299:
in the device's own top 1 GiB of a half). -/
opaque Config.mapAt : Nat → Nat
/-- The outcomes of the coming residue checks of the module's adders, first one first (R240): true is a failure, which is a fault
of the hardware. Past its end every check holds. -/
opaque Config.residueFaults : List Bool
/-- The layout of a QP context in the exchange window is the device's own (R376). -/
opaque Config.qpContextByte (qp offset : Nat) : BitVec 8
/-- The answer of an SPDM request whose bytes DSP0274 lays out and the manual does not (R418). -/
opaque Config.spdmEncode (code : Nat) (fields : List Byte) : List Byte

/-- The 4-byte identity serial of the identity certificate (R414). -/
opaque Config.identitySerial : BitVec 32
/-- The firmware version that an image carries (R463 names it; its header has no field for it). -/
opaque Config.imageVersion (image : List Byte) : BitVec 32
/-- Whether an SPDM FINISH verifies (DSP0274 lays out what it covers): from the exchange's nonce and the message. -/
opaque Config.spdmFinishOk (nonce mac : List Byte) : Bool

/-- The PF's vendor ID, which the manual does not give. -/
opaque Config.pfVendor : BitVec 16
/-- The answer of DOE Discovery to an index, laid out by the PCI Express base specification and not by the manual. -/
opaque Config.doeDiscovery (index : BitVec 8) : List Byte

end Sys2Proof
end

