-- ==== Sys2Proof/Machine/State.lean ====
section
/-! DEFINITION. The state: everything the spec gives the module, as plain data, and the state right after
reset (power-on reset, before step 1 of R465 has ended). -/

namespace Sys2Proof.Machine

open Sys2Proof

/-! ## Containers -/

/-- A byte memory: address and byte pairs, addresses strictly rising, no listed zero. An unlisted byte reads 0
(DESIGN CHOICE, assumption 3). -/
abbrev Memory := List Host.Cell

/-- Sparse data by a numeric key; a key not listed holds the default its reader names. -/
abbrev Table (α : Type) := List (Nat × α)

/-- The parts of R1. -/
inductive Part where
  | tmv9140
  | tmv9130
  | tmv9110
deriving DecidableEq, Repr

/-! ## Queues and rings (R22 to R52, R68) -/

/-- QP states (R48). -/
inductive QState where
  | reset
  | active
  | error
deriving DecidableEq, Repr

/-- Why a queue's head entry is held (R36, R37, R44, R228, R272, R391, R438). -/
inductive Hold where
  | none
  | waitCount
  | fence
  | fenceFlag
  /-- An earlier collective instance, a busy core, a wake, or an earlier VDEV operation. -/
  | head
  /-- The class shaper, 64 entries in progress, or a completion ring that takes no record (R36, R42). -/
  | gate
deriving DecidableEq, Repr

/-- An entry taken from a queue and not yet covered by a completion record (R36 to R41). -/
structure Taken where
  idx : Nat
  entry : Entry
  /-- The status with which it completed; none while it is in progress. -/
  status : Option Nat := none
  info : W32 := 0
  result : W64 := 0
  peer : W32 := 0
  cflags : Nat := 0
  /-- A packet of it has left the module (R41 `sent`). -/
  sent : Bool := false
  /-- Module time at which it was taken (R169). -/
  takenAt : Nat := 0
  /-- It waits for a free tally context (R117). -/
  waitsContext : Bool := false
  /-- It holds the pages of its local range until it ends (R302). -/
  holds : Bool := false
  /-- Bytes of a LOCAL_COPY copied so far (R303). -/
  copied : Nat := 0
deriving DecidableEq, Repr

/-- A receive slot in use, in slot order (R69): its record when the message has finished. -/
structure SlotUse where
  slot : Nat
  /-- The tracker that holds it: peer, epoch and message ID. -/
  peer : W32
  msgId : W32
  received : Nat := 0
  imm : W32 := 0
  /-- none while open; some OK or some FLUSHED once it may be reported. -/
  done : Option Nat := none
deriving DecidableEq, Repr

/-- One send, control or admin queue, with its configuration registers. -/
structure Queue where
  baseLo : W32 := 0
  baseHi : W32 := 0
  size : W32 := 0
  /-- `QCFG_CTRL` as software reads it, `cfg_error` apart. -/
  cq : Nat := 0
  weight : Nat := 0x10
  burstM1 : Nat := 7
  enable : Bool := false
  cfgError : Bool := false
  head : Nat := 0
  phase : Bool := true
  st : QState := .reset
  doorbellPending : Bool := false
  scanning : Bool := false
  hold : Hold := .none
  /-- The entry that the hold keeps at the head. -/
  heldEntry : Option Entry := none
  /-- When a scan first found the head owned and whole without taking it (R169). -/
  headSince : Option Nat := none
  tornCount : Nat := 0
  lastStatus : Nat := 0
  rescanAt : Option Nat := none
  /-- The rescan limit when the last rescan was armed (R32). -/
  rescanLimit : Nat := 0
  taken : List Taken := []
  /-- The disable of R48 waits for the taken entries' records. -/
  closing : Bool := false
  recvKey : W32 := 0
  recvLog2Size : Nat := 0x0C
  recvLog2Slots : Nat := 6
  recvNext : Nat := 0
  recvFree : Nat := 0
  returnError : Bool := false
  slotsUsed : List SlotUse := []
  /-- Slots that messages of an earlier enable still hold, each with the completion ring that reserves its record (R70). -/
  slotsPast : List (SlotUse × Nat) := []
deriving DecidableEq, Repr

/-- A 32-byte record waiting for its ring, as a value (byte i is bits [8i+7:8i]); the owner bit is set when it
is written. -/
abbrev Rec := BitVec 256

/-- A ring the device produces: completion, event, telemetry, attribution (R24, R42, R373). -/
structure OutRing where
  baseLo : W32 := 0
  baseHi : W32 := 0
  size : W32 := 0
  enable : Bool := false
  cfgError : Bool := false
  prod : Nat := 0
  phase : Bool := true
  cons : Nat := 0
  armed : Bool := false
  /-- Records reserved for receive areas (R70). -/
  reserved : Nat := 0
  /-- Records held for want of room, or while the host link is down (R42, R379), oldest first, each with its queue. -/
  held : List (QRef × Rec) := []
  /-- CQ_FULL has been raised in this episode (R42). -/
  fullRaised : Bool := false
  lastStatus : Nat := 0
  /-- The other fields of its `QCFG_CTRL`. -/
  cq : Nat := 0
  weight : Nat := 0x10
  burstM1 : Nat := 7
deriving DecidableEq, Repr

/-! ## Functions and virtual devices -/

inductive VState where
  | none
  | active
  | halted
  | frozen
deriving DecidableEq, Repr

/-- A virtual device's grant (R386, R392). -/
structure Grant where
  queues : Nat
  qpBase : Nat
  cqCount : Nat
  secure : Bool
  clusters : W32
  regionKeys : Nat
  windowKeys : Nat
  hbmFrames : Nat
  lpddrFrames : Nat
  mortarSlots : Nat
  sramQueues : Nat
deriving DecidableEq, Repr

/-- The VDEV operation in progress on a virtual device (R391), with the entry it completes. -/
inductive VOp where
  | freeze (q : QRef) (idx : Nat) (result : W64)
  | save (q : QRef) (idx : Nat) (buf len result : W64)
  /-- The image as it was read when the operation started (R389). -/
  | restore (q : QRef) (idx : Nat) (image : List Byte) (map result : W64) (hostSame : Bool)
  | reset (q : QRef) (idx : Nat) (result : W64)
  | destroy (q : QRef) (idx : Nat) (result : W64)
  | flr
deriving DecidableEq, Repr

/-- A translation segment: its registers and its descriptor (R299, R300). -/
structure Segment where
  vaLo : W32 := 0
  vaHi : W32 := 0
  hostLo : W32 := 0
  hostHi : W32 := 0
  pages : Nat := 0
  tier : Nat := 0
  read : Bool := false
  write : Bool := false
  migratory : Bool := false
  enable : Bool := false
  cfgError : Bool := false
  valid : Bool := false
  /-- Allocated and being zeroed (R301, SEGMENT_ZEROING_END). -/
  zeroing : Bool := false
  flushing : Bool := false
  flushPinned : Bool := false
  disabling : Bool := false
  tierBase : Nat := 0
  /-- After a fresh attach every migration fails until the segment is disabled (R380). -/
  migrationsFail : Bool := false
deriving DecidableEq, Repr

/-- One residency map entry (R306). `held` counts the accesses that hold the page (R303, R310). -/
structure Page where
  resident : Bool := false
  dirty : Bool := false
  migrating : Bool := false
  lost : Bool := false
  pins : Nat := 0
  frame : Nat := 0
  stamp : Nat := 0
  held : Nat := 0
deriving DecidableEq, Repr

/-- A stream binding (R321, R322). -/
structure Binding where
  key : W32 := 0
  enable : Bool := false
  cfgError : Bool := false
  sem : Nat := 0
  core : Nat := 0
  wakeTol : Nat := 0
  watchdogUs : Nat := 0
  keyStale : Bool := false
deriving DecidableEq, Repr

/-- A function's telemetry registers and ring (R167, R171). -/
structure Telem where
  ring : OutRing := {}
  enable : Bool := false
  ports : Bool := false
  intervalM1 : Nat := 0
  first : Nat := 0
  count : Nat := 0
  /-- Samples lost of each queue since its previous record, keyed by kind × 2^20 + queue (R170). -/
  skipped : Table Nat := []
  /-- The last instant sampled, and the bytes written for it (R170). -/
  lastAt : Nat := 0
  lastWrote : Nat := 0
deriving DecidableEq, Repr

inductive SaState where
  | empty
  | live
  | wiped
  | exhausted
deriving DecidableEq, Repr

/-- A key register page (R399), and its function's transmit association (R110, R402). -/
structure KeyPage where
  blob : List W32 := List.replicate 16 0
  busy : Bool := false
  result : Nat := 0
  doneCount : W16 := 0
  txState : SaState := .empty
  txPeerSa : Nat := 0
  txKey : BitVec 256 := 0
  txSalt : W32 := 0
  txCtr : W64 := 0
  rxSel : Nat := 0
  rxRequired : Bool := false
  /-- The tenant tag is the manager's (R399). -/
  tag : W32 := 0
deriving DecidableEq, Repr

/-- The exchange window of a function (R376). -/
structure Xw where
  baseLo : W32 := 0
  baseHi : W32 := 0
  pages : Nat := 0
  enable : Bool := false
  cfgError : Bool := false
deriving DecidableEq, Repr

/-- One function (R8, R50, R52): its virtual device, its registers, rings, counters, segments and bindings. -/
structure Fn where
  vstate : VState := .none
  haltStatus : Nat := 0
  eventOverflow : Bool := false
  eventsDropped : Nat := 0
  grant : Option Grant := none
  vop : Option VOp := none
  flrDraining : Bool := false
  /-- The grant of a destroyed device whose drains have not ended: still out of the pools (R393). -/
  retiring : Option Grant := none
  qselIndex : Nat := 0
  qselKind : Nat := 0
  /-- Selections, kind and index, that name no ring of the function and whose enable write was refused (R49). -/
  qselRefused : List (Nat × Nat) := []
  cntSel : Nat := 0
  cntHi : W32 := 0
  coreSel : Nat := 0
  pcHi : W32 := 0
  segSel : Nat := 0
  streamSel : Nat := 0
  sends : Table Queue := []
  control : Queue := {}
  cqs : Table OutRing := []
  eq : OutRing := {}
  counters : Table (BitVec 48) := []
  telem : Telem := {}
  segs : Table Segment := []
  /-- Residency maps, keyed by segment × 2^20 + page (R306). -/
  pages : Table Page := []
  bindings : Table Binding := []
  keyPage : KeyPage := {}
  xw : Xw := {}
  /-- MSI-X vectors that the table unmasks, and pending bits (R373). -/
  msixUnmasked : List Nat := []
  /-- The other words of the MSI-X table, keyed by vector × 4 + word: message address low, high and data. -/
  msixTable : Table W32 := []
  msixPending : List Nat := []
deriving DecidableEq, Repr

/-! ## The key table (R54 to R77) -/

structure KeyEntry where
  generation : W16
  owner : Nat := 0
  valid : Bool := false
  window : Bool := false
  revoking : Bool := false
  recvArea : Bool := false
  rights : Nat := 0
  tier : Nat := 0
  base : Nat := 0
  length : Nat := 0
  /-- The segment and page range pinned by a region over a migratory segment (R62, R64). -/
  pinned : Option (Nat × Nat × Nat) := none
deriving DecidableEq, Repr

/-- An entry that waits for a key's drain or for a SETTLE (R65, R66, R76). -/
inductive DrainWait where
  | key (index : Nat) (q : QRef) (idx : Nat)
  /-- The admission numbers that a SETTLE waits for. -/
  | settle (q : QRef) (idx : Nat) (upTo : Nat)
deriving DecidableEq, Repr

structure Keys where
  table : Table KeyEntry := []
  /-- Freed indices, in the order they joined the tail of their range's free list (R56). -/
  regionFreed : List Nat := []
  windowFreed : List Nat := []
  /-- The first index of each range never yet allocated. -/
  regionFresh : Nat := 1
  windowFresh : Nat := 0xC000
  waits : List DrainWait := []
deriving DecidableEq, Repr

/-! ## Enpin: contexts, messages, trackers, the banker (R79 to R161) -/

/-- Whose message it is. -/
inductive Owner where
  /-- An entry of a queue. -/
  | entry (q : QRef) (idx : Nat)
  /-- A doorway message of a core, by its number in the core (R267). -/
  | doorway (core n : Nat)
  /-- The response to a peer's request (R89, R90), by the request's admission number. -/
  | response (reqMsgId : W32) (num : W32)
  /-- A fallback-ring packet of a collective instance (R241). -/
  | ring (group inst : W32)
  /-- An announcement or abort that answers no entry. -/
  | none
deriving DecidableEq, Repr

/-- Where a message's payload is read from (R102, R303, R127). -/
inductive Source where
  /-- Virtual addresses of a function. -/
  | va (fn : Nat) (base : W64)
  /-- A core's scratchpad or cluster store (R259). -/
  | scratch (addr : Nat)
  | cluster (addr : Nat)
  /-- A target's memory by tier and tier address, for a READ response (R89). -/
  | tier (tier : Nat) (base : Nat)
  /-- Bytes the device made itself. -/
  | bytes (b : List Byte)
deriving DecidableEq, Repr

/-- A message being sent in a context (R102 to R104). -/
structure TxMsg where
  msgId : W32
  owner : Owner
  ptype : PType
  ext : PExt
  src : Source
  /-- Byte offset of this message in its source and in the remote range, and its length in bytes. -/
  start : Nat
  len : Nat
  pktCount : Nat
  next : Nat := 0
  acked : Nat := 0
  segment : Nat
  chained : Bool := false
  solicit : Bool := false
  secure : Bool := false
  sig : Option W64 := none
  dstQp : Nat := 0
  tc : Nat := 0
  /-- Function whose shaper and association it uses. -/
  fn : Nat := 0
  lastSeq : W32 := 0
  refused : Bool := false
deriving DecidableEq, Repr

/-- An outstanding-packet record (R126). -/
structure OutPkt where
  seq : W32
  msgId : W32
  index : Nat
  firstSent : Nat
  lastSent : Nat
  timeout : Nat
  sends : Nat := 1
  path : Nat := 0
  charged : Nat := 0
  /-- It is an ABORT, with the status it carries (R137), and that ABORT has left: its give-up time runs (R139). -/
  abort : Option Nat := none
  abortSent : Bool := false
  lastRnr : Bool := false
  rnrs : Nat := 0
  /-- It is to be sent again once the back-off ends (R135). -/
  rnrWait : Bool := false
  /-- The Keystone whose engine sent it (R126), and the queue whose course carries it (R194). -/
  ks : Nat := 0
  qp : Option Nat := none
  /-- It waits to be sent again. -/
  resend : Bool := false
  /-- The packet as sent, for an opening, an abort or a packet of no message. -/
  tmpl : Packet
deriving DecidableEq, Repr

/-- A READ or atomic that awaits its response (R131, R140). -/
structure PendReq where
  msgId : W32
  owner : Owner
  fn : Nat
  localVa : W64
  length : Nat
  received : Nat := 0
  acked : Bool := false
  /-- Response messages of which a packet has come: an ABORT of one of them ends the request (R131). -/
  resp : List W32 := []
  /-- The later of the request's acknowledgement and the last response packet (R131). -/
  since : Nat := 0
deriving DecidableEq, Repr

inductive CtxState where
  | unopened
  | opening
  | opened
deriving DecidableEq, Repr

/-- The rate state of a context (R153). -/
structure Cc where
  rate : Nat := 0
  portGen : Nat := 0
  alpha : Nat := 0
  tUpdate : Nat := 0
  tTokens : Nat := 0
  echo : Bool := false
  decreased : Bool := false
  bitCarry : Nat := 0
  echoPending : Nat := 0
  tokens : Int := 0
deriving DecidableEq, Repr

/-- A reliability context (R115 to R121), keyed by its peer. -/
structure Ctx where
  index : Nat
  st : CtxState := .unopened
  epoch : Nat := 0
  ethForm : Bool := false
  openSeq : W32 := 0
  txNext : W32 := 0
  txAcked : W32 := 0
  rxBase : W32 := 0
  msgNext : W32 := 0
  /-- Module time in µs at which the epoch began, in ms of the last sequenced packet (R118). -/
  epochTime : Nat := 0
  lastActive : Nat := 0
  srtt : Nat := 0
  rttvar : Nat := 0
  rto : Nat := 0
  sampled : Bool := false
  cc : Cc := {}
  pathWeight : List Nat := List.replicate 16 32
  /-- Bit n covers `rxBase` + n (R118). -/
  seen : BitVec 1024 := 0
  done : BitVec 1024 := 0
  onChip : Bool := true
  dirty : Bool := false
  /-- Module time in ns of its last use, for the least recently used one (R116). -/
  usedAt : Nat := 0
  /-- Done packets not yet reported, and the time of the oldest (R130). -/
  unreported : Nat := 0
  unreportedAt : Nat := 0
  /-- Packets that complete a message whose signal is not applied yet, as message, sequence number and `ack_req`: not
  reported before it is (R212). -/
  unreportable : List (W32 × W32 × Bool) := []
  msgs : List TxMsg := []
  outs : List OutPkt := []
  reqs : List PendReq := []
  rnrUntil : Option (W32 × Nat) := none
  /-- Members of a line context that have acknowledged its opening, and those still to acknowledge each packet
  (R200, R201). -/
  members : W32 := 0
  memberAcks : Table W32 := []
deriving DecidableEq, Repr

inductive TrackerState where
  | open
  | refused
  | aborted
deriving DecidableEq, Repr

/-- A message tracker (R105 to R107). -/
structure Tracker where
  peer : W32
  epoch : Nat
  msgId : W32
  ks : Nat
  st : TrackerState := .open
  pktCount : Nat
  written : Nat := 0
  sig : Option W64 := none
  /-- The sequence number of the packet that carries the signal. -/
  sigSeq : W32 := 0
  chained : Bool := false
  solicit : Bool := false
  dstQp : Nat := 0
  srcQp : Nat := 0
  op : Nat := 0
  lastSeq : W32 := 0
  /-- The virtual device that held the destination when it was admitted (R75). -/
  vdev : Nat := 0
  /-- The binding that watches it (function, binding), since when, and whether a stall is reported (R325). -/
  watch : Option (Nat × Nat) := none
  watchAt : Nat := 0
  stalled : Bool := false
  imm : W32 := 0
  slot : Option Nat := none
deriving DecidableEq, Repr

/-- Where an admitted packet is written. -/
inductive Target where
  | tier (tier : Nat) (base : Nat)
  | va (fn : Nat) (base : W64)
  /-- It writes nothing: SIGNAL_ONLY, a packet of a refused or aborted message, a clear multicast bit. -/
  | nothing
deriving DecidableEq, Repr

/-- An admitted access in progress (R72): a packet whose data has not reached memory, or a READ whose
response is not acknowledged. -/
structure Adm where
  num : Nat
  peer : W32
  seq : W32
  ks : Nat
  keyIndex : Nat
  /-- The key as received, and the epoch of the context when it was admitted. -/
  key : W32 := 0
  epoch : Nat := 0
  vdev : Nat
  tgt : Target
  data : List Byte
  msgId : W32
  pktCount : Nat
  /-- The packet asked for an acknowledgement at once (R84, R130), itself or by a duplicate. -/
  ackReq : Bool := false
  /-- Its message's tracker counts it (R105). -/
  tracked : Bool := true
  /-- The message whose READ response keeps it in progress. -/
  response : Option W32 := none
  /-- The request that a READ_RESPONSE packet answers. -/
  answers : Option W32 := none
  /-- Data written; it stays only for its signal (R210). -/
  written : Bool := false
deriving DecidableEq, Repr

structure Parked where
  rx : RxInfo
  pkt : Packet
  blocks : Nat
  needTally : Bool
  needQp : Option Nat
  at_ : Nat
deriving DecidableEq, Repr

structure Enpin where
  ctxs : Table Ctx := []
  trackers : List Tracker := []
  adms : List Adm := []
  admNext : Nat := 0
  banker0 : List Parked := []
  banker1 : List Parked := []
  /-- The time of the last RNR for a banker drop, per Keystone × 2^32 + source module (R141). -/
  rnrSent : Table Nat := []
  /-- QP contexts on chip (R140), most recently used last. -/
  qpOnChip : List Nat := []
  /-- Written notices on their way over the K0 ↔ K1 link (R105): peer, sequence number, message. -/
  notices : List (W32 × W32 × W32) := []
  /-- Generation of the usable-port list (R161). -/
  portGen : Nat := 0
deriving DecidableEq, Repr

/-- A class shaper (R163, R165): loaded values, written values, credit in bits. -/
structure Shaper where
  slope : Nat := 0
  hi : Nat := 0x10000
  lo : Nat := 0x10000
  wSlope : Nat := 0
  wHi : Nat := 0x10000
  wLo : Nat := 0x10000
  credit : Int := 0
  active : Bool := false
  /-- c after the last tick, as `SHAPER_STAT` reports it. -/
  stat : Int := 0
deriving DecidableEq, Repr

/-! ## The wall (R173 to R203) -/

inductive LinkState where
  | down
  /-- SerDes trained and codeword lock; the count of good idle flits so far. -/
  | training (idles : Nat)
  | up
  | goingDown
deriving DecidableEq, Repr

structure Link where
  st : LinkState := .down
  held : Bool := false
  /-- The last position and size its neighbour showed. -/
  last : Option IdleFlit := none
  /-- Transmit side per credit class 0–14: flits sent and freed counts learned (R178). -/
  sent : List Nat := List.replicate 15 0
  freed : List W16 := List.replicate 15 0
  /-- Receive side: buffers freed here, cumulative. -/
  ours : List W16 := List.replicate 15 0
  /-- Of those, the ones that no flit or idle flit has returned yet (R174, R178). -/
  owed : List Nat := List.replicate 15 0
  /-- The VCs of the last 63 flits sent, newest first (R181). -/
  recent : List Nat := []
  lastIdleAt : Nat := 0
deriving DecidableEq, Repr

/-- A frame in the router (R175, R186): where it came in, when it was queued and its VC3 order. -/
structure RFrame where
  f : BondFrame
  inLink : Option Nat
  at_ : Nat
  /-- VC3 order y-then-x (R187). -/
  yx : Bool := false
  /-- The output it is queued for, and whether that is fixed (a one-hop frame, R180). -/
  out : Option Nat := none
  fixed : Bool := false
  /-- The credit class whose buffers it holds at its input (R174). -/
  inClass : Nat := 0
  /-- The Enpin packet is sequenced (R149). -/
  sequenced : Bool := false
  bytes : Nat
deriving DecidableEq, Repr

/-- An announcement held for its origin (R184). -/
structure HeldAnnounce where
  a : Announce
  at_ : Nat
deriving DecidableEq, Repr

/-- A router's entry of a circuit (R191, R193). -/
structure Circuit where
  handle : W32
  source : W32
  dest : W32
  slots : Nat
  inLink : Option Nat
  outLink : Option Nat
  queue : Nat
  outQueue : Nat
  /-- The directions of its legs along x and y, taken when it was laid. -/
  dx : Nat
  dy : Nat
  /-- Its slots on the output, of the cycle of 256 (R191). -/
  places : List Nat := []
  /-- A lift has reached this router; it has been passed on. -/
  lifting : Bool := false
  passed : Bool := false
deriving DecidableEq, Repr

/-- A circuit laid, or being laid or lifted, from this module (R192 to R196). -/
structure Course where
  handle : W32
  dest : W32
  qp : Nat
  slots : Nat
  laid : Bool := false
  bound : Bool := false
  broken : Bool := false
  /-- The entry that waits for the far end's answer, with its result address. -/
  waiter : Option (QRef × Nat × W64) := none
deriving DecidableEq, Repr

structure Wall where
  links : Table Link := []
  /-- Position (x, y), wall number and sizes, once held (R183). -/
  pos : Option (Nat × Nat) := none
  wallNumber : Nat := 0
  sizeX : Nat := 0
  sizeY : Nat := 0
  nonce : W16 := 0
  aseq : W16 := 0
  /-- The module was started as the wall's origin (R183). -/
  origin : Bool := false
  anns : Table HeldAnnounce := []
  fenced : Bool := false
  /-- The FENCE_MODULE and UNFENCE_MODULE entries that wait for their announcement to be sent (R197). -/
  fenceWaits : List (QRef × Nat) := []
  frames : List RFrame := []
  circuits : List Circuit := []
  courses : List Course := []
  nextHandle : Nat := 1
deriving DecidableEq, Repr

/-! ## Collectives (R223 to R248) -/

/-- The signature of an instance (R237). -/
structure Sig where
  op : Nat
  red : Nat
  dtype : Nat
  elements : Nat
  root : Nat := 0
deriving DecidableEq, Repr

/-- One chunk in a unit's slot (R232, R236). -/
structure Chunk where
  /-- Members whose up packet is recorded; this member's own contribution counts as its own index. -/
  from_ : List Nat := []
  /-- The combined chunk in accumulator form, or native bytes for all-gather and broadcast. -/
  acc : List W32 := []
  native : List Byte := []
  /-- It has been forwarded up, or has come back down. -/
  upSent : Bool := false
  upAcked : Bool := false
  down : Bool := false
  /-- Children whose DOWN_ACK is awaited. -/
  downWait : List Nat := []
  /-- Its down part has ended here and its slot is free (R236). -/
  ended : Bool := false
  /-- Its result has been written at this member. -/
  written : Bool := false
deriving DecidableEq, Repr

inductive InstMode where
  | tree
  | tie
  | ring
deriving DecidableEq, Repr

/-- A packet kept until its hop acknowledges it (R235). -/
structure HopPkt where
  member : Nat
  chunk : Nat
  /-- 0 up, 1 down, 2 ABORT or FALLBACK control. -/
  dir : Nat
  tries : Nat
  pkt : Packet
  sentAt : Nat
deriving DecidableEq, Repr

/-- An instance held by a group (R228 to R245). -/
structure Inst where
  num : W32
  mode : InstMode := .tree
  sig : Option (Sig × Nat) := none
  /-- The member's own entry, once posted. -/
  entry : Option (QRef × Nat) := none
  /-- The queue of that entry, kept past its completion: a member goes on giving the chunks it owes (R238). -/
  posted : Option QRef := none
  own : Option Sig := none
  fn : Nat := 0
  contribution : W64 := 0
  resultVa : W64 := 0
  length : Nat := 0
  takenAt : Nat := 0
  reserved0 : Nat := 0
  reserved1 : Nat := 0
  admitted : Bool := false
  chunks : Table Chunk := []
  hops : List HopPkt := []
  aborted : Option Nat := none
  /-- The module an abort names. -/
  abortPeer : W32 := 0
  /-- `coll_give_up`, `tree_hop_rto`, `tree_hop_tries` and `tie_timeout` when it was taken (R247). -/
  giveUp : Nat := 0
  rto : Nat := 0
  hopTries : Nat := 0
  tieTime : Nat := 0
  /-- Completed at this member. -/
  done : Bool := false
  /-- FALLBACK has gone out on its edges (R233). -/
  fellBack : Bool := false
  /-- Tie frames whose first copy has come, as the neighbour's member × 2 + 1 for a result (R244). -/
  tieSeen : List Nat := []
  /-- Fallback ring: packets combined so far, keyed by pass × 2^20 + segment (R241). -/
  ringGot : Table (List Byte) := []
  ringWritten : List Nat := []
deriving DecidableEq, Repr

/-- A group (R224). -/
structure Group where
  handle : W32
  vdev : Nat
  axis : Nat
  tie : Bool
  tc : Nat
  ox : Nat
  oy : Nat
  w : Nat
  h : Nat
  rx : Nat
  ry : Nat
  slots : Nat
  count : W32 := 0
  insts : List Inst := []
  /-- The GROUP_DESTROY entry that waits for its instances. -/
  destroying : Option (QRef × Nat) := none
deriving DecidableEq, Repr

/-- An ABORT of a destroyed group's instance that its hop has not acknowledged (R225, R235). -/
structure Orphan where
  handle : W32
  inst : W32
  dir : Nat
  rto : Nat
  tries : Nat
  hop : HopPkt
deriving DecidableEq, Repr

structure Coll where
  groups : Table Group := []
  orphans : List Orphan := []
  slotsUsed0 : Nat := 0
  slotsUsed1 : Nat := 0
  /-- Slots charged to each virtual device per Keystone, keyed by device × 2 + Keystone (R232). -/
  share : Table Nat := []
  /-- Outcomes of the coming residue checks (R240): the model's own field, a fact of the hardware. -/
  residue : List Bool := Config.residueFaults
deriving DecidableEq, Repr

/-! ## Compute (R249 to R288) -/

/-- A weight slot (R254). -/
structure WSlot where
  fmt : Nat
  sparse : Bool
  values : List Byte
  scales : List Byte
  meta_ : List Byte
deriving DecidableEq, Repr

structure Engine where
  slot0 : Option WSlot := none
  slot1 : Option WSlot := none
  /-- Accumulator values, keyed by row × 16 + column (R249). -/
  acc : Table W32 := []
deriving DecidableEq, Repr

inductive CoreState where
  | idle
  | loading
  | running
  | blocked
  | halted
  | ended
deriving DecidableEq, Repr

/-- A command started on its unit and not finished (R251). Units: 0–7 engines, 8 epilogue, 9 mover,
10 doorway, 11 semaphore block. -/
structure Running where
  unit : Nat
  cmd : W128
  /-- Waiting for its fault records or for a walker (R302). -/
  waiting : Bool := false
deriving DecidableEq, Repr

/-- A doorway message outstanding (R270). -/
structure DoorMsg where
  n : Nat
  dest : W32
  done : Option Nat
  /-- Its fence holds it until every earlier message to its destination has completed (R216). -/
  fenced : Bool := false
  cmd : W128
  route : List Byte
deriving DecidableEq, Repr

structure Core where
  st : CoreState := .idle
  waitSem : Nat := 0
  /-- When the core last blocked in a WAIT, took a WAIT's count or ended its program (R215). -/
  waitAt : Nat := 0
  /-- When something that could reach the core last ended: a message, a transfer, an increment, a binding (R215). -/
  busyAt : Nat := 0
  cause : Nat := 0
  pc : W64 := 0
  exit : W32 := 0
  /-- Registers x1–x31, x0 apart (R250: RV64IMAC). -/
  regs : Table W64 := []
  /-- LR's reservation: its address in the control unit's map and the value it read. -/
  reservation : Option (Nat × W64) := none
  cmd0 : W64 := 0
  cmdq : List W128 := []
  /-- A store to CMD1 that stalls the control unit (R250). -/
  stalled : Option W128 := none
  running : List Running := []
  routes : Memory := []
  sems : Table Nat := []
  snapshot : Table Nat := []
  launch : Option Nat := none
  phase : Nat := 0
  door : List DoorMsg := []
  doorNext : Nat := 0
  engines : Table Engine := []
  /-- The epilogue unit's generator: its seed, drawn at LAUNCH, and the draws made since (R288). -/
  rngSeed : BitVec 64 := 0
  rngDraws : Nat := 0
  /-- `BANK_PWR` as it reads back, and each bank's state (R266). -/
  bankReq : W32 := 0
  bankSt : W32 := 0
  /-- Banks on their way back on (R266). -/
  waking : List Nat := []
  starving : List Nat := []
  clockOff : Bool := false
  enginesGated : List Nat := []
deriving DecidableEq, Repr

/-- A LAUNCH outstanding (R272 to R274). -/
structure Launch where
  id : Nat
  q : QRef
  idx : Nat
  fn : Nat
  first : Nat
  count : Nat
  length : Nat
  /-- Its cores are claimed and wait for the pages of its argument block (R272, R303). -/
  loading : Bool := false
  /-- Its entry has completed without it: nothing is reported at its end (R41, R50). -/
  gone : Bool := false
  /-- The first fault: status, result and the module that refused (R262, R38). -/
  fault : Option (Nat × W64 × W32) := none
  /-- `sem_balance_check`, `sem_balance_mask`, `deadlock_window` when it was taken (R215). -/
  balance : Bool := true
  mask : W64 := 0
  window : Nat := 0
  deadlockReported : Bool := false
deriving DecidableEq, Repr

structure Compute where
  cores : Table Core := []
  launches : List Launch := []
  nextLaunch : Nat := 0
deriving DecidableEq, Repr

/-! ## Migration (R303 to R311) -/

/-- Who waits for pages (R302, R303, R310). -/
inductive Waiter where
  | move (core : Nat)
  | packet (peer : W32) (msgId : W32)
  /-- An entry of a queue, reissued whole. -/
  | entry (q : QRef) (idx : Nat)
  /-- An instance whose member has completed and still owes chunks of its contribution (R238). -/
  | coll (group inst : W32)
deriving DecidableEq, Repr

structure FaultRec where
  /-- 0 free, 1 waiting for a slot, 2 evicting, 3 reading, 4 done, 5 failed (R311). -/
  st : Nat
  status : Nat := 0
  fn : Nat
  seg : Nat
  page : Nat
  frame : Nat := 0
  victimSeg : Nat := 0xFF
  victim : Nat := 0xFFFFFFFF
  /-- Its place in the order of allocation (R307). -/
  num : Nat := 0
  start : Nat
  /-- Each with the first byte of its request. -/
  waiters : List (Waiter × Nat) := []
deriving DecidableEq, Repr

structure Walker where
  /-- 0 idle, 1 reading the descriptor, 2 reading the residency entry, 3 joining or allocating (R311). -/
  st : Nat
  source : Nat
  fn : Nat
  seg : Nat
  va : Nat
  page : Nat
  waiter : Waiter
  /-- When the request came (R304). -/
  since : Nat := 0
deriving DecidableEq, Repr

/-- What is between a virtual device and the pools (R388). -/
structure Pools where
  /-- Clusters that wait to be zeroed. -/
  returning : List Nat := []
deriving DecidableEq, Repr

structure Mig where
  recs0 : Table FaultRec := []
  recs1 : Table FaultRec := []
  walkers0 : Table Walker := []
  walkers1 : Table Walker := []
  /-- Records allocated so far (R307). -/
  recNext : Nat := 0
  /-- Segments and pages named by segment caches, each agent's latest used first: agent, function, segment × 2^20 + page, or 2^20 − 1
  where only the descriptor is named (R304); agents 0–511 are cores, 512 and 513 the Keystones. -/
  cached : List (Nat × Nat × Nat) := []
  /-- Allocations: tier, first frame, frames, function. -/
  allocs : List (Nat × Nat × Nat × Nat) := []
deriving DecidableEq, Repr

/-! ## The cut path (R330 to R344) -/

inductive CutSlot where
  /-- Taken at the match: frame cut, its increment not yet applied. -/
  | filling (seq : Nat)
  /-- Cut and signalled, not yet answered. -/
  | pending (seq : Nat) (since : Nat)
deriving DecidableEq, Repr

structure CutReq where
  slot : Nat
  st : CutSlot
  header : List Byte
  arrival : Nat
deriving DecidableEq, Repr

structure CutRule where
  /-- Copy of the descriptor taken at enable (R331). -/
  desc : List Byte := []
  enable : Bool := false
  cfgError : Bool := false
  /-- PD23 was on, or has come on since the enable (R337). -/
  active : Bool := false
  nextSeq : Nat := 0
  /-- Requests in sequence order, oldest first. -/
  reqs : List CutReq := []
  /-- Advances of the counter whose read has not ended (R338). -/
  reads : Nat := 0
deriving DecidableEq, Repr

structure Cut where
  sel : Nat := 0
  rules : Table CutRule := []
  pd23 : Bool := false
deriving DecidableEq, Repr

/-! ## Ethernet (R345 to R365) -/

/-- A frame queued at a port: its bytes without the FCS, its class, its transmit slot if a ring frame. -/
structure TxFrame where
  bytes : List Byte
  express : Bool
  cls : Nat
  ring : Option Nat := none
  at_ : Nat := 0
  /-- The Enpin packet is ECT (R150). -/
  sequenced : Bool := false
  /-- `add_frag_size` when the frame started, and how often it has been interrupted (R348, R353). -/
  addFrag : Nat := 0
  cuts : Nat := 0
deriving DecidableEq, Repr

inductive Verify where
  | disabled
  | waitLink
  | verifying (tries : Nat)
  | succeeded
  | failed
deriving DecidableEq, Repr

structure Port where
  linkUp : Bool := false
  verify : Verify := .waitLink
  /-- When the verify attempt under way times out (R353). -/
  verifyAt : Nat := 0
  /-- When the pause timers of the port and of its classes end, and since when some timer has run (R355). -/
  paused : Option Nat := none
  pfc : Table Nat := []
  pausedSince : Option Nat := none
  /-- Priorities in XOFF with the time at which the XOFF is repeated; 8 stands for the whole port in PAUSE mode (R356). -/
  xoff : Table Nat := []
  /-- Packets in the receive buffer that Enpin has not taken yet, with their frame's priority and bytes (R356). -/
  held : List (Packet × Nat × Nat) := []
  express : List TxFrame := []
  classes : Table (List TxFrame) := []
  cur : Option TxFrame := none
  /-- A preemptable frame interrupted by the express frame under way. -/
  hung : Option TxFrame := none
  rxr : OutRing := {}
  rxM : Nat := 0
  txBaseLo : W32 := 0
  txBaseHi : W32 := 0
  txLog2 : Nat := 0
  txM : Nat := 0
  txSram : Bool := false
  txEnable : Bool := false
  txCfgError : Bool := false
  /-- Device head, scan position and their phases (R363). -/
  txHead : Nat := 0
  txScan : Nat := 0
  txPhase : Bool := true
  txDone : List Nat := []
  txError : Bool := false
  txArmed : Bool := false
  statSel : Nat := 1
  statHi : W32 := 0
deriving DecidableEq, Repr

structure Eth where
  ports : Table Port := []
  /-- Contents delivered to the internal port and not yet taken (R189, R358). -/
  internal : List (RxInfo × Packet) := []
  /-- The mode in force since the last module reset (R345). -/
  mode : Nat := 0
deriving DecidableEq, Repr

/-! ## Host link (R366 to R385) -/

structure HostLink where
  linkUp : Bool := false
  attached : Bool := true
  lost : Bool := false
  width : Nat := 0
  speed : Nat := 0
  losses : Nat := 0
  perst : Bool := false
  xwSel : Nat := 0
  shaperSel : W32 := 0
  /-- A DOE object in progress (R374). -/
  doe : Option Bytes := none
  /-- When the last host loss came: losses that meet count once (R491). -/
  lossAt : Option Nat := none
deriving DecidableEq, Repr

/-! ## Security (R398 to R421) -/

inductive LcState where
  | blank
  | provisioned
  | deployed
  | returned
  | decommissioned
deriving DecidableEq, Repr

structure RxSa where
  owner : Nat
  st : SaState
  key : BitVec 256
deriving DecidableEq, Repr

structure KeyCmd where
  fn : Nat
  op : Nat
  index : Nat
  /-- An alarm came while it ran (R409). -/
  wiped : Bool := false
deriving DecidableEq, Repr

inductive Spdm where
  | idle
  | negotiated
  | keyExchanged
  | session
deriving DecidableEq, Repr

structure Sec where
  rxSas : Table RxSa := []
  cmds : List KeyCmd := []
  tagSel : Nat := 0
  alarms : Byte := 0
  wiping : Bool := false
  /-- `wiped` is set on every key page but those listed, where software has cleared it (R399, R409). -/
  wipedAll : Bool := false
  wipeCleared : List Nat := []
  lc : LcState := .provisioned
  lcCount : Nat := 0
  ownerKek : Option (BitVec 256) := none
  identity : BitVec 256 := 0
  identityOk : Bool := true
  keysUnwrapped : Bool := false
  lcNonce : List Byte := List.replicate 16 0
  secVersionMin : Nat := 0
  secVersion : Nat := 0
  bootSlot : Nat := 0
  revoked : List Nat := []
  druwynKeys : Table Bytes := []
  certChain : Bytes := []
  /-- The 32-byte ephemeral P-256 key of the SPDM key exchange under way. -/
  spdmKey : BitVec 256 := 0
  measurements : List (BitVec 256) := []
  /-- Draws made when the generator last reseeded (R405). -/
  drbgAt : Nat := 0
  lockToken : Option Nat := none
  lockFunc : Nat := 0
  lockAt : Nat := 0
  spdm : Spdm := .idle
  spdmNonce : Bytes := []
  /-- Images in the NOR slots A and B and the recovery image (R415, R461). -/
  imageA : Bytes := []
  imageB : Bytes := []
  recoveryImage : Bytes := []
deriving DecidableEq, Repr

/-! ## Power (R422 to R439) -/

structure Die where
  point : Nat := 6
  /-- A change in progress: the point it goes to (R423). -/
  target : Option Nat := none
  /-- A decision that waits for the change to end. -/
  next : Option Nat := none
  thermalCeiling : Nat := 15
  probing : Bool := false
  coreOff : Bool := false
  engineOff : Bool := false
  wakePending : Bool := false
  /-- The points of the probe sample under way and of the period before it, and whether it is void (R426). -/
  probe : Option (Nat × Nat × Bool) := none
  /-- Learning table (R426): key function × 2^16 + phase, p in mW and s in units of 2^-16, last used. -/
  learn : Table (Nat × Nat × Nat) := []
deriving DecidableEq, Repr

structure Power where
  dies : Table Die := []
  meter : Nat := 0
  model : Nat := 0
  disagreeing : Bool := false
  fallback : Bool := false
  /-- Samples in a row that disagree, that disagree beyond `fallback_pct`, and that agree (R433). -/
  runDisagree : Nat := 0
  runFar : Nat := 0
  runAgree : Nat := 0
  refitting : Bool := false
  refits : Nat := 0
  clearAsked : Bool := false
  thermtrip : Bool := false
  /-- Last readings in 0.1 °C by unit, 0–3 for A0–A3 and 4–5 for K0–K1, and the units in a throttle episode (R435). -/
  tj : Table Nat := []
  throttled : List Nat := []
  aClocksStopped : Bool := false
  stretching : List Nat := []
  clustersOff : List Nat := []
  /-- Clusters, cores' clocks and engines whose wake has started (R438). -/
  waking : List PowerUnit := []
  /-- Interval energies in pJ of (function × 2^16 + phase), and cumulative by function (R431, R432). -/
  energy : Table Nat := []
  /-- The pairs that have used energy in the interval. -/
  users : List Nat := []
  total : Table Nat := []
  remainder : Nat := 0
  remainderTotal : Nat := 0
  attrRing : OutRing := {}
  attrLost : Bool := false
  /-- The sensor being calibrated, when it went offline, and its unit's last reading (R472). -/
  sensorOffline : Option (Nat × Nat × Nat) := none
deriving DecidableEq, Repr

/-! ## The Ledger and Waibor (R440 to R464) -/

/-- A Waibor service with its fields (R448, R449, R456). -/
inductive WService where
  | read (index sub : Nat)
  | write (index sub vtype : Nat) (value : Bytes)
  | readSeg (index sub offset : Nat)
  | writeSegInit (index sub total : Nat)
  | writeSeg (index sub : Nat) (last : Bool) (offset : Nat) (data : Bytes)
  | sessionOpen (fieldKey : Bytes)
  | sessionAuth (mode keyIndex : Nat) (proof : Bytes)
  | sessionClose
  /-- A payload that does not have its service's layout, with the message type. -/
  | malformed (mtype : Nat)
deriving DecidableEq, Repr

/-- A request that waits for the firmware (R443). -/
structure WReq where
  h : WHeader
  svc : WService
  /-- What a read that waits found when it arrived. -/
  found : Option Bytes := none
deriving DecidableEq, Repr

/-- A persistent write that waits for its NOR commit (R444). -/
structure Commit where
  h : WHeader
  index : Nat
  sub : Nat
  value : Bytes
  /-- The request answers as a WRITE_SEG. -/
  seg : Bool := false
deriving DecidableEq, Repr

structure Staging where
  index : Nat
  sub : Nat
  total : Nat
  data : Bytes
  /-- When the last segment came. -/
  lastAt : Nat := 0
deriving DecidableEq, Repr

structure Snapshot where
  index : Nat
  sub : Nat
  data : Bytes
  lastAt : Nat := 0
deriving DecidableEq, Repr

inductive SessState where
  | none
  | opened
  | auth (mode : Nat)
deriving DecidableEq, Repr

structure Session where
  st : SessState := .none
  mac : Nat := 0
  key : BitVec 256 := 0
  transcript : BitVec 256 := 0
  rxCtr : Nat := 0
  txCtr : Nat := 0
  /-- When the exchange began, or the last session message came. -/
  lastAt : Nat := 0
deriving DecidableEq, Repr

structure Ledger where
  /-- Values that differ from their default, keyed by index × 256 + sub. -/
  values : Table Bytes := []
  /-- Committed values of persistent entries (R444). -/
  committed : Table Bytes := []
  /-- The 64-bit counters at indices 0x9000–0x90FF, keyed by index × 256 + sub. -/
  counters : Table W64 := []
  /-- Writes of entries whose changes reach packets or frames only some time later (R132, R166), oldest first: key, time and the
  value before. -/
  changes : List (Nat × Nat × Nat) := []
  /-- The write whose NOR commit is under way; the firmware serves nothing else meanwhile (R443, R444). -/
  commit : Option Commit := none
  /-- Segmented transfers per source: 0 DOE, 1 firmware, 2 + MAC a field node. -/
  staging : Table Staging := []
  snapshots : Table Snapshot := []
  /-- Cached responses per field source (R453): the last request's `wseq` and its answer. -/
  cache : List (Nat × Nat × Bytes) := []
  /-- Requests that wait, in the order of their arrival (R443, R453). -/
  waiting : List WReq := []
  /-- The second in which the bridge last let a frame in, and how many in it (R455). -/
  bridge : Nat × Nat := (0, 0)
  session : Session := {}
  hbSeq : W16 := 0
  emSeq : W16 := 0
  hcount : W32 := 0
  /-- Emergencies whose second copy is due (R460): sequence number and payload. -/
  emRepeat : List (W16 × Bytes) := []
deriving DecidableEq, Repr

/-! ## Start-up, faults, supplies (R465 to R492) -/

structure FaultRecord where
  cls : Nat
  code : Nat
  unit : Nat
  state : Nat
  boot : Nat
  time : Nat
  detail : Nat
deriving DecidableEq, Repr

structure Board where
  /-- `module_state`: 0 starting, 1 READY, 2 FATAL, 3 recovery, 4 zeroing. -/
  mstate : Nat := 0
  /-- The start-up step in progress, 1–11; 12 when start-up has ended, 0 without supply. -/
  step : Nat := 1
  /-- When that step began, and `position_wait` as it applies to this start-up, in ms (R467). -/
  stepAt : Nat := 0
  positionWait : Nat := 500
  fatalAt : Option Nat := none
  resetCause : Nat := 0
  resetCount : Nat := 0
  /-- Resets of either kind since manufacture (the model's own: it numbers the generations drawn at start-up, R56). -/
  boots : Nat := 0
  faultLog : List FaultRecord := []
  fwRestarting : Bool := false
  /-- Module times of the restarts of the last 60 s (R479). -/
  restarts : List Nat := []
  supply : Bool := true
  /-- When the input fell below 44 V (R485). -/
  dip : Option Nat := none
  fieldPwr : Bool := true
  clk100 : Bool := true
  clk156 : Bool := true
  clk25 : Bool := true
deriving DecidableEq, Repr

/-! ## Outputs -/

/-- What leaves the module at its pins (the model's own record of it; newest first in `State.out`). -/
inductive Output where
  /-- A bond frame: the control fields of its flits and its bytes (R174, R175). -/
  | bond (link : Nat) (ctl : List (BitVec 20)) (bytes : List Byte)
  | idle (link : Nat) (bytes : List Byte)
  | eth (port : Nat) (express : Bool) (bytes : List Byte)
  | pause (port : Nat) (prio : Nat) (quanta : Nat)
  | verify (port : Nat)
  | msix (fn vector : Nat)
  | regRead (value : W32)
  | snoopAnswer (line : Nat)
  | waibor (src : WSource) (bytes : Bytes)
  | doe (bytes : Bytes)
  | spdm (bytes : Bytes)
  | heartbeat (bytes : Bytes)
  | emergency (wseq : W16) (bytes : Bytes)
deriving DecidableEq, Repr

/-- The byte memories of R291, and host memory as the device sees it. -/
structure Mems where
  host : Memory := []
  hbm : Memory := []
  lpddr : Memory := []
  /-- Keystone SRAM outside secure SRAM: K0 at 0, K1 at 2^26. -/
  ksram : Memory := []
  /-- Core n's scratchpad is at n × 2^22 (R249, R291). -/
  scratch : Memory := []
  /-- Cluster c's store is at c × 2^25. -/
  cluster : Memory := []
  /-- Core n's instruction store is at n × 2^16 (R250). -/
  istore : Memory := []
  /-- Granules that read uncorrectable until written whole (R313), as memory × 2^48 + first address. Memories:
  0 HBM, 1 LPDDR5X, 2 scratchpad, 3 cluster store, 4 Keystone SRAM (R314 `detail`). -/
  bad : List Nat := []
deriving DecidableEq, Repr

/-- Where each Keystone's next round of service begins: the number of the queue that the last round began with (R35). -/
structure Rounds where
  start0 : Nat := 0
  start1 : Nat := 0
deriving DecidableEq, Repr

/-- The module. -/
structure State where
  /-- Commands that wait, first in, first out (the block's queue). -/
  pending : List Instr := []
  part : Part := .tmv9140
  /-- Module time in ns since module reset (R45, R250 `MTIME`). -/
  now : Nat := 0
  /-- Free values drawn so far (the model's own field). -/
  free : Nat := 0
  out : List Output := []
  mems : Mems := {}
  fns : Table Fn := []
  admins : Table Queue := []
  rounds : Rounds := {}
  keys : Keys := {}
  enpin : Enpin := {}
  /-- Class shapers, keyed by (Keystone × 2048 + function) × 8 + class (R162). -/
  shapers : Table Shaper := []
  wall : Wall := {}
  coll : Coll := {}
  compute : Compute := {}
  mig : Mig := {}
  pools : Pools := {}
  cut : Cut := {}
  eth : Eth := {}
  host : HostLink := {}
  sec : Sec := {}
  power : Power := {}
  ledger : Ledger := {}
  board : Board := {}
deriving DecidableEq, Repr

/-- No command of this block ends in a fault: the spec reports what goes wrong in records, events, registers and
answers (R53, R476). The one constructor stands for that and is never raised; safe. -/
inductive Fault where
  /-- Raised by no command. -/
  | neverRaised
deriving DecidableEq, Repr

/-- Why a command has no meaning. -/
inductive Refusal where
  /-- A row of the table that the model gives no meaning yet; raised by `exec`'s refused arms only; safe. -/
  | notModelled (mnemonic : String)
deriving DecidableEq, Repr

/-- The module right after power-on reset (R465 step 1, R469): every field at the value the spec gives it, and where
the spec gives none at the value that assumption 2 names. -/
def State.reset : State := {}

end Sys2Proof.Machine
end

