-- ==== Sys2Proof/Machine/Bits.lean ====
section
/-! DEFINITION. The helpers everything else is written with: tables, byte memories, byte orders (R11), bit
fields, CRCs (R26, R175), serial distance. -/

namespace Sys2Proof.Machine

open Sys2Proof

/-! ## Tables -/

/-- The value listed at `k`. -/
def tfind {α : Type} : Table α → Nat → Option α
  | [], _ => none
  | (j, v) :: t, k => if k = j then some v else tfind t k

/-- The value at `k`, or the default. -/
def tget {α : Type} (d : α) (t : Table α) (k : Nat) : α := (tfind t k).getD d

/-- The table with `v` at `k`, keys kept rising. -/
def tset {α : Type} : Table α → Nat → α → Table α
  | [], k, v => [(k, v)]
  | (j, w) :: t, k, v =>
    if k < j then (k, v) :: (j, w) :: t
    else if k = j then (k, v) :: t
    else (j, w) :: tset t k v

/-- The table without `k`. -/
def tdel {α : Type} (t : Table α) (k : Nat) : Table α := t.filter (fun p => p.1 != k)

/-! ## Memories -/

/-- The byte at an address; an unlisted byte reads 0 (assumption 3). -/
def mread : Memory → Nat → Byte
  | [], _ => 0
  | (j, b) :: m, a => if a = j then b else if a < j then 0 else mread m a

/-- Write one byte, keeping the canonical form. -/
def mwrite : Memory → Nat → Byte → Memory
  | [], a, b => if b = 0 then [] else [(a, b)]
  | (j, c) :: m, a, b =>
    if a < j then (if b = 0 then (j, c) :: m else (a, b) :: (j, c) :: m)
    else if a = j then (if b = 0 then m else (a, b) :: m)
    else (j, c) :: mwrite m a b

/-- `n` bytes from address `a`. -/
def mreadN (m : Memory) (a : Nat) : Nat → List Byte
  | 0 => []
  | n + 1 => mread m a :: mreadN m (a + 1) n

/-- Write bytes from address `a` upwards. -/
def mwriteN (m : Memory) (a : Nat) : List Byte → Memory
  | [] => m
  | b :: bs => mwriteN (mwrite m a b) (a + 1) bs

/-- Write zeros over [a, a + n). -/
def mclear (m : Memory) (a n : Nat) : Memory := m.filter (fun c => !(decide (a ≤ c.1) && decide (c.1 < a + n)))

/-- The canonical form: addresses strictly rising, no listed byte equal to what an unlisted one reads as. -/
def mwf : Memory → Bool
  | [] => true
  | [(_, b)] => b != 0
  | (a, b) :: (c, d) :: m => b != 0 && decide (a < c) && mwf ((c, d) :: m)

/-! ## Byte orders -/

/-- The little-endian value of bytes. -/
def leNat : List Byte → Nat
  | [] => 0
  | b :: bs => b.toNat + 256 * leNat bs

/-- `n` little-endian bytes of a value. -/
def leBytes : Nat → Nat → List Byte
  | 0, _ => []
  | n + 1, v => BitVec.ofNat 8 v :: leBytes n (v / 256)

/-- The big-endian value of bytes (network byte order, R11). -/
def beNat (bs : List Byte) : Nat := leNat bs.reverse

/-- `n` big-endian bytes of a value. -/
def beBytes (n v : Nat) : List Byte := (leBytes n v).reverse

/-- A bit as a Boolean. -/
def bitOf (v i : Nat) : Bool := (v >>> i) % 2 == 1

/-- The field of `w` bits from bit `lo`. -/
def fieldOf (v lo w : Nat) : Nat := (v >>> lo) % 2 ^ w

/-- 1 or 0. -/
def b2n (b : Bool) : Nat := if b then 1 else 0

/-- The field of `size` bytes at offset `off` of a ring entry, little-endian (R11, R25). -/
def ef (e : Entry) (off size : Nat) : Nat := fieldOf e.toNat (8 * off) (8 * size)

/-- The field of `size` bytes at offset `off` of a 32-byte record. -/
def rf (r : Rec) (off size : Nat) : Nat := fieldOf r.toNat (8 * off) (8 * size)

/-- The serial distance a − b modulo 2^32, from −2^31 to 2^31 − 1 (R104, R126). -/
def sdist (a b : W32) : Int := (a - b).toInt

/-- `a` lies ahead of `b` by serial comparison modulo 2^16 (R178, R184). -/
def ahead16 (a b : W16) : Bool := decide (0 < (a - b).toInt)

/-! ## CRCs -/

def crc16Step (c : Nat) : Nat → Nat
  | 0 => c
  | n + 1 => crc16Step (if c / 0x8000 % 2 == 1 then ((c * 2) % 0x10000) ^^^ 0x1021 else c * 2) n

/-- CRC-16 of R26: polynomial 0x1021, no reflection, no final XOR, from the given value. -/
def crc16 (c : Nat) : List Byte → Nat
  | [] => c
  | b :: bs => crc16 (crc16Step (c ^^^ (b.toNat * 256)) 8) bs

def crc32cStep (c : Nat) : Nat → Nat
  | 0 => c
  | n + 1 => crc32cStep (if c % 2 == 1 then (c / 2) ^^^ 0x82F63B78 else c / 2) n

def crc32cGo (c : Nat) : List Byte → Nat
  | [] => c
  | b :: bs => crc32cGo (crc32cStep (c ^^^ b.toNat) 8) bs

/-- CRC-32C (R175, R395: polynomial 0x1EDC_6F41, in its reflected form; assumption 21). -/
def crc32c (bs : List Byte) : Nat := (crc32cGo 0xFFFFFFFF bs) ^^^ 0xFFFFFFFF

/-! ## Small list helpers -/

/-- Remove the first element that equals `a`. -/
def dropFirst {α : Type} [DecidableEq α] (a : α) : List α → List α
  | [] => []
  | x :: xs => if x = a then xs else x :: dropFirst a xs

/-- Replace the first element that satisfies `p`. -/
def modFirst {α : Type} (p : α → Bool) (f : α → α) : List α → List α
  | [] => []
  | x :: xs => if p x then f x :: xs else x :: modFirst p f xs

/-- Run `f` over a list of values, left to right. -/
def foldS {α σ : Type} (f : α → σ → σ) : List α → σ → σ
  | [], s => s
  | x :: xs, s => foldS f xs (f x s)

/-- The `n` numbers from `a`. -/
def rangeFrom (a : Nat) : Nat → List Nat
  | 0 => []
  | n + 1 => a :: rangeFrom (a + 1) n

/-- Insert a value before the first one whose key is not smaller. -/
def insertBy {α : Type} (key : α → Nat) (x : α) : List α → List α
  | [] => [x]
  | y :: ys => if key x ≤ key y then x :: y :: ys else y :: insertBy key x ys

/-- The values in rising order of their keys; equal keys keep their order. -/
def sortBy {α : Type} (key : α → Nat) : List α → List α
  | [] => []
  | x :: xs => insertBy key x (sortBy key xs)

/-- Division rounded up. -/
def cdiv (a b : Nat) : Nat := (a + b - 1) / b

/-- Clamp into [lo, hi]. -/
def clampN (v lo hi : Nat) : Nat := if v < lo then lo else if hi < v then hi else v

end Sys2Proof.Machine
end

