-- ==== Sys2Proof/Machine/Dict.lean ====
section
/-! DEFINITION. The object dictionary: every Ledger entry the manual gives, with its type, rights, default, range and
persistence (R440 to R442, R463 and the chapter that owns each entry). -/

namespace Sys2Proof.Machine

open Sys2Proof

/-- One entry of the dictionary. Scalars are held as their bytes in network order (R441). `rights` lists the classes
W, M, T, F: 0 no access, 1 read, 2 read and write (R9). -/
structure DictEntry where
  vtype : Nat
  size : Nat
  rights : List Nat
  dflt : Bytes
  lo : Nat := 0
  hi : Nat := 0xFFFFFFFFFFFFFFFF
  persistent : Bool := false
deriving DecidableEq, Repr

/-- The size of a scalar type (R441). -/
def vtypeSize (vt : Nat) : Nat :=
  match vt with
  | 1 => 1 | 2 => 2 | 3 => 4 | 4 => 8 | 5 => 4 | 6 => 4 | 7 => 1 | 8 => 2 | 9 => 4 | 10 => 8 | _ => 0

def rWWRR : List Nat := [2, 2, 1, 1]
def rWWdR : List Nat := [2, 2, 0, 1]
def rWWdW : List Nat := [2, 2, 0, 2]
def rWWdd : List Nat := [2, 2, 0, 0]
def rWWRW : List Nat := [2, 2, 1, 2]
def rWWRd : List Nat := [2, 2, 1, 0]
def rRRRR : List Nat := [1, 1, 1, 1]
def rRRdR : List Nat := [1, 1, 0, 1]
def rRRdd : List Nat := [1, 1, 0, 0]
def rdWdW : List Nat := [0, 2, 0, 2]
def rdWdd : List Nat := [0, 2, 0, 0]

/-- A scalar entry. -/
def scal (vt : Nat) (rights : List Nat) (d lo hi : Nat) (p : Bool := true) : DictEntry :=
  { vtype := vt, size := vtypeSize vt, rights := rights, dflt := beBytes (vtypeSize vt) d, lo := lo, hi := hi, persistent := p }

/-- A BLOB entry of `n` bytes, default all zero. -/
def blobE (rights : List Nat) (n : Nat) (p : Bool := false) : DictEntry :=
  { vtype := 12, size := n, rights := rights, dflt := List.replicate n 0, persistent := p }

/-- A clear-on-read counter (R146 and its like). -/
def ctrE : DictEntry := scal 4 rRRdR 0 0 0xFFFFFFFFFFFFFFFF false

/-- How many counters the counter index holds, or 0. -/
def counterSubs (index : Nat) : Nat :=
  match index with
  | 0x9021 => 0x1B | 0x9022 => 0x1B | 0x9023 => 0x1B | 0x9024 => 0x1B
  | 0x9031 => 8 | 0x9032 => 8 | 0x9033 => 8 | 0x9034 => 8
  | 0x9035 => 8 | 0x9036 => 8 | 0x9037 => 8 | 0x9038 => 8
  | 0x9039 => 5 | 0x9040 => 8 | 0x9041 => 0x11 | 0x9042 => 5 | 0x9043 => 0x0A | 0x9044 => 9
  | 0x9045 => 4 | 0x9046 => 8 | 0x9060 => 5 | 0x9061 => 4 | 0x9062 => 3 | 0x9070 => 9
  | 0x9080 => 6 | 0x9090 => 9 | 0x90A0 => 5
  | _ => 0

/-- The transport timers of R132, held in ns but for the count, the blocks and the reopen time. -/
def dictTransport (sub : Nat) : Option DictEntry :=
  match sub with
  | 0x01 => some (scal 3 rWWRR 8000 8000 10000000)
  | 0x02 => some (scal 3 rWWRR 2000000 100000 100000000)
  | 0x03 => some (scal 3 rWWRR 64000 8000 10000000)
  | 0x04 => some (scal 3 rWWRR 1000000 64000 50000000)
  | 0x05 => some (scal 3 rWWRR 4000 1000 1000000)
  | 0x06 => some (scal 3 rWWRR 256000 4000 10000000)
  | 0x07 => some (scal 3 rWWRR 2000 500 50000)
  | 0x08 => some (scal 3 rWWRR 16 1 64)
  | 0x09 => some (scal 3 rWWRR 1000000 100000 100000000)
  | 0x0A => some (scal 3 rWWRR 20000 2000 1000000)
  | 0x0B => some (scal 3 rWWRR 512 33 4096)
  | 0x0C => some (scal 3 rWWRR 10000 1000 3600000)
  | _ => none

/-- The congestion parameters of R166. -/
def dictCongestion (sub : Nat) : Option DictEntry :=
  match sub with
  | 1 => some (scal 3 rWWRR 16000 4000 1000000)
  | 2 => some (scal 3 rWWRR 20000 100 400000)
  | 3 => some (scal 3 rWWRR 4 1 8)
  | 4 => some (scal 3 rWWRR 100 10 100000)
  | 5 => some (scal 3 rWWRR 32768 9216 1048576)
  | 6 => some (scal 3 rWWRR 0xFFFF 0 0xFFFF)
  | 7 => some (scal 3 rWWRR 4 0 32)
  | 8 => some (scal 3 rWWRR 1 0 32)
  | _ => none

/-- The per-port entries of R348 (port `p`). The type of `tx_vid` and the others is as the table gives. -/
def dictPort (p sub : Nat) : Option DictEntry :=
  match sub with
  | 0x01 => some { scal 4 rWWRR 0 0 0xFFFFFFFFFFFF with
      dflt := beBytes 8 ((beNat (Config.factory 0x3101 1) % 2 ^ 48 + p) % 2 ^ 48) }
  | 0x02 => some (scal 1 rWWRR 1 0 1)
  | 0x03 => some (scal 2 rWWRR 9216 1518 10240)
  | 0x04 => some (scal 1 rWWRR 0 0 1)
  | 0x05 => some (scal 1 rWWRR 2 0 2)
  | 0x06 => some (scal 7 rWWRR 0xFF 0 0xFF)
  | 0x07 => some (scal 3 rWWRR 262144 32768 1048576)
  | 0x08 => some (scal 3 rWWRR 131072 0 1032192)
  | 0x09 => some (scal 2 rWWRR 0xFFFF 0x0100 0xFFFF)
  | 0x0A => some (scal 1 rWWRR 1 0 1)
  | 0x0B => some (scal 1 rWWRR 0 0 1)
  | 0x0C => some (scal 1 rWWRR 0 0 1)
  | 0x0D => some (scal 1 rWWRR 10 1 128)
  | 0x0E => some (scal 1 rWWRR 0 0 7)
  | 0x0F => some (scal 7 rWWRR 0 0 0xFF)
  | 0x10 => some (scal 7 rWWRR 0 0 0xFF)
  | n => if 0x11 ≤ n ∧ n ≤ 0x18 then some (scal 2 rWWRR 0 0 4094) else none

/-- Power entries, indices 0x2000 to 0x2140 (R425 to R437). -/
def dictPower (part : Part) (index sub : Nat) : Option DictEntry :=
  match index, sub with
  | 0x2000, 1 =>
    match part with
    | .tmv9140 => some (scal 3 rWWdW 2000 1000 2000)
    | .tmv9130 => some (scal 3 rWWdW 1100 600 1100)
    | .tmv9110 => some (scal 3 rRRdR 450 450 450)
  | 0x2000, 2 => some (scal 3 rWWdW 40 0 200)
  | 0x2001, 5 => some (scal 1 rWWdR 0 0 15)
  | 0x2001, 6 => some (scal 1 rWWdR 25 0 100)
  | 0x2001, 7 => some (scal 1 rWWdR 9 0 15)
  | 0x2020, 1 => some (scal 1 rWWdR 15 5 50)
  | 0x2020, 2 => some (scal 3 rWWdR 10000000 1000000 100000000)
  | 0x2020, 3 => some (scal 1 rWWdR 40 20 80)
  | 0x2020, 4 => some (scal 1 rWWdR 6 0 15)
  | 0x2020, 5 => some (scal 3 rWWdR 100 40 400)
  | 0x2020, 6 => some (scal 1 rdWdd 0 1 1 false)
  | 0x2030, 1 => some (scal 1 rWWdW 105 85 105)
  | 0x2104, 1 => some (scal 3 rWWdR 1000000 100000 100000000)
  | 0x2120, 1 => some { blobE rWWdd 4100 true with dflt := (List.replicate 1025 (leBytes 4 100000)).flatten }
  | 0x2121, 1 => some (scal 9 rWWdd 0xFFFFFFFF 0 0xFFFFFFFF)
  | 0x2130, 1 => some (scal 4 rWWdd 0 0 0xFFFFFFFFFFFFFFFF false)
  | 0x2130, 2 => some (scal 3 rWWdd 0 0 0x3F false)
  | 0x2130, 3 => some (scal 3 rWWdd 0 0 0xFFFFFFFF false)
  | 0x2130, 4 => some (scal 3 rRRRR 0 0 0xFFFFFFFF false)
  | 0x2130, 5 => some (scal 3 rWWdd 1000000 100000 100000000 false)
  | 0x2001, n => if 1 ≤ n ∧ n ≤ 4 then some (scal 1 rWWdR 15 0 15) else none
  | 0x2010, n => if 1 ≤ n ∧ n ≤ 6 then some (scal 3 rRRRR 0 0 0xFFFFFFFF false) else none
  | 0x2100, n => if 1 ≤ n ∧ n ≤ 0x40 then some (blobE rWWdd 8 true) else none
  | 0x2140, n =>
    if 1 ≤ n ∧ n ≤ 0x10 then
      some { scal 6 rWWRd 0 0 0xFFFFFFFF false with dflt := (Config.factory 0x2140 n ++ [0, 0, 0, 0]).take 4 }
    else none
  | _, _ => none

/-- Wall, Ethernet, field-port and cut entries, indices 0x3100 to 0x3400. -/
def dictIo (index sub : Nat) : Option DictEntry :=
  match index, sub with
  | 0x3100, 1 => some (scal 1 rWWRR 0 0 1)
  | 0x3200, 1 => some (scal 1 rWWRW 0 0 1)
  | 0x3200, 2 => some (scal 1 rWWRW 1 1 32)
  | 0x3200, 3 => some (scal 1 rWWRW 1 1 32)
  | 0x3200, 4 => some (scal 2 rWWRW 0 0 0xFFFE)
  | 0x3200, 5 => some (scal 1 rWWRW 0 0 1)
  | 0x3200, 6 => some (scal 2 rWWRW 0 0 0x1F1F)
  | 0x3210, 1 => some (scal 7 rWWRR 0x40 0 0xFF)
  | 0x3210, 2 => some (scal 1 rWWRR 25 5 100)
  | 0x3210, 3 => some (scal 1 rWWRR 192 0 240)
  | 0x3400, 1 => some { scal 4 rRRRR 0 0 0xFFFFFFFFFFFFFFFF false with
      dflt := beBytes 8 (beNat (Config.factory 0x3400 1) % 2 ^ 48) }
  | 0x3400, 2 => some (scal 1 rWWdW 255 1 255)
  | 0x3400, 3 => some (scal 1 rWWdW 32 1 255)
  | 0x3400, 4 => some (scal 2 rWWdW 100 20 1000)
  | 0x3400, 5 => some (scal 4 rWWdW 0 0 0xFFFFFFFFFFFF)
  | 0x3400, 6 => some (scal 2 rWWdW 60 10 3600)
  | 0x3101, n => dictPort 0 n
  | 0x3102, n => dictPort 1 n
  | 0x3103, n => dictPort 2 n
  | 0x3104, n => dictPort 3 n
  | 0x3201, n => if 1 ≤ n ∧ n ≤ 8 then some (scal 1 rWWRW 1 0 1) else none
  | 0x3300, n => if 1 ≤ n ∧ n ≤ 0x40 then some (blobE rWWdd 768) else none
  | _, _ => none

/-- Enpin, collective and host-link entries, indices 0x4100 to 0x4170, and compute entries at 0x5110 and 0x5120. -/
def dictNet (index sub : Nat) : Option DictEntry :=
  match index, sub with
  | 0x4100, 1 => some (scal 3 rWWRR 1000 100 100000)
  | 0x4100, 2 => some (scal 1 rWWRR 8 1 255)
  | 0x4120, 1 => some (scal 2 rWWRR 7340 1024 65535)
  | 0x4120, 2 => some (scal 3 rWWRR 8192 512 8192)
  | 0x4120, 3 => some (scal 1 rWWRR 64 1 255)
  | 0x4120, 4 => some (scal 1 rWWRR 6 0 7)
  | 0x4151, 1 => some (scal 3 rWWRR 16384 4096 1048576)
  | 0x4151, 2 => some (scal 3 rWWRR 65536 4096 1048576)
  | 0x4151, 3 => some (scal 3 rWWRR 65536 4096 1048576)
  | 0x4151, 4 => some (scal 3 rWWRR 262144 16384 4194304)
  | 0x4160, 1 => some (scal 3 rWWRR 10000000 100000 1000000000)
  | 0x4160, 2 => some (scal 3 rWWRR 4000 500 100000)
  | 0x4160, 3 => some (scal 3 rWWRR 8 1 64)
  | 0x4160, 4 => some (scal 3 rWWRR 100000 10000 10000000)
  | 0x4170, 1 => some (scal 1 rWWdR 0 0 1)
  | 0x4170, 2 => some (scal 3 rWWdR 10000000 50000 64000000)
  | 0x4170, 3 => some (scal 1 rWWdR 0 0 1)
  | 0x5110, 1 => some (scal 3 rWWRR 10000 1000 1000000)
  | 0x5110, 2 => some (scal 3 rWWRR 262144 65536 4194304)
  | 0x5120, 1 => some (scal 1 rWWRR 1 0 1)
  | 0x5120, 2 => some (scal 4 rWWRR 0xFFFFFFFFFFFFFFFF 0 0xFFFFFFFFFFFFFFFF)
  | 0x5120, 3 => some (scal 3 rWWRR 100000 0 100000000)
  | 0x4130, n => dictTransport n
  | 0x4150, n => dictCongestion n
  | 0x4141, n => if 1 ≤ n ∧ n ≤ 0xFF then some (blobE rWWRR 24 true) else none
  | 0x4142, n => if 1 ≤ n ∧ n ≤ 4 then some (scal 4 rWWRR 0 0 0xFFFFFFFFFFFF) else none
  | 0x4143, n => if 1 ≤ n ∧ n ≤ 8 then some (scal 1 rWWRR ((n - 1) * 8) 0 63) else none
  | _, _ => none

/-- Identity, security, pool, start-up and diagnostic entries. -/
def dictSys (index sub : Nat) : Option DictEntry :=
  match index, sub with
  | 0x1000, 1 => some { vtype := 11, size := 1016, rights := rRRRR, dflt := Config.factory 0x1000 1 }
  | 0x1000, 2 => some { vtype := 11, size := 1016, rights := rRRRR, dflt := Config.factory 0x1000 2 }
  | 0x1000, 3 => some (scal 1 rRRRR 0 0 4 false)
  | 0x1000, 4 => some (scal 3 rRRRR 0 0 0xFFFFFFFF false)
  | 0x1000, 5 => some (scal 3 rRRRR 0xFFFFFFFF 0 0xFFFFFFFF false)
  | 0x1010, 1 => some (scal 10 rRRRR 0 0 0xFFFFFFFFFFFFFFFF false)
  | 0x1020, 1 => some (scal 1 rWWdW 0 0 1)
  | 0x7000, 1 => some (scal 1 rRRRR 0 0 4 false)
  | 0x7000, 2 => some (blobE rdWdW 68)
  | 0x7000, 3 => some (scal 1 rRRRR 32 0 32 false)
  | 0x7000, 4 => some (blobE rRRRR 16)
  | 0x7000, 5 => some (blobE rRRRR 0)
  | 0x7000, 6 => some (blobE rRRRR 160)
  | 0x7010, 1 => some (blobE rdWdW 128)
  | 0x7020, 1 => some (scal 1 rWWdW 1 0 1)
  | 0x7020, 2 => some (scal 7 rRRdR 0 0 0xFF false)
  | 0x7030, 1 => some (scal 1 rWWdW 0 0 1)
  | 0x7030, 2 => some (scal 3 rRRRR 0 0 0xFFFFFFFF false)
  | 0x7040, 1 => some (scal 4 rWWdd 100000000 1000000 10000000000)
  | 0x7050, 1 => some (blobE rdWdW 0)
  | 0x7050, 2 => some (blobE rdWdW 0)
  | 0x9050, 1 => some (scal 3 rWWRR 2000 100 16000)
  | 0xA000, 1 => some (scal 1 rdWdW 0 1 1 false)
  | 0xA000, 2 => some (scal 1 rRRRR 0 0 6 false)
  | 0xA000, 3 => some (scal 3 rRRRR 0 0 0xFFFFFFFF)
  | 0xA000, 4 => some (scal 3 rWWdW 0 0 3600000)
  | 0xA000, 5 => some (scal 3 rWWdR 500 0 60000)
  | 0xA010, 1 => some (scal 2 rWWdR 24 1 168)
  | 0xA010, 2 => some (scal 2 rWWdR 24 1 168)
  | 0xA010, 3 => some (scal 2 rWWdR 60 5 1440)
  | 0xA010, 4 => some (scal 2 rWWdR 2000 500 16000)
  | 0xA010, 5 => some (scal 2 rWWdR 60 10 3600)
  | 0xA010, 6 => some (scal 3 rWWdR 100 10 10000)
  | 0xA020, 1 => some (blobE rRRdR 2048 true)
  | 0xA020, 2 => some (scal 1 rdWdd 0 1 1 false)
  | 0x8000, n => if 1 ≤ n ∧ n ≤ 0x0A then some (scal 3 rRRdR 0 0 0xFFFFFFFF false) else none
  | 0x8001, n => if 1 ≤ n ∧ n ≤ 0x0A then some (scal 3 rRRdR 0 0 0xFFFFFFFF false) else none
  | 0xF070, n => if 1 ≤ n ∧ n ≤ 0x80 then some (blobE rRRdd 32) else none
  | 0xF071, n => if 1 ≤ n ∧ n ≤ 0x80 then some (blobE rRRdd 32) else none
  | 0xF072, n => if 1 ≤ n ∧ n ≤ 0x10 then some (blobE rRRdd 16) else none
  | 0xF073, n => if 1 ≤ n ∧ n ≤ 0x10 then some (blobE rRRdd 16) else none
  | _, _ => none

/-- The highest subindex in use of an index that holds entries, or 0 (R440). -/
def dictTop (index : Nat) : Nat :=
  match index with
  | 0x1000 => 5 | 0x1010 => 1 | 0x1020 => 1 | 0x2000 => 2 | 0x2001 => 7 | 0x2010 => 6 | 0x2020 => 6 | 0x2030 => 1
  | 0x2100 => 0x40 | 0x2104 => 1 | 0x2120 => 1 | 0x2121 => 1 | 0x2130 => 5 | 0x2140 => 0x10
  | 0x3100 => 1 | 0x3101 => 0x18 | 0x3102 => 0x18 | 0x3103 => 0x18 | 0x3104 => 0x18
  | 0x3200 => 6 | 0x3201 => 8 | 0x3210 => 3 | 0x3300 => 0x40 | 0x3400 => 6
  | 0x4100 => 2 | 0x4120 => 4 | 0x4130 => 0x0C | 0x4141 => 0xFF | 0x4142 => 4 | 0x4143 => 8
  | 0x4150 => 8 | 0x4151 => 4 | 0x4160 => 4 | 0x4170 => 3 | 0x5110 => 2 | 0x5120 => 3
  | 0x7000 => 6 | 0x7010 => 1 | 0x7020 => 2 | 0x7030 => 2 | 0x7040 => 1 | 0x7050 => 2
  | 0x8000 => 0x0A | 0x8001 => 0x0A | 0x9050 => 1
  | 0xA000 => 5 | 0xA010 => 6 | 0xA020 => 2 | 0xF070 => 0x80 | 0xF071 => 0x80 | 0xF072 => 0x10 | 0xF073 => 0x10
  | n => counterSubs n

/-- The dictionary. -/
def dict (part : Part) (index sub : Nat) : Option DictEntry :=
  if sub = 0 then (if dictTop index = 0 then none else some (scal 1 rRRRR (dictTop index) 0 255 false))
  else if 0x9021 ≤ index ∧ index ≤ 0x90A0 ∧ index ≠ 0x9050 then
    (if sub ≤ counterSubs index then some ctrE else none)
  else if 0x2000 ≤ index ∧ index ≤ 0x2140 then dictPower part index sub
  else if 0x3100 ≤ index ∧ index ≤ 0x3400 then dictIo index sub
  else if 0x4100 ≤ index ∧ index ≤ 0x5120 then dictNet index sub
  else dictSys index sub

/-- The unit an entry belongs to is fitted (R7, R15): ports 1 and 3, with their gateway addresses, are absent in mode 1;
the cut path and the Ashlar dies, with the entries of clusters, banks and semaphores, on the parts that omit them. -/
def dictFitted (part : Part) (ethMode index sub : Nat) : Bool :=
  match index with
  | 0x3102 => ethMode == 0
  | 0x3104 => ethMode == 0
  | 0x4142 => ethMode == 0 || !(sub == 2 || sub == 4)
  | 0x3300 => part != .tmv9110
  | 0x2121 => part != .tmv9110
  | 0x5110 => part != .tmv9110
  | 0x5120 => part != .tmv9110
  | 0x2001 =>
    match part with
    | .tmv9140 => true
    | .tmv9130 => !(sub == 3 || sub == 4)
    | .tmv9110 => !(1 ≤ sub && sub ≤ 4)
  | _ => true

end Sys2Proof.Machine
end

