-- ==== Sys2Proof/Machine/Ops.lean ====
section
/-! DEFINITION. The named operations that the commands share: reading and changing the parts of the state, the
Ledger's values and counters, the memories, rings the device writes, events, MSI-X messages, draws. -/

namespace Sys2Proof.Machine

open Sys2Proof

/-! ## Status codes (R53) -/

/-- More entries than any ring holds: the bound of a scan. -/
def wholeRing : Nat := 65536

def stOk : Nat := 0x00
def stPartial : Nat := 0x01
def stDegraded : Nat := 0x02
def stRemoteAccess : Nat := 0x10
def stStaleKey : Nat := 0x11
def stLocalAccess : Nat := 0x12
def stTranslation : Nat := 0x13
def stTimeout : Nat := 0x20
def stRnrGiveup : Nat := 0x21
def stFenced : Nat := 0x22
def stRemoteReset : Nat := 0x23
def stSignature : Nat := 0x30
def stReduction : Nat := 0x31
def stCollAborted : Nat := 0x32
def stMalformed : Nat := 0x40
def stFlushed : Nat := 0x41
def stHostLost : Nat := 0x42
def stManager : Nat := 0x43
def stMemory : Nat := 0x50
def stUnderflow : Nat := 0x51

/-- OK, OK_PARTIAL and OK_DEGRADED (R43). -/
def isOkStatus (st : Nat) : Bool := decide (st ≤ 2)

/-! ## Parts of the state -/

def fnOf (s : State) (f : Nat) : Fn := tget {} s.fns f
def setFn (f : Nat) (x : Fn) (s : State) : State := { s with fns := tset s.fns f x }
def modFn (f : Nat) (g : Fn → Fn) (s : State) : State := setFn f (g (fnOf s f)) s

def queueOf (s : State) (q : QRef) : Queue :=
  match q.kind with
  | .send => tget {} (fnOf s q.fn).sends q.index
  | .control => (fnOf s q.fn).control
  | .admin => tget {} s.admins q.index

def setQueue (q : QRef) (x : Queue) (s : State) : State :=
  match q.kind with
  | .send => modFn q.fn (fun f => { f with sends := tset f.sends q.index x }) s
  | .control => modFn q.fn (fun f => { f with control := x }) s
  | .admin => { s with admins := tset s.admins q.index x }

def modQueue (q : QRef) (g : Queue → Queue) (s : State) : State := setQueue q (g (queueOf s q)) s

/-- The function whose completion rings, counters and segments a queue uses (admin rings are the PF's). -/
def queueFn (q : QRef) : Nat :=
  match q.kind with
  | .admin => 0
  | _ => q.fn

def cqOf (s : State) (fn ring : Nat) : OutRing := tget {} (fnOf s fn).cqs ring
def setCq (fn ring : Nat) (r : OutRing) (s : State) : State :=
  modFn fn (fun f => { f with cqs := tset f.cqs ring r }) s
def modCq (fn ring : Nat) (g : OutRing → OutRing) (s : State) : State := setCq fn ring (g (cqOf s fn ring)) s

def coreOf (s : State) (c : Nat) : Core := tget {} s.compute.cores c
def setCore (c : Nat) (x : Core) (s : State) : State :=
  { s with compute := { s.compute with cores := tset s.compute.cores c x } }
def modCore (c : Nat) (g : Core → Core) (s : State) : State := setCore c (g (coreOf s c)) s

def ctxOf (s : State) (peer : W32) : Option Ctx := tfind s.enpin.ctxs peer.toNat
def setCtx (peer : W32) (c : Ctx) (s : State) : State :=
  { s with enpin := { s.enpin with ctxs := tset s.enpin.ctxs peer.toNat c } }
def modCtx (peer : W32) (g : Ctx → Ctx) (s : State) : State :=
  match ctxOf s peer with
  | some c => setCtx peer (g c) s
  | none => s

def linkOf (s : State) (l : Nat) : Link := tget {} s.wall.links l
def setLink (l : Nat) (x : Link) (s : State) : State := { s with wall := { s.wall with links := tset s.wall.links l x } }
def modLink (l : Nat) (g : Link → Link) (s : State) : State := setLink l (g (linkOf s l)) s

def portOf (s : State) (p : Nat) : Port := tget {} s.eth.ports p
def setPort (p : Nat) (x : Port) (s : State) : State := { s with eth := { s.eth with ports := tset s.eth.ports p x } }
def modPort (p : Nat) (g : Port → Port) (s : State) : State := setPort p (g (portOf s p)) s

def dieOf (s : State) (d : Nat) : Die := tget {} s.power.dies d
def modDie (d : Nat) (g : Die → Die) (s : State) : State :=
  { s with power := { s.power with dies := tset s.power.dies d (g (dieOf s d)) } }

def keyOf (s : State) (i : Nat) : KeyEntry :=
  match tfind s.keys.table i with
  | some e => e
  | none => { generation := BitVec.ofNat 16 (1 + (Config.resetGeneration s.board.boots i).toNat % 65535) }
def setKey (i : Nat) (e : KeyEntry) (s : State) : State := { s with keys := { s.keys with table := tset s.keys.table i e } }

def segOf (s : State) (f g : Nat) : Segment := tget {} (fnOf s f).segs g
def modSeg (f g : Nat) (h : Segment → Segment) (s : State) : State :=
  modFn f (fun x => { x with segs := tset x.segs g (h (tget {} x.segs g)) }) s
def pageOf (s : State) (f g p : Nat) : Page := tget {} (fnOf s f).pages (g * 2 ^ 20 + p)
def modPage (f g p : Nat) (h : Page → Page) (s : State) : State :=
  modFn f (fun x => { x with pages := tset x.pages (g * 2 ^ 20 + p) (h (tget {} x.pages (g * 2 ^ 20 + p))) }) s

def outEmit (o : Output) (s : State) : State := { s with out := o :: s.out }

/-- Module time moves on to the instant at which a timer event falls (assumption 5). -/
def advanceTo (t : Nat) (s : State) : State := { s with now := max s.now t }

/-- One value from the Quoin engine's generator. -/
def drawOf (s : State) : BitVec 64 := Config.draw s.free
def drawn (s : State) : State := { s with free := s.free + 1 }

/-! ## What is fitted, and the module's place -/

/-- Cores fitted (R1). -/
def coresFitted (p : Part) : Nat :=
  match p with
  | .tmv9140 => 512
  | .tmv9130 => 256
  | .tmv9110 => 0

/-- Ashlar dies fitted (R1). -/
def diesFitted (p : Part) : Nat := coresFitted p / 128

/-- The HBM tier's size in bytes (R292). -/
def hbmSize (p : Part) : Nat := diesFitted p * 144 * 2 ^ 30

/-- The LPDDR5X tier's size in bytes (R293). -/
def lpddrSize (p : Part) : Nat :=
  match p with
  | .tmv9140 => 2 ^ 40
  | _ => 2 ^ 39

/-- The cut path is fitted (R1). -/
def cutFitted (p : Part) : Bool := p != .tmv9110

/-- The die of a core (R249: cores are numbered die by die, 128 to a die). -/
def coreDie (c : Nat) : Nat := c / 128

/-- The cluster of a core. -/
def coreCluster (c : Nat) : Nat := c / 16

/-- The module ID made of a wall number and a position (R80). -/
def mkId (wall x y : Nat) : W32 := BitVec.ofNat 32 (wall * 65536 + y * 256 + x)

def idWall (m : W32) : Nat := m.toNat / 65536
def idX (m : W32) : Nat := m.toNat % 256
def idY (m : W32) : Nat := m.toNat / 256 % 256

/-- A valid module ID (R80). -/
def idValid (m : W32) : Bool := decide (idX m < 32) && decide (idY m < 32) && decide (idWall m ≠ 0xFFFF)

/-- The module's own ID, 0xFFFF_FFFF while it has no position (OD 0x1000.05). -/
def ownId (s : State) : W32 :=
  match s.wall.pos with
  | some (x, y) => mkId s.wall.wallNumber x y
  | none => 0xFFFFFFFF

/-! ## Ledger values and counters -/

/-- An entry's default. -/
def ledDflt (s : State) (index sub : Nat) : Bytes :=
  match dict s.part index sub with
  | some e => e.dflt
  | none => []

/-- The bytes an entry holds: its written value, or its default where none is written and where its unit is absent (R7,
R15). -/
def ledBytes (s : State) (index sub : Nat) : Bytes :=
  match tfind s.ledger.values (index * 256 + sub) with
  | some v => if dictFitted s.part s.eth.mode index sub then v else ledDflt s index sub
  | none => ledDflt s index sub

/-- A scalar entry's value, unsigned. -/
def ledN (s : State) (index sub : Nat) : Nat := beNat (ledBytes s index sub)

/-- An entry's value for what began at `t`, where a change reaches only what begins `delay` ns after the write. -/
def ledAt (s : State) (index sub delay t : Nat) : Nat :=
  match (s.ledger.changes.filter (fun c => c.1 == index * 256 + sub && decide (t < c.2.1 + delay))).head? with
  | some c => c.2.2
  | none => ledN s index sub

/-- A transport timer for packets first sent at `t` (R132): a change reaches packets first sent at least 10 µs after it. -/
def timerN (s : State) (sub t : Nat) : Nat := ledAt s 0x4130 sub 10000 t

/-- A mark threshold now (R166): a change reaches frames enqueued at least 1 µs after it. -/
def thresholdN (s : State) (sub : Nat) : Nat := ledAt s 0x4151 sub 1000 s.now

/-- Note the value that a write of a transport timer, a mark threshold, the increase interval or the starvation limit replaces
(R132, R156, R166, R265). -/
def noteChange (index sub : Nat) (s : State) : State :=
  if index = 0x4130 ∨ index = 0x4151 ∨ (index = 0x4150 ∧ sub = 1) ∨ (index = 0x5110 ∧ sub = 1) then
    { s with ledger := { s.ledger with changes := s.ledger.changes ++ [(index * 256 + sub, s.now, ledN s index sub)] } }
  else s

def ledPut (index sub : Nat) (v : Bytes) (s : State) : State :=
  { s with ledger := { s.ledger with values := tset s.ledger.values (index * 256 + sub) v } }

/-- A persistent entry takes a value that is committed to the NOR (R444). -/
def ledCommit (index sub : Nat) (v : Bytes) (s : State) : State :=
  let s := ledPut index sub v s
  { s with ledger := { s.ledger with committed := tset s.ledger.committed (index * 256 + sub) v } }

/-- Advance a 64-bit counter. -/
def bump (index sub : Nat) (n : Nat) (s : State) : State :=
  let k := index * 256 + sub
  { s with ledger := { s.ledger with counters := tset s.ledger.counters k (tget 0 s.ledger.counters k + BitVec.ofNat 64 n) } }

/-! ## Memories -/

/-- The byte memories a device access can reach. -/
inductive MemId where
  | hbm
  | lpddr
  | scratch
  | cluster
  | ksram
  | host
  | istore
deriving DecidableEq, Repr

/-- Their numbers in R314 `detail`; the instruction store, which R314 does not list, is kept apart. -/
def memCode (m : MemId) : Nat :=
  match m with
  | .hbm => 0 | .lpddr => 1 | .scratch => 2 | .cluster => 3 | .ksram => 4 | .host => 5 | .istore => 6

/-- Bytes of a protection granule (R291). -/
def granule (m : MemId) : Nat :=
  match m with
  | .hbm => 32 | .lpddr => 32 | .host => 64 | _ => 8

def memGet (m : MemId) (s : State) : Memory :=
  match m with
  | .hbm => s.mems.hbm
  | .lpddr => s.mems.lpddr
  | .scratch => s.mems.scratch
  | .cluster => s.mems.cluster
  | .ksram => s.mems.ksram
  | .host => s.mems.host
  | .istore => s.mems.istore

def memSet (m : MemId) (x : Memory) (s : State) : State :=
  match m with
  | .hbm => { s with mems := { s.mems with hbm := x } }
  | .lpddr => { s with mems := { s.mems with lpddr := x } }
  | .scratch => { s with mems := { s.mems with scratch := x } }
  | .cluster => { s with mems := { s.mems with cluster := x } }
  | .ksram => { s with mems := { s.mems with ksram := x } }
  | .host => { s with mems := { s.mems with host := x } }
  | .istore => { s with mems := { s.mems with istore := x } }

def badKey (m : MemId) (a : Nat) : Nat := memCode m * 2 ^ 48 + a / granule m * granule m

/-- The first byte of [a, a + n) that lies in a granule that reads uncorrectable (R313). -/
def badIn (m : MemId) (a n : Nat) (s : State) : Option Nat :=
  (s.mems.bad.filter (fun k =>
      decide (memCode m * 2 ^ 48 + a < k + granule m) && decide (k < memCode m * 2 ^ 48 + a + n))).head?.map
    (fun k => max a (k - memCode m * 2 ^ 48))

/-- Before a write over [a, a + n): an uncorrectable granule that it touches takes zero in every byte the write does
not cover, and reads well again (R313, R314). -/
def repairBad (m : MemId) (a n : Nat) (s : State) : State :=
  if s.mems.bad.isEmpty then s else
  let hit := s.mems.bad.filter (fun k =>
    decide (memCode m * 2 ^ 48 + a < k + granule m) && decide (k < memCode m * 2 ^ 48 + a + n))
  let s := foldS (fun k t => memSet m (mclear (memGet m t) (k - memCode m * 2 ^ 48) (granule m)) t) hit s
  { s with mems := { s.mems with bad := s.mems.bad.filter (fun k => !(hit.contains k)) } }

/-- Read `n` bytes. -/
def memRead (m : MemId) (a n : Nat) (s : State) : List Byte := mreadN (memGet m s) a n

/-- Write bytes. -/
def memWrite (m : MemId) (a : Nat) (bs : List Byte) (s : State) : State :=
  let s := repairBad m a bs.length s
  memSet m (mwriteN (memGet m s) a bs) s

/-- Write `n` zeros. -/
def memZero (m : MemId) (a n : Nat) (s : State) : State :=
  let s := repairBad m a n s
  memSet m (mclear (memGet m s) a n) s

/-- A tier number's memory (R58): 0 HBM, 1 LPDDR5X, 2 scratchpad. -/
def tierMem (tier : Nat) : MemId :=
  match tier with
  | 0 => .hbm
  | 1 => .lpddr
  | _ => .scratch

/-- The host link is not down (R378: "down" means from a loss until `HOST_ATTACH`). -/
def hostOk (s : State) : Bool := s.host.attached

/-- The scratchpad of a core, its cluster's store and its instruction store as addresses of their memories. -/
def scratchBase (core : Nat) : Nat := core * 2 ^ 22
def clusterBase (cluster : Nat) : Nat := cluster * 2 ^ 25
def istoreBase (core : Nat) : Nat := core * 2 ^ 16

/-! ## MSI-X (R373) -/

/-- Send a vector's message: pending while the table masks it. A message is a host access, so none is made while the
device is detached (R379). -/
def msix (fn vec : Nat) (s : State) : State :=
  if !(hostOk s) then s
  else if (fnOf s fn).msixUnmasked.contains vec then outEmit (.msix fn vec) s
  else modFn fn (fun f => { f with msixPending := if f.msixPending.contains vec then f.msixPending else vec :: f.msixPending }) s

/-! ## Rings the device writes (R23, R24, R42) -/

/-- `log2_entries` and `in_sram` of a ring's size register (R52). -/
def ringLog2 (size : W32) : Nat := size.toNat % 32
def ringSram (size : W32) : Bool := bitOf size.toNat 29
def ringBase (lo hi : W32) : Nat := hi.toNat * 2 ^ 32 + lo.toNat / 4096 * 4096

/-- Where a ring's byte lies: host memory, or Keystone `ks`'s SRAM. -/
def ringPlace (sram : Bool) (ks addr : Nat) : MemId × Nat :=
  if sram then (.ksram, ks * 2 ^ 26 + addr % 2 ^ 26) else (.host, addr % 2 ^ 64)

/-- A ring lies in host memory. -/
def OutRing.inHost (r : OutRing) : Bool := !(ringSram r.size)

/-- The record index advanced by one, with its phase. -/
def ringNext (log2 idx : Nat) (phase : Bool) : Nat × Bool :=
  if idx + 1 = 2 ^ log2 then (0, !phase) else (idx + 1, phase)

/-- Records written and not yet read by software. -/
def OutRing.used (r : OutRing) : Nat := (r.prod + 2 ^ ringLog2 r.size - r.cons % 2 ^ ringLog2 r.size) % 2 ^ ringLog2 r.size

/-- R42: full when the producer index, advanced by the reserved records, is one short of the consumer's. -/
def OutRing.full (r : OutRing) : Bool := decide (2 ^ ringLog2 r.size ≤ r.used + r.reserved + 1)

/-- A receive record uses a record reserved for it (R70), so only the written ones count against it. -/
def OutRing.fullReserved (r : OutRing) : Bool := decide (2 ^ ringLog2 r.size ≤ r.used + 1)

/-- The record with its owner bit. -/
def recWith (r : Rec) (owner : Bool) : List Byte := leBytes 32 (r.toNat % 2 ^ 248 + (if owner then 0x80 else 0) * 2 ^ 248)

/-- A record made of fields, each offset, size and value (little-endian). -/
def mkRec : List (Nat × Nat × Nat) → Rec
  | [] => 0
  | (off, size, v) :: t => BitVec.ofNat 256 ((v % 2 ^ (8 * size)) * 2 ^ (8 * off)) ||| mkRec t

/-- The ring after one more record. -/
def OutRing.pushed (r : OutRing) : OutRing :=
  { r with prod := (ringNext (ringLog2 r.size) r.prod r.phase).1, phase := (ringNext (ringLog2 r.size) r.prod r.phase).2,
           armed := false }

/-- Write a record's bytes at the producer's index. -/
def ringStore (ks : Nat) (r : OutRing) (c : Rec) (s : State) : State :=
  let (m, a) := ringPlace (ringSram r.size) ks (ringBase r.baseLo r.baseHi + 32 * r.prod)
  memWrite m a (recWith c r.phase) s

/-- Write a record in completion ring `ring` now, and its MSI-X message if the ring is armed. -/
def cqWriteNow (fn ring : Nat) (c : Rec) (s : State) : State :=
  let r := cqOf s fn ring
  let s := ringStore 0 r c s
  let s := setCq fn ring { r.pushed with lastStatus := rf c 0 1 } s
  if r.armed then msix fn ring s else s

/-! ## Events (R45 to R47, R493) -/

/-- An event record at time `t`. -/
def mkEvent (code detail : Nat) (module : W32) (qp aux wher t : Nat) : Rec :=
  mkRec [(0, 1, code), (1, 1, detail), (4, 4, module.toNat), (8, 4, qp), (12, 4, aux), (16, 8, wher), (24, 6, t)]

/-- Write an event record now. -/
def eqWriteNow (fn : Nat) (c : Rec) (s : State) : State :=
  let r := (fnOf s fn).eq
  let s := ringStore 0 r c s
  let s := modFn fn (fun f => { f with eq := r.pushed }) s
  if r.armed then msix fn 64 s else s

/-- An event ring can take a record now: enabled, not full, and not in host memory while the device is detached
(R47, R379). -/
def eqRoom (fn : Nat) (s : State) : Bool :=
  let r := (fnOf s fn).eq
  r.enable && !r.full && (hostOk s || !r.inHost)

/-- When space has returned after dropped events, one EVENT_OVERFLOW record is written (R47). -/
def eqOverflow (fn : Nat) (s : State) : State :=
  if (fnOf s fn).eventsDropped ≠ 0 ∧ eqRoom fn s = true then
    let n := (fnOf s fn).eventsDropped
    eqWriteNow fn (mkEvent 0x03 0 (ownId s) 0 0 n s.now) (modFn fn (fun f => { f with eventsDropped := 0 }) s)
  else s

/-- Raise an event on a function's event ring; when the ring cannot take it, it is dropped and counted (R47). -/
def raiseOn (fn code detail : Nat) (module : W32) (qp aux wher : Nat) (s : State) : State :=
  let s := eqOverflow fn s
  if eqRoom fn s then eqWriteNow fn (mkEvent code detail module qp aux wher s.now) s
  else modFn fn (fun f => { f with eventsDropped := f.eventsDropped + 1, eventOverflow := true }) s

/-- Raise an event; codes 0x60 and above go to the PF's ring alone (R46). -/
def raiseEvent (fn code detail : Nat) (module : W32) (qp aux wher : Nat) (s : State) : State :=
  if 0x60 ≤ code then raiseOn 0 code detail module qp aux wher s else raiseOn fn code detail module qp aux wher s

/-! ## Virtual devices, QPs and grants -/

/-- The grant of a virtual device, none while it does not exist. -/
def grantOf (s : State) (fn : Nat) : Option Grant := (fnOf s fn).grant

/-- Completion rings a function may use (R49): 64 on the PF, as granted on a VF. -/
def cqCountOf (s : State) (fn : Nat) : Nat :=
  if fn = 0 then 64 else match grantOf s fn with
    | some g => g.cqCount
    | none => 0

/-- The first QP of the doorway range (R267): QPs 0xF_FE00 to 0xF_FFFF are the cores' doorways. -/
def doorwayBase : Nat := 0xFFE00

/-- The global QP of a send queue (R370, R371). -/
def globalQp (s : State) (q : QRef) : Nat :=
  if q.fn = 0 then q.index else match grantOf s q.fn with
    | some g => g.qpBase + q.index
    | none => q.index

/-- The function that owns a core, by its cluster's grant (R387). -/
def coreFn (s : State) (core : Nat) : Option Nat :=
  (s.fns.filter (fun p => match p.2.grant with
    | some g => bitOf g.clusters.toNat (coreCluster core)
    | none => false)).head?.map Prod.fst

/-- The function that owns a QP (R81, R267): the holder of its range, or for a doorway QP its core's owner. -/
def qpFn (s : State) (qp : Nat) : Option Nat :=
  if doorwayBase ≤ qp then coreFn s (qp - doorwayBase)
  else (s.fns.filter (fun p => match p.2.grant with
    | some g => decide (g.qpBase ≤ qp) && decide (qp < g.qpBase + g.queues)
    | none => false)).head?.map Prod.fst

/-- A function's own number of a global QP: a VF's local index, or the global number for the PF and for doorway QPs
(R493). -/
def localQp (s : State) (qp : Nat) : Nat :=
  if doorwayBase ≤ qp then qp else match qpFn s qp with
    | some 0 => qp
    | some f => (match grantOf s f with
      | some g => qp - g.qpBase
      | none => qp)
    | none => qp

/-- The Keystone that owns a QP (R81). -/
def qpKs (qp : Nat) : Nat := qp % 2

/-- The Keystone a queue is served on (R34, R35). -/
def queueKs (s : State) (q : QRef) : Nat :=
  match q.kind with
  | .send => globalQp s q % 2
  | _ => 0

/-- The device is FATAL (R51). -/
def isFatal (s : State) : Bool := s.board.mstate == 2

/-- READY or later FATAL work is taken only in `module_state` READY (R468). -/
def isReady (s : State) : Bool := s.board.mstate == 1

/-- The function's QP state as others see it: HALTED or FROZEN (R71 check 3). -/
def fnStopped (s : State) (fn : Nat) : Bool :=
  match (fnOf s fn).vstate with
  | .halted => true
  | .frozen => true
  | _ => (fnOf s fn).flrDraining

/-- A function's BAR takes accesses: a VF's is closed from an FLR until its drains end (R383). -/
def barOpen (s : State) (fn : Nat) : Bool := !((fnOf s fn).flrDraining)

/-- A function's secure mode: on while it has a transmit association, a wiped or exhausted one too (R110, R409). -/
def secureOn (s : State) (fn : Nat) : Bool := (fnOf s fn).keyPage.txState != SaState.empty

/-- Add a record to the fault log: 64 records, the oldest goes when it is full (R480). -/
def logFault (cls code unit detail : Nat) (s : State) : State :=
  let r : FaultRecord := { cls := cls, code := code, unit := unit, state := s.board.mstate, boot := s.board.resetCount,
                           time := s.now, detail := detail }
  let old := s.board.faultLog
  { s with board := { s.board with faultLog := (if old.length < 64 then old else old.drop 1) ++ [r] } }

/-- Completion counters (R43). -/
def counterOf (s : State) (fn i : Nat) : BitVec 48 := tget 0 (fnOf s fn).counters i

/-- R44: a counter at or past its target. -/
def counterReached (c t : BitVec 48) : Bool := decide ((c - t).toNat < 2 ^ 47)

/-- The rules of the cut path that bind a counter of a function: their stamp reads the next answer (R338). A rule's
copy names its function at offset 24 and its counter at offset 52. -/
def stampRules (s : State) (test : List Byte → Bool) : List Nat :=
  (s.cut.rules.filter (fun p => p.2.enable && test p.2.desc)).map Prod.fst

/-- An ascending number list test used by bitmaps. -/
def bitsOf (n w : Nat) : List Nat := (rangeFrom 0 w).filter (fun i => bitOf n i)

/-- A WAIT of the core is under way: it has not taken its count yet. -/
def waiting (k : Core) : Bool := k.running.any (fun r => r.unit == 11 && fieldOf r.cmd.toNat 0 6 == 7)

/-- A core is blocked in a WAIT, be its program ended or not: R215 reads the awaited semaphore of each blocked core in
its status. DEDUCED, assumption 45. -/
def isBlocked (k : Core) : Bool :=
  match k.st with
  | .blocked => true
  | .ended => waiting k
  | _ => false

end Sys2Proof.Machine
end

