-- ==== Sys2Proof/Machine/Operands.lean ====
section
/-! DEFINITION. The operand forms: the fields of ring entries (R25, R27, R60, R193, R224, R389), of signal
descriptors (R26), the mark, and the check of R29 for a malformed entry. -/

namespace Sys2Proof.Machine

open Sys2Proof

/-! ## The entry (R25) -/

def eOp (e : Entry) : Nat := ef e 0 1
def eFlags (e : Entry) : Nat := ef e 1 1
def eBatch (e : Entry) : Bool := bitOf (eFlags e) 0
def eFence (e : Entry) : Bool := bitOf (eFlags e) 1
def eSignalled (e : Entry) : Bool := bitOf (eFlags e) 2
def eSolicit (e : Entry) : Bool := bitOf (eFlags e) 3
def eSecure (e : Entry) : Bool := bitOf (eFlags e) 4
def eMark (e : Entry) : Nat := ef e 2 2
def eLength (e : Entry) : Nat := ef e 4 4
def eLocal (e : Entry) : Nat := ef e 8 8
def eOffset (e : Entry) : Nat := ef e 16 8
def eKey (e : Entry) : W32 := BitVec.ofNat 32 (ef e 24 4)
def eDest (e : Entry) : W32 := BitVec.ofNat 32 (ef e 28 4)
def eDestQp (e : Entry) : Nat := fieldOf (ef e 32 4) 0 20
def eClass (e : Entry) : Nat := fieldOf (ef e 32 4) 20 3
def eSignal (e : Entry) : W64 := BitVec.ofNat 64 (ef e 36 8)
def eOwner (e : Entry) : Bool := bitOf (ef e 63 1) 7

/-- The bytes of an entry. -/
def entryBytes (e : Entry) : List Byte := leBytes 64 e.toNat

/-- The mason's mark that the entry's bytes call for (R26). -/
def computedMark (e : Entry) : Nat :=
  let b := entryBytes e
  crc16 0xFFFF (b.take 2 ++ (b.drop 4).take 56 ++ [if eOwner e then 1 else 0])

/-- The entry is whole (R26). -/
def eWhole (e : Entry) : Bool := decide (eMark e = computedMark e) && decide (ef e 60 2 = computedMark e)

/-! ## Signal descriptors (R26) -/

def sigKind (d : W64) : Nat := fieldOf d.toNat 0 2
def sigIndex (d : W64) : Nat := fieldOf d.toNat 2 12
def sigCore (d : W64) : Nat := fieldOf d.toNat 14 10
def sigInc (d : W64) : Nat := fieldOf d.toNat 24 16

/-- A descriptor inside the ranges of R26, with no reserved bit set. -/
def sigOk (d : W64) : Bool :=
  decide (fieldOf d.toNat 40 24 = 0) && decide (1 ≤ sigInc d) &&
  (if sigKind d = 0 then decide (sigIndex d < 64) && decide (sigCore d < 512)
   else if sigKind d = 1 then decide (sigCore d = 0) else false)

/-! ## Per-opcode fields -/

/-- SEND's immediate, LAUNCH's program handle. -/
def eImm (e : Entry) : Nat := ef e 44 4
/-- FETCH_ADD's addend, COMPARE_SWAP's compare value. -/
def eArgA (e : Entry) : W64 := BitVec.ofNat 64 (ef e 44 8)
/-- COMPARE_SWAP's swap value. -/
def eArgB (e : Entry) : W64 := BitVec.ofNat 64 (ef e 52 8)
def eAxis (e : Entry) : Nat := ef e 44 1
def eBitmap (e : Entry) : W32 := BitVec.ofNat 32 (ef e 48 4)
def eCounter (e : Entry) : Nat := ef e 44 2
def eTarget (e : Entry) : BitVec 48 := BitVec.ofNat 48 (ef e 48 6)
def eCollOp (e : Entry) : Nat := ef e 44 1
def eCollRed (e : Entry) : Nat := ef e 45 1
def eCollType (e : Entry) : Nat := ef e 46 1
def eCollCount (e : Entry) : Nat := ef e 48 4
def eCollRoot (e : Entry) : Nat := ef e 52 2
def eFirstCore (e : Entry) : Nat := ef e 48 2
def eCoreCount (e : Entry) : Nat := ef e 50 2
/-- REGION_REGISTER and WINDOW_OPEN (R60). -/
def eRights (e : Entry) : Nat := ef e 44 1
def eKeyTarget (e : Entry) : Nat := ef e 45 1
def eKeyCore (e : Entry) : Nat := ef e 46 2
def eKeyAddr (e : Entry) : Nat := ef e 52 8
/-- The VDEV operations (R389). -/
def eVdev (e : Entry) : Nat := ef e 4 2
def eVflags (e : Entry) : Nat := ef e 6 1
def eResult (e : Entry) : Nat := ef e 16 8
def eBufLen (e : Entry) : Nat := ef e 44 8
def eMap (e : Entry) : Nat := ef e 52 8

/-- Every byte from `off` on for `n` bytes is 0. -/
def eZero (e : Entry) (off n : Nat) : Bool := decide (ef e off n = 0)

/-- Bytes an element of a collective takes, in 32nds of elements for MXFP8 (R27, R229): `length` for a count. -/
def collBytes (dtype count : Nat) : Nat :=
  match dtype with
  | 0 => 4 * count
  | 1 => 2 * count
  | 2 => count + count / 32
  | 3 => count + count / 32
  | _ => 4 * count

/-! ## Which opcodes a ring accepts (R28) -/

def accepts (k : QKind) (op : Nat) : Bool :=
  match k with
  | .send => (decide (1 ≤ op) && decide (op ≤ 0x0A)) || op == 0x10 || op == 0x20 || op == 0x21
  | .control => op == 0x08 || op == 0x09 || (decide (0x88 ≤ op) && decide (op ≤ 0x8C))
  | .admin => op == 0x08 || op == 0x09 || (decide (0x80 ≤ op) && decide (op ≤ 0x85)) ||
      (decide (0x90 ≤ op) && decide (op ≤ 0x95))

/-- What R29 looks at beyond the entry: the part, and what the function's capability registers report (R372). -/
structure Caps where
  /-- LAUNCH and scratchpad keys: the function holds cores. -/
  cores : Bool
  /-- The part carries Ashlar dies at all (R6). -/
  coresFitted : Nat
  secure : Bool
  mortar : Bool
  /-- The module's own wall number, for R88's line inside the module's wall. -/
  wall : Nat
deriving DecidableEq, Repr

/-- Common fields of the data opcodes: flags allowed beyond bits 0 and 1, reserved bits, the signal field. -/
def dataCommonBad (e : Entry) (flagsAllowed : Nat) (sigRequired : Bool) : Bool :=
  (eFlags e ||| flagsAllowed ||| 0x03) != (flagsAllowed ||| 0x03) ||
  (sigRequired && !(eSignalled e)) ||
  (!(eSignalled e) && eSignal e != 0) ||
  (eSignalled e && !(sigOk (eSignal e))) ||
  ef e 62 1 != 0 || fieldOf (ef e 63 1) 0 7 != 0

def lenBad (e : Entry) : Bool := eLength e == 0 || decide (0x40000000 < eLength e)
def destBad (e : Entry) : Bool := !(idValid (eDest e)) || fieldOf (ef e 32 4) 23 9 != 0
def destUnused (e : Entry) : Bool := !(eZero e 28 8)

/-- The fields of R27 broken by a data opcode. -/
def dataBad (e : Entry) (cap : Caps) : Bool :=
  match eOp e with
  | 0x01 => dataCommonBad e 0x10 false || lenBad e || destBad e || !(eZero e 44 16)
  | 0x02 => dataCommonBad e 0x1C true || lenBad e || destBad e || !(eZero e 44 16)
  | 0x03 => dataCommonBad e 0x10 false || lenBad e || destBad e || !(eZero e 44 16)
  | 0x04 => dataCommonBad e 0x10 false || eLength e != 8 || eLocal e % 8 != 0 || eOffset e % 8 != 0 || destBad e ||
      !(eZero e 52 8)
  | 0x05 => dataCommonBad e 0x10 false || eLength e != 8 || eLocal e % 8 != 0 || eOffset e % 8 != 0 || destBad e
  | 0x06 => dataCommonBad e 0x1C false || lenBad e || destBad e || !(eZero e 16 12) || !(eZero e 48 12)
  | 0x07 => dataCommonBad e 0x14 false || lenBad e || destBad e || decide (1 < eAxis e) || !(eZero e 45 3) ||
      !(eZero e 52 8) || idWall (eDest e) != cap.wall
  | 0x08 => dataCommonBad e 0 false || !(eZero e 4 40) || decide (4095 < eCounter e) || !(eZero e 46 2) ||
      !(eZero e 54 6)
  | 0x09 => dataCommonBad e 0 false || !(eZero e 4 56)
  | 0x0A => dataCommonBad e 0 false || lenBad e || !(eZero e 24 4) || destUnused e || !(eZero e 44 16)
  | 0x10 =>
      dataCommonBad e 0 false || destUnused e || decide (4 < eCollOp e) || decide (2 < eCollRed e) ||
      decide (4 < eCollType e) || !(eZero e 47 1) || !(eZero e 54 6) ||
      (decide (2 ≤ eCollOp e) && eCollRed e != 0) ||
      (decide (eCollOp e < 4) && eCollCount e == 0) ||
      (eCollOp e != 3 && eCollRoot e != 0) ||
      (eCollOp e == 4 && (eCollCount e != 0 || eLength e != 0)) ||
      ((eCollType e == 2 || eCollType e == 3) && eCollCount e % 32 != 0) ||
      eLength e != collBytes (eCollType e) (eCollCount e)
  | 0x20 => dataCommonBad e 0 false || decide (65536 < eLength e) || !(eZero e 16 12) || destUnused e ||
      !(eZero e 52 8) || cap.coresFitted == 0 || !cap.cores
  | 0x21 => dataCommonBad e 0x0C true || !(eZero e 4 24) || destBad e || !(eZero e 44 16)
  | _ => true

/-- The fields of R60 broken by a key operation. -/
def keyBad (e : Entry) (cap : Caps) : Bool :=
  let flagsBad := decide (3 < eFlags e) || ef e 62 1 != 0 || fieldOf (ef e 63 1) 0 7 != 0
  match eOp e with
  | 0x89 => flagsBad || !(eZero e 4 20) || !(eZero e 28 32)
  | 0x8B => flagsBad || !(eZero e 4 20) || !(eZero e 28 32)
  | 0x8C => flagsBad || !(eZero e 4 56)
  | op =>
    flagsBad || ef e 4 4 == 0 || eLocal e % 256 != 0 || !(eZero e 16 12) || !(eZero e 28 16) ||
    decide (15 < eRights e) || eRights e == 0 || (bitOf (eRights e) 3 && decide (eRights e ≠ 8)) ||
    (op == 0x8A && bitOf (eRights e) 3) || decide (1 < eKeyTarget e) || !(eZero e 48 4) || eKeyAddr e % 4 != 0 ||
    (if eKeyTarget e = 1 then decide (2 ^ 22 ≤ eLocal e) || decide (cap.coresFitted ≤ eKeyCore e) || !cap.cores
     else eKeyCore e != 0)

/-- The fields of R389 broken by a VDEV operation. -/
def vdevBad (e : Entry) : Bool :=
  decide (3 < eFlags e) || ef e 62 1 != 0 || fieldOf (ef e 63 1) 0 7 != 0 ||
  decide (1024 < eVdev e) || ef e 7 1 != 0 || !(eZero e 24 20) || eResult e % 16 != 0 ||
  (match eOp e with
   | 0x80 => eVflags e != 0 || eLocal e % 64 != 0 || !(eZero e 44 16)
   | 0x83 => eVflags e != 0 || eLocal e % 4096 != 0 || !(eZero e 52 8)
   | 0x84 => decide (1 < eVflags e) || eLocal e % 4096 != 0 || eMap e % 8 != 0
   | _ => eVflags e != 0 || eLocal e != 0 || !(eZero e 44 16))

/-- GROUP_*, CIRCUIT_* and the module fences (R192, R197, R223 to R225). `sx`, `sy` and `pos` are the wall's size and
the module's position. -/
def wallBad (e : Entry) (cap : Caps) (own : W32) (sx sy : Nat) (pos : Option (Nat × Nat)) : Bool :=
  let flagsBad := decide (3 < eFlags e) || ef e 62 1 != 0 || fieldOf (ef e 63 1) 0 7 != 0
  let handle := ef e 4 4
  let handleBad (h : Nat) := decide (h % 1024 = 0) || fieldOf h 10 6 != 0 || decide (h / 65536 = 0)
  flagsBad ||
  (match eOp e with
   | 0x90 =>
     let ox := ef e 20 1
     let oy := ef e 21 1
     let w := ef e 22 1
     let h := ef e 23 1
     let inside := match pos with
       | some (x, y) => decide ((x + sx - ox % (max sx 1)) % (max sx 1) < w) && decide ((y + sy - oy % (max sy 1)) % (max sy 1) < h)
       | none => false
     handleBad handle || eLocal e % 16 != 0 || ef e 16 2 == 0 || decide (1024 < ef e 16 2) || decide (2 < ef e 18 1) ||
     decide (15 < ef e 19 1) || decide (31 < ox) || decide (31 < oy) || w == 0 || decide (sx < w) || h == 0 ||
     decide (sy < h) || decide (w ≤ ef e 24 1) || decide (h ≤ ef e 25 1) || decide (ef e 26 2 < 2) ||
     decide (256 < ef e 26 2) || !(eZero e 28 32) || !inside || decide (1024 < w * h)
   | 0x91 => !(eZero e 4 20) || !(eZero e 28 32)
   | 0x92 =>
     eLocal e % 16 != 0 || !(eZero e 4 4) || !(eZero e 16 12) || fieldOf (ef e 32 4) 20 12 != 0 || !(eZero e 36 8) ||
     ef e 44 1 == 0 || decide (128 < ef e 44 1) || !(eZero e 45 15) || !(idValid (eDest e)) ||
     idWall (eDest e) != cap.wall || eDest e == own
   | 0x93 => !(eZero e 4 20) || !(eZero e 28 32)
   | _ => !(eZero e 4 56))

/-- MULTICAST_WRITE's line (R198): the destination shares the source's line, and the bitmap's bits for the source's own
position and from the line's size up are 0. -/
def multicastBad (e : Entry) (own : W32) (sx sy : Nat) (pos : Option (Nat × Nat)) : Bool :=
  match pos with
  | none => false
  | some (x, y) =>
    let course := eAxis e == 0
    let here := if course then x else y
    let size := if course then sx else sy
    (if course then idY (eDest e) != idY own else idX (eDest e) != idX own) ||
    bitOf (eBitmap e).toNat here || decide ((eBitmap e).toNat >>> size ≠ 0)

/-- What a function holds of each kind of resource, as R29 uses it: its virtual device's grant. The PF's own rings count as virtual
device 0's, though the PF's `VF_CAP` reports the whole module (R372; DESIGN CHOICE, assumption 80). -/
def capsOf (s : State) (fn : Nat) : Caps :=
  { cores := match grantOf s fn with
      | some g => g.clusters != 0
      | none => false
    coresFitted := coresFitted s.part
    secure := (match grantOf s fn with
      | some g => g.secure
      | none => false) && secureOn s fn
    mortar := match grantOf s fn with
      | some g => decide (0 < g.mortarSlots)
      | none => false
    wall := s.wall.wallNumber }

/-- The entry is malformed on the ring where it stands (R29), its mark apart. -/
def entryMalformed (s : State) (q : QRef) (e : Entry) : Bool :=
  let cap := capsOf s (queueFn q)
  let op := eOp e
  !(accepts q.kind op) ||
  (if op < 0x80 then
     dataBad e cap || (eSecure e && !cap.secure) ||
     (op == 0x07 && multicastBad e (ownId s) s.wall.sizeX s.wall.sizeY s.wall.pos) ||
     (op == 0x10 && !cap.mortar) ||
     (op == 0x20 && (eCoreCount e == 0 || decide (coresFitted s.part < eFirstCore e + eCoreCount e)))
   else if op < 0x88 then vdevBad e
   else if op < 0x90 then keyBad e cap
   else wallBad e cap (ownId s) s.wall.sizeX s.wall.sizeY s.wall.pos)

end Sys2Proof.Machine
end

