-- ==== Sys2Proof/Machine/Xlate.lean ====
section
/-! DEFINITION. Translation through the segments (R298 to R304), frames, and reading and writing memory by virtual
address. -/

namespace Sys2Proof.Machine

open Sys2Proof

def pageBytes : Nat := 2 ^ 21

def segBase (g : Segment) : Nat := g.vaHi.toNat * 2 ^ 32 + g.vaLo.toNat
def segHostBase (g : Segment) : Nat := g.hostHi.toNat * 2 ^ 32 + g.hostLo.toNat
def segBytes (g : Segment) : Nat := g.pages * pageBytes

/-- A segment translates: valid, and no disable accepted (R301). -/
def segLive (g : Segment) : Bool := g.valid && g.enable && !g.disabling

/-- The segment that holds a whole range (R302). -/
def segHolding (s : State) (fn va len : Nat) : Option Nat :=
  ((rangeFrom 0 16).filter (fun i =>
    let g := segOf s fn i
    segLive g && decide (segBase g ≤ va) && decide (va + len ≤ segBase g + segBytes g))).head?

/-- The segment that an access translated earlier goes on using: one that translates, or one whose disable waits for the
accesses in progress (R301). -/
def segUsing (s : State) (fn va len : Nat) : Option Nat :=
  match segHolding s fn va len with
  | some i => some i
  | none => ((rangeFrom 0 16).filter (fun i =>
    let g := segOf s fn i
    g.valid && g.disabling && decide (segBase g ≤ va) && decide (va + len ≤ segBase g + segBytes g))).head?

/-- R302 `first_outside`: the first byte of the range that no single segment holding its start covers. -/
def firstOutside (s : State) (fn va : Nat) : Nat :=
  match ((rangeFrom 0 16).filter (fun i =>
    let g := segOf s fn i
    segLive g && decide (segBase g ≤ va) && decide (va < segBase g + segBytes g))).head? with
  | some i => segBase (segOf s fn i) + segBytes (segOf s fn i)
  | none => va

/-- The page indices of a segment that a range of offsets covers. -/
def pagesOf (off len : Nat) : List Nat :=
  if len = 0 then [] else rangeFrom (off / pageBytes) ((off + len - 1) / pageBytes + 1 - off / pageBytes)

/-- What R302 answers. -/
inductive Xl where
  | ok
  /-- A status and the faulting address that goes with it. -/
  | fault (status addr : Nat)
  /-- Pages of a segment that are not resident. -/
  | absent (seg : Nat) (pages : List Nat)
deriving DecidableEq, Repr

/-- Translate an offset range of one segment (R258 space 2 names the segment outright; R302 finds it). `va` is the
address reported. -/
def xlateSeg (s : State) (fn seg off len va : Nat) (wr : Bool) : Xl :=
  let g := segOf s fn seg
  if !(if wr then g.write else g.read) then .fault stLocalAccess va
  else if g.tier = 2 then (if hostOk s then .ok else .fault stHostLost va)
  else if !g.migratory then .ok
  else
    let ps := pagesOf off len
    if ps.any (fun p => (pageOf s fn seg p).lost) then .fault stMemory va
    else match ps.filter (fun p => !(pageOf s fn seg p).resident || (pageOf s fn seg p).migrating) with
      | [] => .ok
      | absent => .absent seg absent

/-- R302. An empty range translates without effect. -/
def xlate (s : State) (fn va len : Nat) (wr : Bool) : Xl :=
  if len = 0 then .ok else
  match segHolding s fn va len with
  | none => .fault stLocalAccess (firstOutside s fn va)
  | some i => xlateSeg s fn i (va - segBase (segOf s fn i)) len va wr

/-- Segment and rights alone (R303: when an entry is taken). -/
def xlateRights (s : State) (fn va len : Nat) (wr : Bool) : Xl :=
  match xlate s fn va len wr with
  | .absent _ _ => .ok
  | x => x

/-- Where one byte of a segment lies: memory and address. -/
def segPlace (s : State) (fn seg off : Nat) : MemId × Nat :=
  let g := segOf s fn seg
  if g.tier = 2 then (.host, (segHostBase g + off) % 2 ^ 64)
  else if g.migratory then
    (tierMem g.tier, (pageOf s fn seg (off / pageBytes)).frame * pageBytes + off % pageBytes)
  else (tierMem g.tier, g.tierBase + off)

/-- A range of a segment cut at page boundaries: memory, address, bytes. `fuel` bounds the pages. -/
def segPieces (s : State) (fn seg : Nat) : Nat → Nat → Nat → List (MemId × Nat × Nat)
  | 0, _, _ => []
  | fuel + 1, off, len =>
    if len = 0 then [] else
    let n := min len (pageBytes - off % pageBytes)
    ((segPlace s fn seg off).1, (segPlace s fn seg off).2, n) :: segPieces s fn seg fuel (off + n) (len - n)

def piecesOf (s : State) (fn seg off len : Nat) : List (MemId × Nat × Nat) :=
  segPieces s fn seg (len / pageBytes + 2) off len

/-- Read a range of a segment. -/
def segRead (s : State) (fn seg off len : Nat) : List Byte :=
  ((piecesOf s fn seg off len).map (fun p => memRead p.1 p.2.1 p.2.2 s)).flatten

/-- The first byte of a range that reads uncorrectable (R314). -/
def segBad (s : State) (fn seg off len : Nat) : Bool :=
  (piecesOf s fn seg off len).any (fun p => (badIn p.1 p.2.1 p.2.2 s).isSome)

/-- Write bytes over pieces. -/
def writePieces : List (MemId × Nat × Nat) → List Byte → State → State
  | [], _, s => s
  | (m, a, n) :: t, bs, s => writePieces t (bs.drop n) (memWrite m a (bs.take n) s)

/-- Write a range of a segment; the pages of a migratory one become dirty (R306). -/
def segWrite (fn seg off : Nat) (bs : List Byte) (s : State) : State :=
  let ps := piecesOf s fn seg off bs.length
  let s := writePieces ps bs s
  if (segOf s fn seg).migratory then
    foldS (fun p t => modPage fn seg p (fun x => { x with dirty := true }) t) (pagesOf off bs.length) s
  else s

/-- Read `len` bytes at a virtual address that translates. -/
def vread (s : State) (fn va len : Nat) : List Byte :=
  match segHolding s fn va len with
  | some i => segRead s fn i (va - segBase (segOf s fn i)) len
  | none => []

/-- A read of [va, va + len) meets an uncorrectable granule. -/
def vbad (s : State) (fn va len : Nat) : Bool :=
  match segHolding s fn va len with
  | some i => segBad s fn i (va - segBase (segOf s fn i)) len
  | none => false

/-- Write bytes at a virtual address that translates. -/
def vwrite (fn va : Nat) (bs : List Byte) (s : State) : State :=
  match segUsing s fn va bs.length with
  | some i => segWrite fn i (va - segBase (segOf s fn i)) bs s
  | none => s

/-! ## Stamps and caches (R304, R306) -/

/-- The stamp of now: units of 16 µs, modulo 2^28. -/
def stampNow (s : State) : Nat := s.now / 16000 % 2 ^ 28

/-- An agent's translations of pages of a segment: each through its cache, or by a walker, which counts the walk, renews the
stamp of a migratory segment's page and fills the cache. Replacement is least recently used (R304). Agents 0 to 511 are the
cores, 512 and 513 the Keystones. -/
def touchPages (agent fn seg : Nat) (ps : List Nat) (s : State) : State :=
  foldS (fun p t =>
    let key := (agent, fn, seg * 2 ^ 20 + p)
    if t.mig.cached.contains key then { t with mig := { t.mig with cached := key :: dropFirst key t.mig.cached } }
    else
      let t := bump 0x9070 1 1 t
      let t := if (segOf t fn seg).migratory then modPage fn seg p (fun x => { x with stamp := stampNow t }) t else t
      let size := if agent < 512 then 4 else 256
      let mine := t.mig.cached.filter (fun k => k.1 == agent)
      let kept := if mine.length < size then t.mig.cached
        else match mine.reverse.head? with
          | some old => dropFirst old t.mig.cached
          | none => t.mig.cached
      { t with mig := { t.mig with cached := key :: kept } }) ps s

/-- A translated access of a range of a segment: the pages of a migratory one, the descriptor alone of another (R304). -/
def touchSeg (agent fn seg off len : Nat) (s : State) : State :=
  if len = 0 then s
  else touchPages agent fn seg (if (segOf s fn seg).migratory then pagesOf off len else [2 ^ 20 - 1]) s

/-- A translated access of a virtual range. -/
def vtouch (agent fn va len : Nat) (s : State) : State :=
  match segHolding s fn va len with
  | some i => touchSeg agent fn i (va - segBase (segOf s fn i)) len s
  | none => s

/-- Every cache entry that names a page goes before the change that makes it wrong (R305). -/
def uncachePage (fn seg p : Nat) (s : State) : State :=
  { s with mig := { s.mig with cached := s.mig.cached.filter (fun k => !(k.2.1 == fn && k.2.2 == seg * 2 ^ 20 + p)) } }

def uncacheSeg (fn seg : Nat) (s : State) : State :=
  { s with mig := { s.mig with cached := s.mig.cached.filter (fun k => !(k.2.1 == fn && k.2.2 / 2 ^ 20 == seg)) } }

/-! ## Where tier addresses lie (R292, R293) -/

/-- The die and the stack of an HBM tier address (R292). -/
def hbmDie (a : Nat) : Nat := a / (144 * 2 ^ 30)
def hbmStack (a : Nat) : Nat := a % (144 * 2 ^ 30) / 256 % 4

/-- The Keystone and the package of an LPDDR5X tier address: granules of 256 B rotate over the half's fitted packages, 0 to 7 and 8
to 15, or 0 to 3 and 8 to 11 (R5, R293). -/
def lpddrKs (p : Part) (a : Nat) : Nat := a / (lpddrSize p / 2)
def lpddrPackage (p : Part) (a : Nat) : Nat :=
  lpddrKs p a * 8 + a % (lpddrSize p / 2) / 256 % (if p = .tmv9140 then 8 else 4)

/-! ## Frames and quotas (R293, R295, R301, R386) -/

/-- Frames a tier holds. -/
def tierFrames (p : Part) (tier : Nat) : Nat := (if tier = 0 then hbmSize p else lpddrSize p) / pageBytes

/-- The device's own frames: the top 1 GiB of each LPDDR5X half (R293), as (first, count). -/
def reservedRuns (p : Part) (tier : Nat) : List (Nat × Nat) :=
  if tier = 0 then [] else
  [(tierFrames p 1 / 2 - 512, 512), (tierFrames p 1 - 512, 512)]

/-- The fault records whose page is being read into a frame. Until then the frame is its victim's. -/
def framedRecs (s : State) : List FaultRec :=
  ((s.mig.recs0 ++ s.mig.recs1).map Prod.snd).filter (fun r => r.st == 3)

/-- Frames that migratory pages of a tier occupy, over all functions. -/
def pageFrames (s : State) (tier : Nat) : List (Nat × Nat) :=
  (s.fns.map (fun fp =>
    (fp.2.pages.filter (fun pp => (tget {} fp.2.segs (pp.1 / 2 ^ 20)).tier == tier && pp.2.resident)).map
        (fun pp => (pp.2.frame, 1)))).flatten ++
  ((framedRecs s).filter (fun r => (segOf s r.fn r.seg).tier == tier)).map (fun r => (r.frame, 1))

/-- Runs of frames in use in a tier. -/
def usedRuns (s : State) (tier : Nat) : List (Nat × Nat) :=
  reservedRuns s.part tier ++ pageFrames s tier ++
  (s.mig.allocs.filter (fun a => a.1 == tier)).map (fun a => (a.2.1, a.2.2.1))

/-- `n` frames from `a` are free. -/
def runFree (s : State) (tier a n : Nat) : Bool :=
  decide (a + n ≤ tierFrames s.part tier) &&
  (usedRuns s tier).all (fun r => decide (a + n ≤ r.1) || decide (r.1 + r.2 ≤ a))

/-- The lowest free run of `n` frames (which run is taken is the device's choice, assumption 40). -/
def freeRun (s : State) (tier n : Nat) : Option Nat :=
  let starts := 0 :: (usedRuns s tier).map (fun r => r.1 + r.2)
  (starts.filter (fun a => runFree s tier a n)).foldl (fun m a => match m with
    | none => some a
    | some b => some (min a b)) none

/-- Frames of a tier that a function's quota already covers: its resident segments' and its migratory pages'. -/
def framesUsed (s : State) (fn tier : Nat) : Nat :=
  ((s.mig.allocs.filter (fun a => a.1 == tier && a.2.2.2 == fn)).map (fun a => a.2.2.1)).foldl (· + ·) 0 +
  ((fnOf s fn).pages.filter (fun pp => (segOf s fn (pp.1 / 2 ^ 20)).tier == tier && pp.2.resident)).length +
  ((framedRecs s).filter (fun r => r.fn == fn && (segOf s fn r.seg).tier == tier)).length

/-- The quota granted for a tier. -/
def quotaOf (s : State) (fn tier : Nat) : Nat :=
  match grantOf s fn with
  | some g => if tier = 0 then g.hbmFrames else g.lpddrFrames
  | none => 0

/-! ## Faults on pages (R310) -/

/-- The home Keystone of a function's context (R307): the one whose records its faults take. -/
def homeKs (fn : Nat) : Nat := fn % 2

def recsOf (s : State) (ks : Nat) : Table FaultRec := if ks = 0 then s.mig.recs0 else s.mig.recs1
def setRecs (ks : Nat) (t : Table FaultRec) (s : State) : State :=
  if ks = 0 then { s with mig := { s.mig with recs0 := t } } else { s with mig := { s.mig with recs1 := t } }
def walkersOf (s : State) (ks : Nat) : Table Walker := if ks = 0 then s.mig.walkers0 else s.mig.walkers1
def setWalkers (ks : Nat) (t : Table Walker) (s : State) : State :=
  if ks = 0 then { s with mig := { s.mig with walkers0 := t } } else { s with mig := { s.mig with walkers1 := t } }

/-- The lowest number not in a table. -/
def freeIndex {α : Type} (t : Table α) : Nat :=
  (((rangeFrom 0 (t.length + 1)).filter (fun i => (tfind t i).isNone)).head?).getD t.length

/-- A request of a waiter for a page is already with a walker or a record. -/
def asked (s : State) (fn seg p : Nat) (w : Waiter) : Bool :=
  (s.mig.walkers0 ++ s.mig.walkers1).any (fun x => x.2.fn == fn && x.2.seg == seg && x.2.page == p && x.2.waiter == w) ||
  (s.mig.recs0 ++ s.mig.recs1).any (fun r => r.2.fn == fn && r.2.seg == seg && r.2.page == p && r.2.waiters.any (fun x => x.1 == w))

/-- A request for pages that are not resident goes to the walkers of the Keystone `ks` on whose port it arrives; numbers from 16 on
are requests that wait for one of the 16 (R304). -/
def askPages (ks source fn seg va : Nat) (pages : List Nat) (w : Waiter) (s : State) : State :=
  foldS (fun p t =>
    if asked t fn seg p w then t else
    let t := bump 0x9070 1 1 t
    setWalkers ks (tset (walkersOf t ks) (freeIndex (walkersOf t ks))
      { st := 2, source := source, fn := fn, seg := seg, va := va, page := p, waiter := w, since := t.now }) t) pages s

/-- A waiter waits no longer: its requests go, and the pages held for it (R310) are let go. -/
def forgetWaiter (w : Waiter) (s : State) : State :=
  let mine (r : FaultRec) : Bool := r.waiters.any (fun x => x.1 == w)
  let held := ((s.mig.recs0 ++ s.mig.recs1).map Prod.snd).filter (fun r => r.st == 4 && mine r)
  let s := foldS (fun r t => modPage r.fn r.seg r.page (fun x => { x with held := x.held - 1 }) t) held s
  let recs (t : Table FaultRec) : Table FaultRec :=
    (t.map (fun p => (p.1, { p.2 with waiters := p.2.waiters.filter (fun x => x.1 != w) }))).filter
      (fun p => p.2.st != 4 || !p.2.waiters.isEmpty)
  let walks (t : Table Walker) : Table Walker := t.filter (fun p => p.2.waiter != w)
  { s with mig := { s.mig with recs0 := recs s.mig.recs0, recs1 := recs s.mig.recs1, walkers0 := walks s.mig.walkers0,
                               walkers1 := walks s.mig.walkers1 } }

end Sys2Proof.Machine
end

