-- ==== Sys2Proof/Machine/Signals.lean ====
section
/-! DEFINITION. Completion counters and stamps, core semaphores, halting a core, signals that arrive
(R43, R204 to R215, R262, R338), and the events of stream bindings (R326). -/

namespace Sys2Proof.Machine

open Sys2Proof

/-! ## Cut rules as stored at enable (R331) -/

def cutRuleOf (s : State) (n : Nat) : CutRule := tget {} s.cut.rules n
def modCut (n : Nat) (g : CutRule → CutRule) (s : State) : State :=
  { s with cut := { s.cut with rules := tset s.cut.rules n (g (cutRuleOf s n)) } }

/-- The field of `n` bytes at `off` of a descriptor. -/
def df (d : List Byte) (off n : Nat) : Nat := leNat ((d.drop off).take n)

def cutFn (d : List Byte) : Nat := df d 2 2
def cutCore (d : List Byte) : Nat := df d 8 2
def cutSem (d : List Byte) : Nat := df d 10 1
def cutOutCore (d : List Byte) : Nat := df d 20 2
def cutCounter (d : List Byte) : Nat := df d 22 2

def isPending (r : CutReq) : Bool :=
  match r.st with
  | .pending _ _ => true
  | _ => false

/-- A rule has a request cut, signalled and not yet answered. -/
def hasPending (r : CutRule) : Bool := r.reqs.any isPending

/-- `n` advances of a counter of a function: each has the stamp of every enabled rule that names the counter read the
oldest pending request's area, or is ignored and counted when none is pending (R338). -/
def stampAdvance (fn counter n : Nat) (s : State) : State :=
  foldS (fun i t =>
    let r := cutRuleOf t i
    if r.enable && cutFn r.desc == fn && cutCounter r.desc == counter then
      if hasPending r || decide (0 < r.reads) then modCut i (fun x => { x with reads := x.reads + n }) t
      else bump 0x9044 9 n t
    else t) (s.cut.rules.map Prod.fst) s

/-- Advance a completion counter (R43). -/
def counterAdd (fn counter n : Nat) (s : State) : State :=
  let s := modFn fn (fun f => { f with counters := tset f.counters counter (tget 0 f.counters counter + BitVec.ofNat 48 n) }) s
  stampAdvance fn counter n s

/-! ## Semaphores (R204 to R206) -/

def semOf (s : State) (core sem : Nat) : Nat := tget 0 (coreOf s core).sems sem
def setSem (core sem v : Nat) (s : State) : State := modCore core (fun c => { c with sems := tset c.sems sem v }) s

/-- The LAUNCH a core runs. -/
def launchOf (s : State) (core : Nat) : Option Launch :=
  match (coreOf s core).launch with
  | some id => (s.compute.launches.filter (fun l => l.id == id)).head?
  | none => none

def modLaunch (id : Nat) (g : Launch → Launch) (s : State) : State :=
  { s with compute := { s.compute with launches := modFirst (fun l => l.id == id) g s.compute.launches } }

/-- The `qp` field of a semaphore event (R213): the send queue of the LAUNCH; 0 when the core runs none, and the
virtual device's number, 0, on the PF. -/
def semEventQp (s : State) (core : Nat) : Nat :=
  match launchOf s core with
  | some l => if l.fn = 0 then 0 else l.q.index
  | none => 0

/-- The function that a core's events go to: its holder, else the PF. -/
def coreEventFn (s : State) (core : Nat) : Nat := (coreFn s core).getD 0

/-! ## Dies and clusters asleep (R20, R21) -/

/-- The core domain of a core's die is off. -/
def coreDark (s : State) (core : Nat) : Bool := (dieOf s (coreDie core)).coreOff

/-- Ask for a die's wake (R21). -/
def askWake (die : Nat) (s : State) : State := modDie die (fun d => { d with wakePending := true }) s

/-- The wake of a unit starts (R438). -/
def askUnit (u : PowerUnit) (s : State) : State :=
  if s.power.waking.contains u then s else { s with power := { s.power with waking := s.power.waking ++ [u] } }

/-- Everything of a core that is off starts its wake: its die, its cluster, its clock. -/
def wakeCore (core : Nat) (s : State) : State :=
  let s := if coreDark s core then askWake (coreDie core) s else s
  let s := if s.power.clustersOff.contains (coreCluster core) then askUnit (.cluster (coreCluster core)) s else s
  if (coreOf s core).clockOff then askUnit (.coreClock core) s else s

/-- Something that could reach a core has ended: the deadlock window counts anew (R215). -/
def touchCore (core : Nat) (s : State) : State := modCore core (fun c => { c with busyAt := s.now }) s

/-- Increment a semaphore, which starts its core's wake (R438); past 65,535 it saturates, is counted and raises SEMAPHORE_IMBALANCE detail 1 (R206). -/
def semAdd (core sem n : Nat) (s : State) : State :=
  let s := wakeCore core (touchCore core s)
  if semOf s core sem + n ≤ 65535 then setSem core sem (semOf s core sem + n) s
  else
    let s := bump 0x9060 2 1 (setSem core sem 65535 s)
    raiseEvent (coreEventFn s core) 0x22 1 (ownId s) (semEventQp s core) (core + sem * 65536) 0 s

/-! ## Halting a core (R207, R262) -/

/-- Record the first fault of a LAUNCH: the one reported (R262). -/
def launchFault (id status : Nat) (result : W64) (peer : W32) (s : State) : State :=
  match (s.compute.launches.filter (fun l => l.id == id)).head? with
  | some l =>
    if l.fault.isSome then s
    else bump 0x9061 4 1 (modLaunch id (fun l => { l with fault := some (status, result, peer) }) s)
  | none => s

/-- The units that R207 step 3 lets run to their end: the mover and the doorway. -/
def keptRunning (r : Running) : Bool := decide (r.unit = 9 ∧ !r.waiting) || decide (r.unit = 10)

/-- The core halts at once and its LAUNCH's other cores stop issuing commands (R207 steps 1 and 2). -/
def haltCore (core cause status : Nat) (result : W64) (s : State) : State :=
  let s := modCore core (fun c => { c with
    st := .halted, cause := cause, running := c.running.filter keptRunning, cmdq := [], stalled := none }) s
  match (coreOf s core).launch with
  | some id => launchFault id status result 0 s
  | none => s

/-- A LAUNCH ends with a status from outside its cores, its entry being reported on its own (R50). One whose cores have not
started lets them go. -/
def endLaunch (id status : Nat) (s : State) : State :=
  let mine (t : State) : List Nat := (t.compute.cores.filter (fun p => p.2.launch == some id)).map Prod.fst
  match (s.compute.launches.filter (fun l => l.id == id)).head? with
  | none => s
  | some l =>
    if l.loading then
      foldS (fun c t => modCore c (fun x => { x with st := .idle, launch := none }) t) (mine s)
        { s with compute := { s.compute with launches := s.compute.launches.filter (fun x => x.id != id) } }
    else
      foldS (fun c t => modCore c (fun x => { x with
          st := .halted, running := x.running.filter keptRunning, cmdq := [], stalled := none }) t) (mine s)
        (modLaunch id (fun l => { l with fault := some (l.fault.getD (status, 0, 0)), gone := true }) s)

/-! ## Signals that arrive (R93, R209) -/

/-- The checks of R209 on a descriptor at the target: the semaphore's core is granted to the destination QP's virtual
device; a counter always belongs to it. -/
def sigAllowed (s : State) (fn : Nat) (d : W64) : Bool :=
  if sigKind d = 0 then decide (sigCore d < coresFitted s.part) && (coreFn s (sigCore d) == some fn)
  else sigKind d == 1

/-- Apply a signal to the virtual device. -/
def applySignal (fn : Nat) (d : W64) (s : State) : State :=
  if sigKind d = 0 then semAdd (sigCore d) (sigIndex d) (sigInc d) s
  else counterAdd fn (sigIndex d) (sigInc d) s

/-- The cores that a message with an open tracker is for: the doorway it names and the semaphore of its signal (R215). -/
def trackerCores (t : Tracker) : List Nat :=
  if t.st ≠ .open then [] else
  (if 0xFFE00 ≤ t.dstQp then [t.dstQp - 0xFFE00] else []) ++
  (match t.sig with
   | some d => if sigKind d = 0 then [sigCore d] else []
   | none => [])

/-- The cores of messages that end. -/
def touchTrackers (ts : List Tracker) (s : State) : State :=
  foldS (fun t u => foldS touchCore (trackerCores t) u) ts s

/-! ## Stream bindings (R321 to R327) -/

def bindingOf (s : State) (fn b : Nat) : Binding := tget {} (fnOf s fn).bindings b
def modBinding (fn b : Nat) (g : Binding → Binding) (s : State) : State :=
  modFn fn (fun f => { f with bindings := tset f.bindings b (g (tget {} f.bindings b)) }) s

/-- The binding that watches a message whose first admitted packet carries a key: enabled, holding that key, and the
key not gone stale (R325, R323). -/
def watcherOf (s : State) (fn : Nat) (key : W32) : Option (Nat × Nat) :=
  if key = 0 then none else
  (((fnOf s fn).bindings.filter (fun p => p.2.enable && p.2.key == key && !p.2.keyStale)).head?).map (fun p => (fn, p.1))

/-- A stream event of a watched tracker (R326). A disabled binding raises none (R323). -/
def streamEvent (detail : Nat) (t : Tracker) (s : State) : State :=
  match t.watch with
  | some (fn, b) =>
    if (bindingOf s fn b).enable then
      let s := bump 0x9062 (detail + 1) 1 s
      raiseEvent fn 0x20 detail t.peer t.srcQp (b + (min t.written 0xFFFF) * 65536) (t.msgId.toNat + t.pktCount * 2 ^ 32) s
    else s
  | none => s

/-- Every enabled binding that holds a key becomes `key_stale` when the key stops being current (R323). -/
def staleBindings (key : W32) (s : State) : State :=
  foldS (fun f t =>
    modFn f (fun x => { x with bindings := x.bindings.map (fun p =>
      if p.2.enable && p.2.key == key then (p.1, { p.2 with keyStale := true }) else p) }) t) (s.fns.map Prod.fst) s

end Sys2Proof.Machine
end

