-- ==== Sys2Proof/Machine/Banks.lean ====
section
/-! DEFINITION. Scratchpad banks and their power states (R249, R263 to R266, R78, R336). -/

namespace Sys2Proof.Machine

open Sys2Proof

def bankBytes : Nat := 0x40000

/-- The banks of a scratchpad that a range of offsets touches. -/
def banksIn (off len : Nat) : List Nat :=
  if len = 0 then [] else rangeFrom (off / bankBytes) ((off + len - 1) / bankBytes + 1 - off / bankBytes)

/-- The two bits of a bank in a word of bank states. -/
def bankBits (v : W32) (b : Nat) : Nat := fieldOf v.toNat (2 * b) 2
def setBankBits (v : W32) (b x : Nat) : W32 :=
  BitVec.ofNat 32 (v.toNat - bankBits v b * 4 ^ b + x * 4 ^ b)

/-- The state a bank is in: 0 on, 1 retention, 2 off. -/
def bankState (s : State) (core b : Nat) : Nat := bankBits (coreOf s core).bankSt b

/-- Every bank that a range of a scratchpad touches is on. -/
def rangeOn (s : State) (core off len : Nat) : Bool := (banksIn off len).all (fun b => bankState s core b == 0)

/-- An access to a bank that is not on starts its wake, and that of its core; it holds until the bank is on (R266, R438). -/
def wakeBank (core b : Nat) (s : State) : State :=
  if bankState s core b = 0 then s else
  wakeCore core (modCore core (fun c => { c with waking := if c.waking.contains b then c.waking else c.waking ++ [b] }) s)

def wakeRange (core off len : Nat) (s : State) : State := foldS (wakeBank core) (banksIn off len) s

/-- A `valid` or `revoking` key entry covers a bank (R78). -/
def bankKeyed (s : State) (core b : Nat) : Bool :=
  let lo := core * 2 ^ 22 + b * bankBytes
  s.keys.table.any (fun p => (p.2.valid || p.2.revoking) && p.2.tier == 2 && decide (p.2.base < lo + bankBytes) &&
    decide (lo < p.2.base + p.2.length * 256))

/-- The slots and answer areas of a rule's copy: core, first offset, bytes (R331). -/
def cutAreas (d : List Byte) : List (Nat × Nat × Nat) :=
  [(cutCore d, df d 12 4, df d 11 1 * df d 16 4),
   (cutOutCore d, df d 24 4, (df d 11 1 - 1) * df d 28 2 + df d 30 2 + 4)]

/-- An enabled cut rule holds a bank on (R336). -/
def bankCut (s : State) (core b : Nat) : Bool :=
  s.cut.rules.any (fun p => p.2.enable &&
    (cutAreas p.2.desc).any (fun a => a.1 == core && (banksIn a.2.1 a.2.2).contains b))

/-- A write of one bank's field: 3 leaves it, a cut binding keeps the bank on, a key keeps it from off. A field of 0 brings
the bank on. -/
def askBank (core b v : Nat) (s : State) : State :=
  if v = 3 ∨ (v = 2 ∧ bankKeyed s core b = true) ∨ (v ≠ 0 ∧ bankCut s core b = true) then s
  else
    let s := modCore core (fun c => { c with bankReq := setBankBits c.bankReq b v }) s
    if v = 0 then wakeBank core b s else s

/-- A bank is on again: cleared when it was off. Its field reads as on. -/
def bankOn (core b : Nat) (s : State) : State :=
  let s := if bankState s core b = 2 then memZero .scratch (scratchBase core + b * bankBytes) bankBytes s else s
  modCore core (fun c => { c with
    bankReq := if bankBits c.bankReq b = bankBits c.bankSt b then setBankBits c.bankReq b 0 else c.bankReq
    bankSt := setBankBits c.bankSt b 0
    waking := c.waking.filter (fun x => x != b) }) s

/-- An address of the scratchpad memory as core and offset. -/
def padCore (a : Nat) : Nat := a / 2 ^ 22
def padOff (a : Nat) : Nat := a % 2 ^ 22

/-- A delivery to an address of the scratchpad memory can be written now (R266). -/
def padReady (s : State) (a len : Nat) : Bool := rangeOn s (padCore a) (padOff a) len
def wakePad (a len : Nat) (s : State) : State := wakeRange (padCore a) (padOff a) len s

end Sys2Proof.Machine
end

