-- ==== Sys2Proof/Machine/Wire.lean ====
section
/-! DEFINITION. Enpin on the wire: sizes, the bytes of a packet in each form, and reading them back (R82 to R97,
R110, R111). -/

namespace Sys2Proof.Machine

open Sys2Proof

/-! ## Types and sizes -/

def ptypeCode (t : PType) : Nat :=
  match t with
  | .data => 1 | .readRequest => 2 | .readResponse => 3 | .atomic => 4 | .atomicResponse => 5 | .abort => 6
  | .ack => 8 | .nack => 9 | .rnr => 10 | .collective => 12 | .tie => 13

def ptypeOf (n : Nat) : Option PType :=
  match n with
  | 1 => some .data | 2 => some .readRequest | 3 => some .readResponse | 4 => some .atomic | 5 => some .atomicResponse
  | 6 => some .abort | 8 => some .ack | 9 => some .nack | 10 => some .rnr | 12 => some .collective | 13 => some .tie
  | _ => none

/-- A packet type that consumes a sequence number (R83); a collective packet does when it travels the ring. -/
def isSequenced (p : Packet) : Bool :=
  match p.ptype with
  | .ack => false
  | .nack => false
  | .rnr => false
  | .tie => false
  | .collective => (match p.ext with
    | .coll _ _ _ _ _ ring _ _ _ _ => ring
    | _ => false)
  | _ => true

/-- Bytes of the type extension (R87 to R97). -/
def extLen (t : PType) (x : PExt) : Nat :=
  match x with
  | .data _ _ _ _ _ _ => (match t with
    | .readRequest => 24
    | .atomic => 32
    | _ => 16)
  | .multicast _ _ _ _ _ => 24
  | .response _ _ => 16
  | .abort _ _ => 8
  | .ack _ _ => 16
  | .nack _ _ _ _ => 16
  | .rnr _ _ _ => 8
  | .coll _ _ _ _ _ _ _ _ _ _ => 24
  | .tie _ _ _ _ _ _ _ _ => 16

/-- Bytes from the first byte of the Enpin header to the end of the packet (R85, R86, R92). -/
def enpinLen (p : Packet) : Nat :=
  (if p.ptype = .tie then 0 else if p.bondForm then 24 else 32) + (if p.secure then 32 else 0) +
  (match p.secure, p.cipher with
   | true, some c => c.length
   | _, _ => extLen p.ptype p.ext + (if p.sig.isSome then 8 else 0) + p.payload.length)

/-- A bond frame's length, header and CRC included (R175). -/
def bondLen (p : Packet) : Nat := 16 + enpinLen p + 4

/-! ## Bytes -/

/-- The extension's bytes, in network byte order. -/
def extBytes (t : PType) (x : PExt) : List Byte :=
  match x with
  | .data key off qp op a b =>
    beBytes 4 key.toNat ++ beBytes 8 off.toNat ++ beBytes 4 (qp % 2 ^ 20 + op % 256 * 2 ^ 20) ++
    (match t with
     | .readRequest => beBytes 4 a.toNat ++ beBytes 4 0
     | .atomic => beBytes 8 a.toNat ++ beBytes 8 b.toNat
     | _ => [])
  | .multicast key off qp axis bm =>
    beBytes 4 key.toNat ++ beBytes 8 off.toNat ++ beBytes 4 (qp % 2 ^ 20 + 7 * 2 ^ 20) ++
    beBytes 1 axis ++ beBytes 3 0 ++ beBytes 4 bm.toNat
  | .response v req => beBytes 8 v.toNat ++ beBytes 4 req.toNat ++ beBytes 4 0
  | .abort st last => beBytes 1 st ++ beBytes 3 0 ++ beBytes 4 last.toNat
  | .ack base bm => beBytes 4 base.toNat ++ beBytes 4 0 ++ beBytes 8 bm.toNat
  | .nack st ep sq off => beBytes 1 st ++ beBytes 1 ep ++ beBytes 2 0 ++ beBytes 4 sq.toNat ++ beBytes 8 off.toNat
  | .rnr cause hint sq => beBytes 1 cause ++ beBytes 1 0 ++ beBytes 2 hint ++ beBytes 4 sq.toNat
  | .coll g i op red dt ring down n off mem =>
    beBytes 4 g.toNat ++ beBytes 4 i.toNat ++ beBytes 1 op ++ beBytes 1 red ++ beBytes 1 dt ++
    beBytes 1 (b2n ring + 2 * b2n down) ++ beBytes 4 n ++ beBytes 4 off ++ beBytes 2 mem ++ beBytes 2 0
  | .tie result mem g i op red dt n =>
    beBytes 1 0x1D ++ beBytes 1 (b2n result) ++ beBytes 2 mem ++ beBytes 4 g.toNat ++ beBytes 4 i.toNat ++
    beBytes 1 (op % 8 + red % 4 * 8) ++ beBytes 1 dt ++ beBytes 2 n

/-- The flags byte (R84). -/
def flagsByte (p : Packet) : Nat :=
  b2n p.ackReq + 2 * b2n p.sig.isSome + 4 * b2n p.secure + 8 * b2n p.chained + 16 * b2n p.solicit + 32 * b2n p.retx

/-- Bytes 0 to 3 of the base header. -/
def headA (p : Packet) : List Byte :=
  beBytes 1 (0x10 + ptypeCode p.ptype) ++ beBytes 1 (flagsByte p) ++ beBytes 1 p.epoch ++ beBytes 1 p.ecnEcho

/-- Bytes 12 to 31. -/
def headB (p : Packet) : List Byte :=
  beBytes 4 p.seq.toNat ++ beBytes 4 p.ackSeq.toNat ++ beBytes 4 p.msgId.toNat ++ beBytes 2 p.pktIndex ++
  beBytes 2 p.pktCount ++ beBytes 4 (p.dstQp % 2 ^ 20 + p.tc % 8 * 2 ^ 20)

/-- The base header, full (R82) or compact (R86). -/
def headBytes (p : Packet) : List Byte :=
  if p.bondForm then headA p ++ headB p
  else headA p ++ beBytes 4 p.src.toNat ++ beBytes 4 p.dst.toNat ++ headB p

/-- The secure extension (R110). -/
def secBytes (p : Packet) : List Byte := beBytes 4 p.sa ++ beBytes 4 p.nonceSalt.toNat ++ beBytes 8 p.nonceCtr.toNat

/-- Everything from the type extension to the end of the payload (R85). -/
def tailBytes (p : Packet) : List Byte :=
  extBytes p.ptype p.ext ++ (match p.sig with
    | some d => beBytes 8 d.toNat
    | none => []) ++ p.payload

/-- The packet's bytes (R85); a secure one carries its ciphertext (R111). -/
def enpinBytes (p : Packet) : List Byte :=
  if p.ptype = .tie then extBytes p.ptype p.ext ++ p.payload
  else headBytes p ++ (if p.secure then secBytes p ++ p.cipher.getD (tailBytes p) ++ beBytes 16 p.icv.toNat else tailBytes p)

/-- The nonce of a secure packet (R110). -/
def nonceOf (p : Packet) : BitVec 96 := BitVec.ofNat 96 (p.nonceSalt.toNat * 2 ^ 64 + p.nonceCtr.toNat)

/-- AES-256-GCM turns text into ciphertext, and back, by the keystream (R111). -/
def gcmText (key : BitVec 256) (p : Packet) (b : List Byte) : List Byte :=
  (b.zip (rangeFrom 0 b.length)).map (fun x => x.1 ^^^ Config.gcmStream key (nonceOf p) x.2)

/-- What the ICV of a secure packet covers: the full base header, the secure extension and the text (R111). -/
def gcmCover (p : Packet) (text : List Byte) : List Byte :=
  headA p ++ beBytes 4 p.src.toNat ++ beBytes 4 p.dst.toNat ++ headB p ++ secBytes p ++ text

/-- The ICV under a key. -/
def icvOf (key : BitVec 256) (p : Packet) (text : List Byte) : W128 := Config.gcmTag key (nonceOf p) (gcmCover p text)

/-! ## Reading bytes -/

def w32At (b : List Byte) (off : Nat) : W32 := BitVec.ofNat 32 (beNat ((b.drop off).take 4))
def w64At (b : List Byte) (off : Nat) : W64 := BitVec.ofNat 64 (beNat ((b.drop off).take 8))
def nAt (b : List Byte) (off n : Nat) : Nat := beNat ((b.drop off).take n)

/-- The extension of a type from its bytes, with its size. DATA with ring opcode 0x07 carries the multicast
extension (R88). -/
def parseExt (t : PType) (b : List Byte) : PExt × Nat :=
  let qp := nAt b 12 4 % 2 ^ 20
  let op := nAt b 12 4 / 2 ^ 20 % 256
  match t with
  | .data =>
    if op = 7 then (.multicast (w32At b 0) (w64At b 4) qp (nAt b 16 1) (w32At b 20), 24)
    else (.data (w32At b 0) (w64At b 4) qp op 0 0, 16)
  | .readRequest => (.data (w32At b 0) (w64At b 4) qp op (BitVec.ofNat 64 (nAt b 16 4)) 0, 24)
  | .atomic => (.data (w32At b 0) (w64At b 4) qp op (w64At b 16) (w64At b 24), 32)
  | .readResponse => (.response (w64At b 0) (w32At b 8), 16)
  | .atomicResponse => (.response (w64At b 0) (w32At b 8), 16)
  | .abort => (.abort (nAt b 0 1) (w32At b 4), 8)
  | .ack => (.ack (w32At b 0) (w64At b 8), 16)
  | .nack => (.nack (nAt b 0 1) (nAt b 1 1) (w32At b 4) (w64At b 8), 16)
  | .rnr => (.rnr (nAt b 0 1) (nAt b 2 2) (w32At b 4), 8)
  | .collective =>
    (.coll (w32At b 0) (w32At b 4) (nAt b 8 1) (nAt b 9 1) (nAt b 10 1) (bitOf (nAt b 11 1) 0) (bitOf (nAt b 11 1) 1)
      (nAt b 12 4) (nAt b 16 4) (nAt b 20 2), 24)
  | .tie =>
    (.tie (bitOf (nAt b 1 1) 0) (nAt b 2 2) (w32At b 4) (w32At b 8) (nAt b 12 1 % 8) (nAt b 12 1 / 8 % 4) (nAt b 13 1)
      (nAt b 14 2), 16)

/-- The text of a packet, from the type extension to the end of the payload, read into the packet whose header stands; a signal
is there where the header's flag says so. Multicast data comes in the bond form only (R88). -/
def parseText (bond : Bool) (p : Packet) (b : List Byte) : Except WireErr Packet :=
  let (x, n) := parseExt p.ptype b
  match bond, x with
  | false, .multicast _ _ _ _ _ => .error .badType
  | _, _ =>
    let after := n + (if p.sig.isSome then 8 else 0)
    if b.length < after ∨ 8192 < b.length - after then .error .badLength
    else .ok { p with ext := x, sig := if p.sig.isSome then some (w64At b n) else none, payload := b.drop after, cipher := none }

/-- Read a packet from its full header on (R82, R85). Reserved bits are ignored (R12). A secure packet's text stays ciphertext until
its receiver has authenticated it (R112). -/
def parseHeader (bond : Bool) (b : List Byte) : Except WireErr Packet :=
  if b.length < 32 then .error .badLength else
  if nAt b 0 1 / 16 ≠ 1 then .error .badType else
  match ptypeOf (nAt b 0 1 % 16) with
  | none => .error .badType
  | some .tie => .error .badType
  | some t =>
    let fl := nAt b 1 1
    let p : Packet :=
      { ptype := t, bondForm := false, ackReq := bitOf fl 0, secure := bitOf fl 2, chained := bitOf fl 3,
        solicit := bitOf fl 4, retx := bitOf fl 5, epoch := nAt b 2 1, ecnEcho := nAt b 3 1, src := w32At b 4,
        dst := w32At b 8, seq := w32At b 12, ackSeq := w32At b 16, msgId := w32At b 20, pktIndex := nAt b 24 2,
        pktCount := nAt b 26 2, dstQp := nAt b 28 4 % 2 ^ 20, tc := nAt b 28 4 / 2 ^ 20 % 8, ext := (parseExt t []).1,
        sig := if bitOf fl 1 then some 0 else none }
    if bitOf fl 2 then
      let body := b.drop 48
      if body.length < 16 then .error .badLength
      else .ok { p with sa := nAt b 32 4 % 65536, nonceSalt := w32At b 36, nonceCtr := w64At b 40,
                        icv := BitVec.ofNat 128 (beNat (body.drop (body.length - 16))), cipher := some (body.take (body.length - 16)) }
    else parseText bond p (b.drop 32)

/-- Read a packet of the Ethernet form from its bytes. -/
def parseEnpin (b : List Byte) : Except WireErr Packet := parseHeader false b

/-! ## Checksums of IP and UDP (R98, R99, R101) -/

/-- The ones'-complement sum of 16-bit words. -/
def onesSum : List Byte → Nat
  | [] => 0
  | [a] => a.toNat * 256
  | a :: b :: t => (fun v => v / 65536 + v % 65536) (a.toNat * 256 + b.toNat + onesSum t)

/-- The Internet checksum of bytes. -/
def inetSum (b : List Byte) : Nat := 0xFFFF - onesSum b % 65536

/-! ## Addresses (R100) -/

/-- A wall's entry of the address table: the lowest subindex that names it. -/
def wallEntry (s : State) (wall : Nat) : Option Bytes :=
  ((rangeFrom 1 255).map (fun i => ledBytes s 0x4141 i)).filter (fun b =>
    decide (b.length = 24) && (leNat (b.take 2) == wall) && (nAt b 2 1 == 4 || nAt b 2 1 == 6)) |>.head?

/-- The ports per module of a wall, as its entry lists them. -/
def wallPorts (b : Bytes) : List Nat := if nAt b 3 1 = 4 then [0, 1, 2, 3] else [0, 2]

/-- The address of port `p` of a module, derived from its wall's entry: 4 or 16 bytes. -/
def wallAddr (b : Bytes) (m : W32) (p : Nat) : List Byte :=
  if nAt b 2 1 = 4 then beBytes 4 (nAt b 20 4 + (idY m * 32 + idX m) * 4 + p)
  else (b.drop 8).take 8 ++ beBytes 8 (m.toNat * 256 + p)

/-- Whether the destination lies in another wall, so that its context has the Ethernet form (R79). -/
def ethFormOf (s : State) (dst : W32) : Bool := idWall dst != s.wall.wallNumber

end Sys2Proof.Machine
end

