-- ==== Sys2Proof/Machine/BondWire.lean ====
section
/-! DEFINITION. The bond link's bytes: the flit control field (R174), the frame with its header and CRC (R175, R176), the idle
flit (R177), the announcement (R184), and reading them back. Fields are in network byte order (R11). -/

namespace Sys2Proof.Machine

open Sys2Proof

/-! ## Flits (R173, R174) -/

/-- Flits a frame of some bytes takes (R173). -/
def flitsOf (bytes : Nat) : Nat := cdiv bytes 320

/-- The control field of a flit. -/
def flitCtl (vc : Nat) (sof : Bool) (last crClass crCount : Nat) : BitVec 20 :=
  BitVec.ofNat 20 (vc % 8 + b2n sof * 8 + last % 512 * 16 + crClass % 16 * 2 ^ 13 + crCount % 8 * 2 ^ 17)

/-- Its fields. -/
def flitVc (c : BitVec 20) : Nat := fieldOf c.toNat 0 3
def flitSof (c : BitVec 20) : Bool := bitOf c.toNat 3
def flitEnd (c : BitVec 20) : Nat := fieldOf c.toNat 4 9
def flitCrClass (c : BitVec 20) : Nat := fieldOf c.toNat 13 4
def flitCrCount (c : BitVec 20) : Nat := fieldOf c.toNat 17 3

/-- The buffers that the next flit returns, of those owed: up to 7 of the lowest class that is owed any, class 15 when none is
(DESIGN CHOICE, assumption 77). -/
def oweNext (owed : List Nat) : Nat × Nat :=
  match ((rangeFrom 0 15).filter (fun c => decide (0 < (owed[c]?).getD 0))).head? with
  | some c => (c, min 7 ((owed[c]?).getD 0))
  | none => (15, 0)

/-- What stays owed after it. -/
def oweLeft (owed : List Nat) : List Nat :=
  match oweNext owed with
  | (15, _) => owed
  | (c, n) => owed.set c ((owed[c]?).getD 0 - n)

/-- The control fields of the `n` flits left of a frame whose last flit holds `last` bytes, and what is owed after them. -/
def frameCtl (vc last : Nat) : Bool → Nat → List Nat → List (BitVec 20) × List Nat
  | _, 0, owed => ([], owed)
  | sof, n + 1, owed =>
    let cr := oweNext owed
    let rest := frameCtl vc last false n (oweLeft owed)
    (flitCtl vc sof (if n = 0 then last else 0) cr.1 cr.2 :: rest.1, rest.2)

/-- Bytes in the last flit of a frame. -/
def lastBytes (len : Nat) : Nat := len - 320 * (flitsOf len - 1)

/-- The flits of a frame agree with its length, its VC and its start (R176). -/
def ctlAgrees (vc len : Nat) (ctl : List (BitVec 20)) : Bool :=
  ctl.length == flitsOf len && ctl.all (fun c => flitVc c == vc) &&
  (rangeFrom 0 ctl.length).all (fun i =>
    flitSof ((ctl[i]?).getD 0) == (i == 0) && flitEnd ((ctl[i]?).getD 0) == (if i + 1 = ctl.length then lastBytes len else 0))

/-! ## The announcement's content (R184) -/

def announceBytes (a : Announce) : List Byte :=
  beBytes 4 a.origin.toNat ++ beBytes 2 a.nonce.toNat ++ beBytes 2 a.aseq.toNat ++ [a.linksDown] ++ beBytes 1 (b2n a.fenced) ++
  beBytes 2 0

def parseAnnounce (b : List Byte) : Announce :=
  { origin := w32At b 0, nonce := BitVec.ofNat 16 (nAt b 4 2), aseq := BitVec.ofNat 16 (nAt b 6 2),
    linksDown := BitVec.ofNat 8 (nAt b 8 1), fenced := bitOf (nAt b 9 1) 0 }

/-! ## Circuit control (R193, R195): the content is the device's own, and its layout the model's (DESIGN CHOICE, assumption
77) -/

def phaseCode (p : CircuitPhase) : Nat × Nat :=
  match p with
  | .lay => (0, 0) | .laid => (1, 0) | .refused c => (2, c) | .lift => (3, 0) | .lifted => (4, 0)

def circuitBytes (c : CircuitCtl) : List Byte :=
  beBytes 4 c.handle.toNat ++ beBytes 4 c.source.toNat ++ beBytes 4 c.dest.toNat ++ beBytes 4 c.refusedAt.toNat ++
  beBytes 1 c.slots ++ beBytes 1 (phaseCode c.phase).1 ++ beBytes 1 (phaseCode c.phase).2 ++ beBytes 1 c.queue ++
  beBytes 1 c.dx ++ beBytes 1 c.dy ++ beBytes 10 0

def parseCircuit (b : List Byte) : CircuitCtl :=
  { handle := w32At b 0, source := w32At b 4, dest := w32At b 8, refusedAt := w32At b 12, slots := nAt b 16 1,
    phase := (match nAt b 17 1 with
      | 0 => .lay | 1 => .laid | 2 => .refused (nAt b 18 1) | 3 => .lift | _ => .lifted),
    queue := nAt b 19 1, dx := nAt b 20 1, dy := nAt b 21 1 }

/-! ## Frames (R175) -/

/-- The kind of a frame's content. -/
def kindOf (c : BondContent) : Nat :=
  match c with
  | .packet p => if p.ptype = .tie then 1 else 0
  | .announce _ => 2
  | .circuit _ => 3
  | .malformed _ _ => 0
  | .reservedKind => 15

/-- The bytes between header and CRC. -/
def contentBytes (c : BondContent) : List Byte :=
  match c with
  | .packet p => enpinBytes { p with bondForm := true }
  | .announce a => announceBytes a
  | .circuit c => circuitBytes c
  | .malformed _ raw => raw
  | .reservedKind => []

/-- The length of a bond frame in bytes. -/
def frameBytes (f : BondFrame) : Nat :=
  match f.content with
  | .packet p => bondLen p
  | .announce _ => 16 + 12 + 4
  | .circuit _ => 16 + 32 + 4
  | .malformed _ raw => 16 + raw.length + 4
  | .reservedKind => 20

/-- The bond header. -/
def bondHeader (f : BondFrame) (len : Nat) : List Byte :=
  beBytes 1 (0x10 + kindOf f.content) ++
  beBytes 1 (f.vc % 8 + 8 * b2n f.mark + f.lane % 4 * 16 + 64 * b2n f.multicast) ++
  beBytes 2 len ++ beBytes 4 f.src.toNat ++ beBytes 4 f.dst.toNat ++ beBytes 4 f.aux.toNat

/-- The CRC-32C over a frame's header and content. -/
def frameCrc (b : List Byte) : Nat := crc32c b

/-- The whole frame. -/
def bondBytes (f : BondFrame) : List Byte :=
  let b := bondHeader f (frameBytes f) ++ contentBytes f.content
  b ++ beBytes 4 (frameCrc b)

/-- The frame ended with the bitwise inverse of its CRC (R176). -/
def stompedBytes (f : BondFrame) : List Byte :=
  let b := bondHeader f (frameBytes f) ++ contentBytes f.content
  b ++ beBytes 4 (0xFFFFFFFF - frameCrc b)

/-- Enpin content of a bond frame: the compact header takes its module IDs from the bond header (R86). -/
def parseCompact (src dst : W32) (raw : List Byte) : BondContent :=
  match parseHeader true (raw.take 4 ++ beBytes 4 src.toNat ++ beBytes 4 dst.toNat ++ raw.drop 4) with
  | .ok p => .packet { p with bondForm := true }
  | .error e => .malformed e raw

/-- Tie content (R92). -/
def parseTie (src dst : W32) (raw : List Byte) : BondContent :=
  if raw.length < 16 then .malformed .badLength raw
  else if nAt raw 0 1 ≠ 0x1D then .malformed .badType raw
  else .packet { ptype := .tie, bondForm := true, src := src, dst := dst, ext := (parseExt .tie raw).1, payload := raw.drop 16 }

/-- A frame read from its bytes. Reserved bits are ignored (R12); an unknown version counts as a reserved kind. -/
def parseBond (b : List Byte) : BondFrame :=
  let raw := (b.drop 16).take (b.length - 20)
  let fl := nAt b 1 1
  let src := w32At b 4
  let dst := w32At b 8
  { vc := fl % 8, mark := bitOf fl 3, lane := fl / 16 % 4, multicast := bitOf fl 6, src := src, dst := dst, aux := w32At b 12,
    content := match nAt b 0 1 with
      | 0x10 => parseCompact src dst raw
      | 0x11 => parseTie src dst raw
      | 0x12 => .announce (parseAnnounce raw)
      | 0x13 => .circuit (parseCircuit raw)
      | _ => .reservedKind }

/-- What the receiving link finds out about a frame (R176): its length, its flits, its codewords and its CRC. -/
def frameFate (ctl : List (BitVec 20)) (lost : Nat) (b : List Byte) : FrameFate :=
  let n := b.length
  if lost ≠ 0 ∨ n < 20 ∨ 8320 < n ∨ nAt b 2 2 ≠ n ∨ ctlAgrees (nAt b 1 1 % 8) n ctl = false then .bad
  else
    let crc := frameCrc (b.take (n - 4))
    if nAt b (n - 4) 4 = crc then .good else if nAt b (n - 4) 4 + crc = 0xFFFFFFFF then .stomped else .bad

/-! ## Idle flits (R177) -/

def idleBytes (i : IdleFlit) : List Byte :=
  beBytes 4 i.module.toNat ++ beBytes 1 i.link ++ beBytes 1 (b2n i.origin + 2 * b2n i.posValid + 4 * b2n i.goingDown) ++
  beBytes 1 i.sizeX ++ beBytes 1 i.sizeY ++ ((rangeFrom 0 15).map (fun c => beBytes 2 ((i.freed[c]?).getD 0).toNat)).flatten ++
  List.replicate 282 0

def parseIdle (b : List Byte) : IdleFlit :=
  { module := w32At b 0, link := nAt b 4 1, origin := bitOf (nAt b 5 1) 0, posValid := bitOf (nAt b 5 1) 1,
    goingDown := bitOf (nAt b 5 1) 2, sizeX := nAt b 6 1, sizeY := nAt b 7 1,
    freed := (rangeFrom 0 15).map (fun c => BitVec.ofNat 16 (nAt b (8 + 2 * c) 2)) }

end Sys2Proof.Machine
end

