-- ==== Sys2Proof/Machine/Router.lean ====
section
/-! DEFINITION. The router: links and credits, the wall map, minimal and plumb routes, queueing frames and
announcements (R174 to R191). -/

namespace Sys2Proof.Machine

open Sys2Proof

/-! ## Links and credit classes (R174, R178, R180) -/

def isUp (l : Link) : Bool :=
  match l.st with
  | .up => true
  | _ => false

def linkUp (s : State) (l : Nat) : Bool := isUp (linkOf s l)

/-- Links the router may choose: up links. -/
def upLinks (s : State) : List Nat := (rangeFrom 0 8).filter (linkUp s)

/-- The Keystone of a link (R14: E0, W0, N0 and S0 on K0). -/
def linkKs (l : Nat) : Nat := l % 2

/-- The direction of a link: 0 E, 1 W, 2 N, 3 S. -/
def linkDir (l : Nat) : Nat := l / 2

/-- The credit class of a VC with its lane or VC4 queue (R174). -/
def creditClass (vc sub : Nat) : Nat :=
  match vc with
  | 0 => 0 | 1 => 1 | 2 => 2 | 3 => 3 + sub % 4 | _ => 7 + sub % 8

/-- Buffers of a credit class at an input, in flits (R180). -/
def classBuffers (c : Nat) : Nat :=
  match c with
  | 0 => 8 | 1 => 32 | 2 => 128 | _ => 32

def nthD {α : Type} (d : α) (l : List α) (i : Nat) : α := (l[i]?).getD d
def setNth {α : Type} (l : List α) (i : Nat) (v : α) : List α := l.set i v

/-- Free flit buffers that a transmitter knows of downstream (R178). -/
def creditFree (l : Link) (c : Nat) : Nat :=
  classBuffers c - (nthD 0 l.sent c + 65536 - (nthD 0 l.freed c).toNat) % 65536

/-- The buffers that a flit's control field returns are taken (R174, R178). -/
def takeReturn (c : BitVec 20) (l : Link) : Link :=
  if flitCrClass c < 15 then
    { l with freed := setNth l.freed (flitCrClass c) (nthD 0 l.freed (flitCrClass c) + BitVec.ofNat 16 (flitCrCount c)) }
  else l

/-- Flits of a class sent on a link. -/
def spendCredit (link c n : Nat) (s : State) : State :=
  modLink link (fun l => { l with sent := setNth l.sent c ((nthD 0 l.sent c + n) % 65536) }) s

/-- Buffers freed at an input (R178). -/
def freeBuffers (link c n : Nat) (s : State) : State :=
  modLink link (fun l => { l with ours := setNth l.ours c (nthD 0 l.ours c + BitVec.ofNat 16 n)
                                  owed := setNth l.owed c (nthD 0 l.owed c + n) }) s

/-! ## The wall map (R184) -/

/-- The links a module shows as down, from its announcement; this module's from its links. -/
def linksDownOf (s : State) (m : W32) : Nat :=
  if m = ownId s then ((rangeFrom 0 8).map (fun l => if linkUp s l then 0 else 2 ^ l)).foldl (· + ·) 0
  else match tfind s.wall.anns m.toNat with
    | some h => h.a.linksDown.toNat
    | none => 0

/-- An announcement older than 300 ms is treated as a fence (R184). -/
def staleAnn (s : State) (h : HeldAnnounce) : Bool := decide (300000000 < s.now - h.at_)

/-- The module at a position is fenced, or has no position (R184). -/
def fencedAt (s : State) (x y : Nat) : Bool :=
  let m := mkId s.wall.wallNumber x y
  if m = ownId s then s.wall.fenced
  else match tfind s.wall.anns m.toNat with
    | some h => h.a.fenced || staleAnn s h
    | none => true

def bothDown (down dir : Nat) : Bool := bitOf down (2 * dir) && bitOf down (2 * dir + 1)
def oppositeDir (dir : Nat) : Nat :=
  match dir with
  | 0 => 1 | 1 => 0 | 2 => 3 | _ => 2

/-- The position one hop along a direction (R182). -/
def stepPos (s : State) (dir : Nat) (p : Nat × Nat) : Nat × Nat :=
  let nx := max s.wall.sizeX 1
  let ny := max s.wall.sizeY 1
  match dir with
  | 0 => ((p.1 + 1) % nx, p.2)
  | 1 => ((p.1 + nx - 1) % nx, p.2)
  | 2 => (p.1, (p.2 + ny - 1) % ny)
  | _ => (p.1, (p.2 + 1) % ny)

def idAt (s : State) (p : Nat × Nat) : W32 := mkId s.wall.wallNumber p.1 p.2

/-- A hop is broken when either end's announcement shows both its links down (R184). -/
def hopBroken (s : State) (p : Nat × Nat) (dir : Nat) : Bool :=
  bothDown (linksDownOf s (idAt s p)) dir || bothDown (linksDownOf s (idAt s (stepPos s dir p))) (oppositeDir dir)

/-- A position holds no up link in the wall map (R189): every hop at it is broken. -/
def noUpLink (s : State) (p : Nat × Nat) : Bool := (rangeFrom 0 4).all (hopBroken s p)

/-- Hops from `p` along `dir`, `n` of them, are all unbroken. -/
def legOpen (s : State) (dir : Nat) : Nat → Nat × Nat → Bool
  | 0, _ => true
  | n + 1, p => !(hopBroken s p dir) && legOpen s dir n (stepPos s dir p)

/-! ## Routes (R185 to R188) -/

/-- The distance east (or south) and west (or north) from a to b on a ring of n (R185). -/
def ringUp (a b n : Nat) : Nat := (b + n - a % (max n 1)) % (max n 1)
def ringDown (a b n : Nat) : Nat := (a + n - b % (max n 1)) % (max n 1)

/-- The minimal directions along one axis (R185): x when `alongX`. -/
def minimalDirs (s : State) (alongX : Bool) (here dest : Nat × Nat) : List Nat :=
  let a := if alongX then here.1 else here.2
  let b := if alongX then dest.1 else dest.2
  let n := if alongX then s.wall.sizeX else s.wall.sizeY
  let up := if alongX then 0 else 3
  let down := if alongX then 1 else 2
  if a = b then [] else
  if ringUp a b n < ringDown a b n then [up]
  else if ringDown a b n < ringUp a b n then [down] else [up, down]

/-- The plumb leg along one axis: its direction, going the other way round past a broken hop (R187). -/
def plumbLeg (s : State) (alongX : Bool) (here dest : Nat × Nat) : Option Nat :=
  let a := if alongX then here.1 else here.2
  let b := if alongX then dest.1 else dest.2
  let n := if alongX then s.wall.sizeX else s.wall.sizeY
  let first := if ringUp a b n ≤ ringDown a b n then (if alongX then 0 else 3) else (if alongX then 1 else 2)
  let hops (d : Nat) := if d = 0 ∨ d = 3 then ringUp a b n else ringDown a b n
  if legOpen s first (hops first) here then some first
  else if legOpen s (oppositeDir first) (hops (oppositeDir first)) here then some (oppositeDir first) else none

/-- Both legs of an order are open (R187). -/
def orderOpen (s : State) (yx : Bool) (here dest : Nat × Nat) : Bool :=
  let corner := if yx then (here.1, dest.2) else (dest.1, here.2)
  (here == corner || (plumbLeg s (!yx) here corner).isSome) &&
  (corner == dest || (plumbLeg s yx corner dest).isSome)

/-- The direction of the next plumb hop in an order. -/
def plumbDir (s : State) (yx : Bool) (here dest : Nat × Nat) : Option Nat :=
  let corner := if yx then (here.1, dest.2) else (dest.1, here.2)
  if here ≠ corner then plumbLeg s (!yx) here corner
  else if here ≠ dest then plumbLeg s yx corner dest else none

/-- The link of a plumb hop: by bit 0 of the destination's coordinate, else the other of the pair (R187). -/
def plumbLink (s : State) (dir : Nat) (dest : Nat × Nat) : Option Nat :=
  let c := if dir < 2 then dest.1 else dest.2
  let l := 2 * dir + c % 2
  let o := 2 * dir + (c + 1) % 2
  if linkUp s l then some l else if linkUp s o then some o else none

/-- A hop crosses the dateline of its ring (R188). -/
def crossesDateline (s : State) (dir : Nat) (here : Nat × Nat) : Bool :=
  match dir with
  | 0 => here.1 + 1 == s.wall.sizeX
  | 1 => here.1 == 0
  | 2 => here.2 == 0
  | _ => here.2 + 1 == s.wall.sizeY

/-- The lane of a plumb hop (R188): the order's first lane on entry and after the turn, its second once past the
dateline. -/
def plumbLane (s : State) (yx : Bool) (cur : Nat) (inLink : Option Nat) (dir : Nat) (here : Nat × Nat) : Nat :=
  let first := if yx then 2 else 0
  let kept := match inLink with
    | some l => if (linkDir l < 2) = (dir < 2) then cur else first
    | none => first
  if crossesDateline s dir here then first + 1 else kept

/-- A frame's destination position: R200 routes any `dst_module` on bits [12:8] and [4:0]. -/
def frameDest (m : W32) : Nat × Nat := (m.toNat % 32, m.toNat / 256 % 32)

/-- A frame can end in this wall (R189). -/
def inWall (s : State) (m : W32) : Bool :=
  (idWall m == s.wall.wallNumber || idWall m == 0xFFFF) &&
  decide ((frameDest m).1 < s.wall.sizeX) && decide ((frameDest m).2 < s.wall.sizeY) &&
  (idWall m == 0xFFFF || (decide (idX m < s.wall.sizeX) && decide (idY m < s.wall.sizeY)))

/-- The destination position holds no up link in the wall map (R189). -/
def destDown (s : State) (m : W32) : Bool := noUpLink s (frameDest m)

/-- R186 step 1: the up links in each minimal direction whose next hop is not broken. -/
def candidates (s : State) (here dest : Nat × Nat) : List Nat :=
  let dirs := minimalDirs s true here dest ++ minimalDirs s false here dest
  (upLinks s).filter (fun l => dirs.contains (linkDir l) && !(hopBroken s here (linkDir l)))

/-- R186 step 2: the candidate with the most free flits in the VC that can hold the frame; ties to the lower index. -/
def adaptiveLink (s : State) (vc flits : Nat) (here dest : Nat × Nat) : Option Nat :=
  (candidates s here dest).foldl (fun best l =>
    if creditFree (linkOf s l) (creditClass vc 0) < flits then best
    else match best with
      | none => some l
      | some b => if creditFree (linkOf s b) (creditClass vc 0) < creditFree (linkOf s l) (creditClass vc 0) then some l
                  else best) none

/-! ## Queueing frames -/

/-- Bytes queued in a VC for an output. -/
def queuedBytes (s : State) (vc link : Nat) : Nat :=
  ((s.wall.frames.filter (fun r => r.f.vc == vc && r.out == some link)).map (fun r => r.bytes)).foldl (· + ·) 0

/-- The bond mark threshold of a VC (R166), none for VC0 and VC4. -/
def markThreshold (s : State) (vc : Nat) : Option Nat :=
  if vc = 1 ∨ vc = 2 ∨ vc = 3 then some (thresholdN s vc) else none

/-- R149: mark a frame that carries a sequenced Enpin packet when its VC already holds more than the threshold at its
output. -/
def markFrame (r : RFrame) (s : State) : RFrame × State :=
  match markThreshold s r.f.vc, r.out with
  | some t, some l =>
    if r.sequenced && decide (t < queuedBytes s r.f.vc l) && !r.f.mark then
      ({ r with f := { r.f with mark := true } }, bump 0x9042 2 1 s)
    else (r, s)
  | _, _ => (r, s)

/-- Put a frame in the router's queues. -/
def pushFrame (r : RFrame) (s : State) : State :=
  let (r, s) := markFrame r s
  { s with wall := { s.wall with frames := s.wall.frames ++ [r] } }

/-- A one-hop frame on a link (R180: tie, tree, announcements, circuit control). -/
def pushHop (f : BondFrame) (link : Nat) (s : State) : State :=
  if linkUp s link then
    pushFrame { f := f, inLink := none, at_ := s.now, out := some link, fixed := true, bytes := frameBytes f } s
  else s

/-- The VC of an Enpin packet that no circuit carries (R180). -/
def packetVc (s : State) (p : Packet) : Nat :=
  match p.ptype with
  | .ack => 1
  | .nack => 1
  | .rnr => 1
  | .tie => 0
  | _ => if isSequenced p && decide (flitsOf (bondLen p) ≤ 4) && bitOf (ledN s 0x3210 1) p.tc then 1 else 2

/-- The output a unicast frame would take now: adaptive for VC1 and VC2, else its plumb hop. -/
def preferredOut (s : State) (vc flits : Nat) (dst : W32) : Option Nat :=
  match s.wall.pos with
  | some here =>
    match adaptiveLink s vc flits here (frameDest dst) with
    | some l => some l
    | none => (candidates s here (frameDest dst)).head?
  | none => none

/-- The bond frame of a packet. -/
def frameOf (vc : Nat) (p : Packet) : BondFrame := { vc := vc, src := p.src, dst := p.dst, content := .packet p }

/-- A laid circuit that carries a queue's packets to a destination (R194): a bound course that is not broken. -/
def courseFor (s : State) (qp : Nat) (dst : W32) : Option Course :=
  (s.wall.courses.filter (fun c => c.laid && c.bound && !c.broken && c.qp == qp && c.dest == dst)).head?

/-- The router's entry of a handle. -/
def circuitOf (s : State) (h : W32) : Option Circuit := (s.wall.circuits.filter (fun c => c.handle == h)).head?

/-- Queue a bond-form packet of this module: inside the module through the internal port (R79), on VC4 when `qp` is
bound to a course (R194), else on its VC. The frame drops at once where R189 says so. -/
def queueBond (qp : Option Nat) (p : Packet) (s : State) : State :=
  if p.dst = ownId s then
    { s with eth := { s.eth with internal := s.eth.internal ++ [({ ks := p.dstQp % 2 }, p)] } }
  else
    let course := match qp with
      | some n => if isSequenced p then courseFor s n p.dst else none
      | none => none
    match course with
    | some c =>
      match circuitOf s c.handle with
      | some k =>
        pushFrame { f := { frameOf 4 p with aux := BitVec.ofNat 32 (c.handle.toNat % 65536 + k.outQueue * 65536) },
                    inLink := none, at_ := s.now, out := k.outLink, fixed := true, sequenced := true,
                    bytes := bondLen p } s
      | none => s
    | none =>
      if !(inWall s p.dst) then bump 0x9039 1 1 s
      else if destDown s p.dst then bump 0x9039 2 1 s
      else
        let vc := packetVc s p
        pushFrame { f := frameOf vc p, inLink := none, at_ := s.now,
                    out := preferredOut s vc (flitsOf (bondLen p)) p.dst, sequenced := isSequenced p,
                    bytes := bondLen p } s

/-! ## Announcements (R184) -/

/-- This module's announcement now. -/
def ownAnnounce (s : State) : Announce :=
  { origin := ownId s, nonce := s.wall.nonce, aseq := s.wall.aseq,
    linksDown := BitVec.ofNat 8 (linksDownOf s (ownId s)), fenced := s.wall.fenced }

def announceFrame (s : State) (a : Announce) : BondFrame :=
  { vc := 1, src := ownId s, dst := ownId s, content := .announce a }

/-- Send an announcement on every up link but one. -/
def flood (a : Announce) (but : Option Nat) (s : State) : State :=
  foldS (fun l t => pushHop (announceFrame t a) l t) ((upLinks s).filter (fun l => some l != but)) s

/-- Announce this module's state; a module without a position announces nothing. -/
def announceNow (s : State) : State :=
  if s.wall.pos.isNone then s else
  let s := { s with wall := { s.wall with aseq := s.wall.aseq + 1 } }
  flood (ownAnnounce s) none s

end Sys2Proof.Machine
end

