-- ==== Sys2Proof/Machine/Tally.lean ====
section
/-! DEFINITION. The tally: contexts, their rate and pacing state, opening, messages and aborts on the sending side
(R115 to R126, R137, R153 to R161, R496). -/

namespace Sys2Proof.Machine

open Sys2Proof

def nowUs (s : State) : Nat := s.now / 1000
def nowMs (s : State) : Nat := s.now / 1000000

/-! ## Ports and rates (R109, R154, R161) -/

/-- The ports fitted in the mode in force (R15, R345). -/
def portsFitted (s : State) : List Nat := if s.eth.mode = 1 then [0, 2] else [0, 1, 2, 3]

/-- The usable local ports, in port order (R109): link up and gateway MAC set. -/
def usablePorts (s : State) : List Nat :=
  (portsFitted s).filter (fun p => (portOf s p).linkUp && decide (ledN s 0x4142 (p + 1) ≠ 0))

/-- A port's line rate in Mb/s (R345). -/
def lineRate (s : State) : Nat := if s.eth.mode = 1 then 1600000 else 800000

/-- The top of a context's rate range (R154). -/
def rateMax (s : State) (eth : Bool) : Nat := if eth then (usablePorts s).length * lineRate s else 1600000

/-- The usable-port list has changed: its generation advances (R161). -/
def portListMoved (before : List Nat) (s : State) : State :=
  if usablePorts s = before then s
  else { s with enpin := { s.enpin with portGen := (s.enpin.portGen + 1) % 256 } }

/-- A cold context (R154). -/
def coldCtx (s : State) (c : Ctx) : Ctx :=
  { c with
    cc := { c.cc with rate := rateMax s c.ethForm, alpha := ledN s 0x4150 6, tokens := Int.ofNat (ledN s 0x4150 5),
                      echoPending := 0, echo := false, decreased := false, bitCarry := 0,
                      tUpdate := nowUs s % 65536, tTokens := nowUs s % 65536 }
    pathWeight := List.replicate 16 32 }

/-- One interval boundary (R156). -/
def ccBoundary (s : State) (c : Ctx) : Ctx :=
  let g := ledN s 0x4150 3
  let f := c.cc.echo
  let alpha := min 0xFFFF (c.cc.alpha - c.cc.alpha / 2 ^ g + (if f then 0x10000 / 2 ^ g else 0))
  { c with
    cc := { c.cc with alpha := alpha,
                      rate := if c.cc.decreased then c.cc.rate
                              else min (rateMax s c.ethForm) (c.cc.rate + ledN s 0x4150 2),
                      echo := false, decreased := false }
    pathWeight := c.pathWeight.map (fun w => min 32 (w + ledN s 0x4150 8)) }

/-- `n` boundaries. -/
def ccBoundaries (s : State) : Nat → Ctx → Ctx
  | 0, c => c
  | n + 1, c => ccBoundaries s n (ccBoundary s c)

/-- Whole microseconds since a 16-bit time (R157). -/
def sinceUs (s : State) (t : Nat) : Nat := (nowUs s % 65536 + 65536 - t % 65536) % 65536

/-- Whole multiples of an interval after `a` and up to `b`. -/
def multiplesIn (i a b : Nat) : Nat := b / max 1 i - a / max 1 i

/-- Boundaries after `a` and up to `b` on the grids that changes of the interval, oldest first, made: each holds up to its
write (R156). -/
def boundariesOver (i b : Nat) : List (Nat × Nat) → Nat → Nat
  | [], a => multiplesIn i a b
  | (t, old) :: l, a => if t ≤ a then boundariesOver i b l a else multiplesIn old a t + boundariesOver i b l t

/-- The boundaries between `t_update` and now (R156, R157). A boundary in the microsecond of `t_update` has been processed
(assumption 31). -/
def boundariesDue (s : State) (c : Ctx) : Nat :=
  let from_ := (nowUs s - sinceUs s c.cc.tUpdate) * 1000 + 999
  boundariesOver (ledN s 0x4150 1) s.now
    ((s.ledger.changes.filter (fun x => x.1 == 0x4150 * 256 + 1)).map (fun x => x.2)) from_

/-- The last boundary up to now, in µs. -/
def lastBoundary (s : State) : Nat :=
  let i := max 1 (ledN s 0x4150 1)
  s.now / i * i / 1000

/-- The pacing refill (R158). -/
def ccRefill (s : State) (c : Ctx) : Ctx :=
  let b := c.cc.rate * sinceUs s c.cc.tTokens + c.cc.bitCarry
  let full := c.cc.tokens + Int.ofNat (b / 8)
  let burst := Int.ofNat (ledN s 0x4150 5)
  { c with cc := { c.cc with tokens := min burst full, bitCarry := if burst < full then 0 else b % 8,
                             tTokens := nowUs s % 65536 } }

/-- Touch a context (R154, R156 to R158, R161). -/
def ccTouch (s : State) (c : Ctx) : Ctx :=
  if 32 ≤ nowMs s - c.lastActive then coldCtx s { c with cc := { c.cc with portGen := s.enpin.portGen } }
  else
    let n := boundariesDue s c
    let c := ccBoundaries s n c
    let c := if n = 0 then c
      else { c with cc := { c.cc with tUpdate := lastBoundary s % 65536 } }
    let c := ccRefill s c
    if c.ethForm && c.cc.portGen != s.enpin.portGen then
      { c with pathWeight := List.replicate 16 32,
               cc := { c.cc with portGen := s.enpin.portGen, rate := min c.cc.rate (rateMax s true) } }
    else c

def touchCtx (peer : W32) (s : State) : State :=
  modCtx peer (fun c => { ccTouch s c with usedAt := s.now }) s

/-- R155: an echo of marks lowers the rate once per interval. -/
def ccDecrease (s : State) (c : Ctx) : Ctx :=
  if c.cc.decreased then { c with cc := { c.cc with echo := true } }
  else { c with cc := { c.cc with echo := true, decreased := true,
                                  rate := max (c.cc.rate - c.cc.rate * c.cc.alpha / 2 ^ 17) (ledN s 0x4150 4) } }

/-- The decrease, counted (R172). -/
def ccEcho (peer : W32) (s : State) : State :=
  match ctxOf s peer with
  | some c => setCtx peer (ccDecrease s c) (if c.cc.decreased then s else bump 0x9042 4 1 s)
  | none => s

/-! ## Allocation, quietness, the cache (R116, R117) -/

/-- A context's home Keystone (R115). -/
def Ctx.home (c : Ctx) : Nat := c.index % 2

/-- The context is quiet (R116): the four conditions of the rule. -/
def isQuiet (s : State) (peer : W32) (c : Ctx) : Bool :=
  c.outs.isEmpty && (s.enpin.adms.all (fun a => a.peer != peer)) &&
  (s.enpin.trackers.all (fun t => t.peer != peer || t.st == .refused)) &&
  ((s.enpin.banker0 ++ s.enpin.banker1).all (fun k => (if idWall k.pkt.dst = 0xFFFF then k.pkt.dst else k.pkt.src) != peer))

/-- Contexts in use on a Keystone. -/
def ctxsOn (s : State) (ks : Nat) : List (Nat × Ctx) := s.enpin.ctxs.filter (fun p => p.2.home == ks)

/-- The lowest free index of a Keystone, of its 32,768 (R115). -/
def freeCtxIndex (s : State) (ks : Nat) : Option Nat :=
  let used := (ctxsOn s ks).map (fun p => p.2.index)
  (((rangeFrom 0 (used.length + 1)).map (fun k => 2 * k + ks)).filter (fun i => !(used.contains i) && decide (i < 65536))).head?

/-- The quiet context idle longest, if it has been idle for twice the reopen time (R117). One that an entry still waits on is
kept (DESIGN CHOICE, assumption 75). -/
def reclaimable (s : State) : Option W32 :=
  let able := s.enpin.ctxs.filter (fun p =>
    isQuiet s (BitVec.ofNat 32 p.1) p.2 && p.2.reqs.isEmpty && p.2.msgs.isEmpty && decide (2 * timerN s 0x0C s.now ≤ nowMs s - p.2.lastActive))
  (able.foldl (fun best p => match best with
    | none => some p
    | some b => if p.2.lastActive < b.2.lastActive then some p else some b) none).map (fun p => BitVec.ofNat 32 p.1)

/-- A Keystone can hold one more context on chip: it has room, or one of its cached contexts is quiet (R116). -/
def chipRoom (s : State) (ks : Nat) : Bool :=
  let chip := (ctxsOn s ks).filter (fun p => p.2.onChip)
  decide (chip.length < 8192) || chip.any (fun p => isQuiet s (BitVec.ofNat 32 p.1) p.2)

/-- Make room on chip for one more context of a Keystone: the least recently used quiet one goes to its record
(R116: 8,192 on chip). -/
def evictFor (ks : Nat) (s : State) : State :=
  let chip := (ctxsOn s ks).filter (fun p => p.2.onChip)
  if chip.length < 8192 then s else
  match (chip.filter (fun p => isQuiet s (BitVec.ofNat 32 p.1) p.2)).foldl (fun best p => match best with
    | none => some p
    | some b => if p.2.usedAt < b.2.usedAt then some p else some b) none with
  | some p => modCtx (BitVec.ofNat 32 p.1) (fun c => { c with onChip := false, dirty := false }) s
  | none => s

/-- A fresh context for a peer, unopened. -/
def freshCtx (s : State) (peer : W32) (index : Nat) : Ctx :=
  coldCtx s { index := index, ethForm := ethFormOf s peer && idWall peer != 0xFFFF, lastActive := nowMs s, usedAt := s.now,
              rto := timerN s 3 s.now }

/-- Random bits for a sequence number (R119) and an epoch from 1 to 255. -/
def drawSeq (s : State) : W32 := BitVec.ofNat 32 (drawOf s).toNat
def drawEpoch (s : State) : Nat := 1 + (drawOf s).toNat % 255

/-- The module's own context: created OPEN (R496). -/
def openSelf (peer : W32) (s : State) : State :=
  match ctxOf s peer with
  | some c =>
    let ep := drawEpoch s
    let s := drawn s
    let sq := drawSeq s
    let s := drawn s
    setCtx peer { coldCtx s c with st := .opened, epoch := ep, openSeq := sq, txNext := sq, txAcked := sq, rxBase := sq,
                                   seen := 0, done := 0, epochTime := nowUs s, lastActive := nowMs s, sampled := false,
                                   rto := timerN s 3 s.now } s
  | none => s

/-- Allocate a context for a peer that has none (R117): on the Keystone with fewer in use, K0 when both have as many (DESIGN
CHOICE, assumption 75), else by reclaiming. While every context on the Keystone's chip is busy the new one waits in its record
(R116). The answer says whether there is one now. -/
def allocCtx (peer : W32) (s : State) : Bool × State :=
  match ctxOf s peer with
  | some _ => (true, s)
  | none =>
    let ks := if (ctxsOn s 1).length < (ctxsOn s 0).length then 1 else 0
    let s' := match freeCtxIndex s ks, freeCtxIndex s (1 - ks) with
      | none, none => (match reclaimable s with
        | some old => { s with enpin := { s.enpin with ctxs := tdel s.enpin.ctxs old.toNat } }
        | none => s)
      | _, _ => s
    let pick := match freeCtxIndex s' ks with
      | some i => some i
      | none => freeCtxIndex s' (1 - ks)
    match pick with
    | some i =>
      let room := chipRoom s' (i % 2)
      let s' := evictFor (i % 2) s'
      let s' := setCtx peer { freshCtx s' peer i with onChip := room } s'
      (true, if peer = ownId s' then openSelf peer s' else s')
    | none => (false, s)

/-- A line context opens (R200): its source chooses the epoch, and a multicast packet with a zero bitmap goes first. -/
def openLine (peer : W32) (s : State) : State :=
  match ctxOf s peer with
  | none => s
  | some c =>
    let ep := drawEpoch s
    let s := drawn s
    let sq := drawSeq s
    let s := drawn s
    let m : TxMsg := { msgId := c.msgNext, owner := .none, ptype := .data, ext := .multicast 0 0 0 (peer.toNat / 2 ^ 15 % 2) 0,
                       src := .bytes [], start := 0, len := 0, pktCount := 1, segment := 8192 }
    setCtx peer { coldCtx s c with st := .opening, epoch := ep, openSeq := sq, txNext := sq, txAcked := sq, sampled := false,
                                   rto := timerN s 3 s.now, members := 0, memberAcks := [], msgs := m :: c.msgs,
                                   msgNext := c.msgNext + 1 } s

/-- No sequenced packet for one reopen time, and none that awaits its acknowledgement (R119, R125). -/
def idleLong (s : State) (c : Ctx) : Bool := decide (timerN s 0x0C s.now ≤ nowMs s - c.lastActive) && c.outs.isEmpty

/-- An idle context past the reopen time, or one not open, opens again before it sends (R119, R125, R496). -/
def ensureOpening (peer : W32) (s : State) : State :=
  match ctxOf s peer with
  | none => s
  | some c =>
    let idle := idleLong s c
    match c.st with
    | .opening => s
    | .opened =>
      if idle then
        let s := bump 0x9041 0x0E 1 s
        if peer = ownId s then openSelf peer s
        else if idWall peer = 0xFFFF then openLine peer s
        else
          let sq := drawSeq s
          let s := drawn s
          setCtx peer { coldCtx s c with st := .opening, openSeq := sq, txNext := sq, txAcked := sq, sampled := false,
                                         rto := timerN s 3 s.now } s
      else s
    | .unopened =>
      if peer = ownId s then openSelf peer s else
      if idWall peer = 0xFFFF then openLine peer s else
      let sq := drawSeq s
      let s := drawn s
      setCtx peer { coldCtx s c with st := .opening, openSeq := sq, txNext := sq, txAcked := sq, sampled := false,
                                     rto := timerN s 3 s.now } s

/-! ## Messages (R102 to R104) -/

/-- The segment size of a form (R102). -/
def segmentSize (s : State) (eth : Bool) : Nat := if eth then ledN s 0x4120 2 else 8192

/-- The chain of messages of `len` bytes (R103): start and length of each, every one but the last of 32,768 packets. -/
def chainOf (seg : Nat) : Nat → Nat → Nat → List (Nat × Nat)
  | 0, _, _ => []
  | fuel + 1, start, len =>
    if len ≤ 32768 * seg then [(start, len)]
    else (start, 32768 * seg) :: chainOf seg fuel (start + 32768 * seg) (len - 32768 * seg)

/-- Packets of a message: one when it carries nothing. -/
def packetsOf (seg len : Nat) : Nat := max 1 (cdiv len seg)

/-- The fetch of a context for what is to be sent counts one miss, unless it is under way (R146). -/
def noteMiss (peer : W32) (c : Ctx) (s : State) : State :=
  let parked := (s.enpin.banker0 ++ s.enpin.banker1).any (fun k => k.needTally &&
    (if idWall k.pkt.dst = 0xFFFF then k.pkt.dst else k.pkt.src) == peer)
  if !c.onChip && c.msgs.isEmpty && !parked then bump 0x9041 1 1 s else s

/-- Queue the messages of one entry, response or doorway message in a context (R102 to R104). `proto` gives every field
but the identifiers, the ranges and the chain. A context that is not on chip is fetched for the first of them (R146). -/
def queueMsgs (peer : W32) (proto : TxMsg) (len : Nat) (s : State) : State :=
  match ctxOf s peer with
  | none => s
  | some c =>
    let seg := segmentSize s c.ethForm
    let parts := chainOf seg (len / (32768 * seg) + 2) 0 len
    let n := parts.length
    let msgs := (rangeFrom 0 n).map (fun i =>
      let (a, l) := nthD (0, 0) parts i
      { proto with msgId := c.msgNext + BitVec.ofNat 32 i, start := a, len := l, pktCount := packetsOf seg l, segment := seg,
                   chained := decide (i + 1 < n), sig := if i + 1 = n then proto.sig else none,
                   solicit := (i + 1 == n) && proto.solicit })
    let s := noteMiss peer c s
    setCtx peer { c with msgs := c.msgs ++ msgs, msgNext := c.msgNext + BitVec.ofNat 32 n } s

/-- The `msg_id` the context gives next. -/
def nextMsgId (s : State) (peer : W32) : W32 :=
  match ctxOf s peer with
  | some c => c.msgNext
  | none => 0

/-! ## Aborts (R137) -/

/-- The ABORT packet that takes a sequence number of a message (R96, R137); it names the message's QP and class, and goes without
`secure` whatever its message did (DESIGN CHOICE, assumption 30). -/
def abortPacket (s : State) (peer : W32) (c : Ctx) (m : TxMsg) (seq : W32) (status : Nat) : Packet :=
  { ptype := .abort, bondForm := !c.ethForm, ackReq := true, retx := true, epoch := c.epoch, src := ownId s, dst := peer,
    seq := seq, msgId := m.msgId, pktIndex := 0, pktCount := 1, dstQp := m.dstQp, tc := m.tc,
    ext := .abort status m.lastSeq }

/-- Abort one message of a context: its unacknowledged numbers carry ABORTs; a message wholly acknowledged so far is
aborted under a new number; one of which nothing left needs none. While the context is not open there is no ABORT, and a
context whose opening carried the message is unopened again (R119; assumption 75). -/
def abortMsg (peer : W32) (msgId : W32) (status : Nat) (s : State) : State :=
  match ctxOf s peer with
  | none => s
  | some c =>
    match (c.msgs.filter (fun m => m.msgId == msgId && m.ptype != .abort)).head? with
    | none => s
    | some m =>
      let kept := c.msgs.filter (fun x => !(x.msgId == msgId && x.ptype != .abort))
      match c.st with
      | .opened =>
        let live := c.outs.any (fun o => o.msgId == msgId && o.abort.isNone)
        let outs := c.outs.map (fun o =>
          if o.msgId = msgId ∧ o.abort.isNone = true then
            { o with abort := some status, abortSent := false, resend := true, timeout := c.rto, lastRnr := false, rnrs := 0,
                     tmpl := abortPacket s peer c m o.seq status }
          else o)
        let extra : List TxMsg :=
          let response := (match m.owner with
            | .response _ _ => true
            | _ => false)
          if live || (m.next == 0 && !response) then [] else
          [{ msgId := msgId, owner := .none, ptype := .abort, ext := .abort status (if m.next = 0 then c.txNext else m.lastSeq), src := .bytes [], start := 0,
             len := 0, pktCount := 1, segment := 1, dstQp := m.dstQp, tc := m.tc, fn := m.fn }]
        setCtx peer { c with msgs := kept ++ extra, outs := outs,
                             reqs := c.reqs.filter (fun r => r.msgId != msgId) } s
      | _ =>
        let outs := c.outs.filter (fun o => o.msgId != msgId)
        let lost := decide (outs.length < c.outs.length)
        setCtx peer { c with msgs := kept, outs := outs, st := if lost then .unopened else c.st
                             rnrUntil := if lost then none else c.rnrUntil
                             reqs := c.reqs.filter (fun r => r.msgId != msgId) } s

/-- Abort every message of an owner, in every context (R41 step 4, R103: an abort of one message of a chain aborts the
rest). -/
def abortOwner (o : Owner) (status : Nat) (s : State) : State :=
  foldS (fun p t =>
    let peer := BitVec.ofNat 32 p.1
    let t := foldS (fun m u => abortMsg peer m.msgId status u) (p.2.msgs.filter (fun m => decide (m.owner = o))) t
    modCtx peer (fun c => { c with reqs := c.reqs.filter (fun r => !(decide (r.owner = o))) }) t) s.enpin.ctxs s

/-- Nothing of an owner is left to send, to be acknowledged or to be answered. -/
def ownerDone (s : State) (o : Owner) : Bool :=
  s.enpin.ctxs.all (fun p =>
    p.2.msgs.all (fun m => !(decide (m.owner = o))) && p.2.reqs.all (fun r => !(decide (r.owner = o))))

end Sys2Proof.Machine
end

