-- ==== Sys2Proof/Machine/Access.lean ====
section
/-! DEFINITION. Reading and writing by virtual address with everything that can go wrong (R302, R303, R314), the
holds on pages (R302, R310), and the memory-error event. -/

namespace Sys2Proof.Machine

open Sys2Proof

/-- What an access by virtual address gives. -/
inductive Got where
  | ok (bytes : List Byte)
  | fault (status addr : Nat)
  | absent (seg : Nat) (pages : List Nat)
deriving DecidableEq, Repr

/-- The first address of a range of a segment that reads uncorrectable, with its memory's number. -/
def segBadAt (s : State) (fn seg off len : Nat) : Option (Nat × Nat) :=
  ((piecesOf s fn seg off len).foldl (fun acc p =>
    match acc.2 with
    | some _ => acc
    | none => match badIn p.1 p.2.1 p.2.2 s with
      | some a => (acc.1, some (memCode p.1, acc.1 + (a - p.2.1)))
      | none => (acc.1 + p.2.2, none)) (off, none)).2

/-- The same for a virtual range: memory number and virtual address. -/
def vbadAt (s : State) (fn va len : Nat) : Option (Nat × Nat) :=
  match segHolding s fn va len with
  | some i => (segBadAt s fn i (va - segBase (segOf s fn i)) len).map (fun p => (p.1, segBase (segOf s fn i) + p.2))
  | none => none

/-- Read a virtual range (R302, R314). -/
def getVa (s : State) (fn va len : Nat) : Got :=
  match xlate s fn va len false with
  | .fault st a => .fault st a
  | .absent g ps => .absent g ps
  | .ok => match vbadAt s fn va len with
    | some (_, a) => .fault stMemory a
    | none => .ok (if len = 0 then [] else vread s fn va len)

/-- An uncorrectable read of the device (R314): counted, and the event of the function that owns the memory. -/
def memEvent (fn mem aux wher : Nat) (s : State) : State :=
  raiseEvent fn 0x30 mem (ownId s) 0 aux wher (bump 0x9070 9 1 s)

/-- The event of a failed read of a virtual range. -/
def badEvent (fn va len : Nat) (s : State) : State :=
  match vbadAt s fn va len with
  | some (m, a) => memEvent fn m ((segHolding s fn va len).getD 0) a s
  | none => s

/-- The pages of a range become held, or are let go (R302, R303). -/
def holdPages (fn va len : Nat) (up : Bool) (s : State) : State :=
  if len = 0 then s else
  match segUsing s fn va len with
  | some i =>
    if (segOf s fn i).migratory then
      foldS (fun p t => modPage fn i p (fun x => { x with held := if up then x.held + 1 else x.held - 1 }) t)
        (pagesOf (va - segBase (segOf s fn i)) len) s
    else s
  | none => s

/-- The agent that a Keystone's transport engines translate as. -/
def ksAgent (ks : Nat) : Nat := 512 + ks

end Sys2Proof.Machine
end

