-- ==== Sys2Proof/Machine/CollBase.lean ====
section
/-! DEFINITION. Groups and instances of collectives: the reduction set and the tree (R226, R227), tree and control
packets (R230), hop packets (R235), the mortar store (R232 to R234), and the end of an instance by ABORT (R242). -/

namespace Sys2Proof.Machine

open Sys2Proof

/-! ## Groups and instances -/

def groupAt (s : State) (h : W32) : Option Group :=
  match tfind s.coll.groups (h.toNat % 1024) with
  | some g => if g.handle = h then some g else none
  | none => none

def modGroup (h : W32) (f : Group → Group) (s : State) : State :=
  match groupAt s h with
  | some g => { s with coll := { s.coll with groups := tset s.coll.groups (h.toNat % 1024) (f g) } }
  | none => s

def instOf (g : Group) (n : W32) : Option Inst := (g.insts.filter (fun i => i.num == n)).head?

def instAt (s : State) (h n : W32) : Option Inst := (groupAt s h).bind (fun g => instOf g n)

def modInst (h n : W32) (f : Inst → Inst) (s : State) : State :=
  modGroup h (fun g => { g with insts := modFirst (fun i => i.num == n) f g.insts }) s

/-! ## The reduction set and the tree (R226, R227) -/

/-- The position of a member. -/
def memberPos (s : State) (g : Group) (m : Nat) : Nat × Nat :=
  ((g.ox + m % max g.w 1) % max s.wall.sizeX 1, (g.oy + m / max g.w 1) % max s.wall.sizeY 1)

/-- The member index of a position of the panel. -/
def memberAt (s : State) (g : Group) (p : Nat × Nat) : Nat :=
  let nx := max s.wall.sizeX 1
  let ny := max s.wall.sizeY 1
  ((p.2 + ny - g.oy % ny) % ny) * g.w + (p.1 + nx - g.ox % nx) % nx

def myMember (s : State) (g : Group) : Nat :=
  match s.wall.pos with
  | some p => memberAt s g p
  | none => 0

def memberId (s : State) (g : Group) (m : Nat) : W32 := idAt s (memberPos s g m)

/-- The members of a member's reduction set, in rank order. -/
def setMembers (g : Group) (m : Nat) : List Nat :=
  match g.axis with
  | 0 => (rangeFrom 0 g.w).map (fun i => m / max g.w 1 * g.w + i)
  | 1 => (rangeFrom 0 g.h).map (fun i => i * g.w + m % max g.w 1)
  | _ => rangeFrom 0 (g.w * g.h)

def setSize (g : Group) : Nat :=
  match g.axis with
  | 0 => g.w
  | 1 => g.h
  | _ => g.w * g.h

def rankOf (g : Group) (m : Nat) : Nat :=
  match g.axis with
  | 0 => m % max g.w 1
  | 1 => m / max g.w 1
  | _ => m

/-- The member of a rank in the reduction set of `m`. -/
def memberOfRank (g : Group) (m r : Nat) : Nat := nthD 0 (setMembers g m) (r % max (setSize g) 1)

/-- The root of the reduction set of `m`. -/
def rootOf (g : Group) (m : Nat) : Nat :=
  match g.axis with
  | 0 => m / max g.w 1 * g.w + g.rx
  | 1 => g.ry * g.w + m % max g.w 1
  | _ => g.ry * g.w + g.rx

/-- The direction of a member's parent; none at the root. -/
def parentDir (s : State) (g : Group) (m : Nat) : Option Nat :=
  let r := rootOf g m
  if m = r then none else
  let w := max g.w 1
  if m % w ≠ r % w ∧ g.axis ≠ 1 then
    (if g.w = s.wall.sizeX then (minimalDirs s true (memberPos s g m) (memberPos s g r)).head?
     else some (if m % w < r % w then 0 else 1))
  else
    (if g.h = s.wall.sizeY then (minimalDirs s false (memberPos s g m) (memberPos s g r)).head?
     else some (if m / w < r / w then 3 else 2))

def parentOf (s : State) (g : Group) (m : Nat) : Option Nat :=
  (parentDir s g m).map (fun d => memberAt s g (stepPos s d (memberPos s g m)))

/-- A member's children: the direction of each and its member index. -/
def childrenOf (s : State) (g : Group) (m : Nat) : List (Nat × Nat) :=
  (setMembers g m).filterMap (fun c =>
    if parentOf s g c = some m then (parentDir s g c).map (fun d => (oppositeDir d, c)) else none)

def isLeaf (s : State) (g : Group) (m : Nat) : Bool := (childrenOf s g m).isEmpty

/-- The tree edges of a member: direction and the member at the other end. -/
def edgesOf (s : State) (g : Group) (m : Nat) : List (Nat × Nat) :=
  (match parentDir s g m, parentOf s g m with
   | some d, some p => [(d, p)]
   | _, _ => []) ++ childrenOf s g m

/-- The way from a member towards the root passes through `via`. -/
def passesBy (s : State) (g : Group) (via : Nat) : Nat → Nat → Bool
  | 0, m => m == via
  | n + 1, m => m == via || (match parentOf s g m with
    | some p => passesBy s g via n p
    | none => false)

/-- `m` lies in the subtree of `c`. -/
def inSubtree (s : State) (g : Group) (c m : Nat) : Bool := passesBy s g c 64 m

/-- The link of an edge for chunk c (R227): c mod 2 of the pair, else the other. -/
def edgeLink (s : State) (dir c : Nat) : Option Nat :=
  if linkUp s (2 * dir + c % 2) then some (2 * dir + c % 2)
  else if linkUp s (2 * dir + (c + 1) % 2) then some (2 * dir + (c + 1) % 2) else none

/-! ## Tree packets (R230) -/

/-- The signature an instance's packets carry: its own entry's, else the unit's. -/
def instSig (i : Inst) : Sig :=
  match i.own with
  | some x => x
  | none => match i.sig with
    | some (x, _) => x
    | none => { op := 0, red := 0, dtype := 0, elements := 0 }

/-- A tree packet to a neighbour. -/
def treePkt (s : State) (g : Group) (n : W32) (x : Sig) (down : Bool) (off member : Nat) (to_ : Nat)
    (payload : List Byte) : Packet :=
  { ptype := .collective, bondForm := true, src := ownId s, dst := memberId s g to_, pktCount := 1, tc := g.tc,
    ext := .coll g.handle n x.op x.red x.dtype false down x.elements off member, payload := payload }

/-- Put a tree packet on its edge: VC2, one hop. -/
def sendTree (dir c : Nat) (p : Packet) (s : State) : State :=
  match edgeLink s dir c with
  | some l => pushHop (frameOf 2 p) l s
  | none => s

def ctlOffset : Nat := 0xFFFFFFFF

/-- A control packet's payload (R230). -/
def ctlPayload (code status culprit chunk : Nat) : List Byte :=
  beBytes 1 code ++ beBytes 1 status ++ beBytes 2 culprit ++ beBytes 4 chunk

/-- A control packet that needs no acknowledgement of its own. -/
def sendCtl (h n : W32) (dir to_ member code status culprit chunk : Nat) (s : State) : State :=
  match groupAt s h with
  | some g =>
    let x := match instOf g n with
      | some i => instSig i
      | none => { op := 0, red := 0, dtype := 0, elements := 0 }
    sendTree dir 0 (treePkt s g n x false ctlOffset member to_ (ctlPayload code status culprit chunk)) s
  | none => s

/-- Answer a tree packet that came from a neighbour on a link. -/
def answerCtl (h n : W32) (link from_ code chunk : Nat) (s : State) : State :=
  match groupAt s h with
  | some g => sendCtl h n (linkDir link) from_ (myMember s g) code 0 0 chunk s
  | none => s

/-! ## Hop packets (R235) -/

/-- The direction of the edge towards a neighbouring member. -/
def edgeDir (s : State) (g : Group) (to_ : Nat) : Option Nat :=
  ((edgesOf s g (myMember s g)).filter (fun e => e.2 == to_)).head?.map Prod.fst

/-- The chunk number that keeps a control packet's place in the hop list. -/
def ctlKey (code : Nat) : Nat := 2 ^ 32 + code

/-- Send a packet on an edge and keep it until the hop acknowledges it. -/
def sendHop (h n : W32) (dir to_ chunk kind : Nat) (p : Packet) (s : State) : State :=
  let s := modInst h n (fun i => { i with hops := i.hops ++
    [{ member := to_, chunk := chunk, dir := kind, tries := 1, pkt := p, sentAt := s.now }] }) s
  sendTree dir (if kind = 2 then 0 else chunk) p s

/-- Send a control packet that is acknowledged (ABORT, FALLBACK) on every edge but one. -/
def sendCtlEdges (h n : W32) (member code status culprit : Nat) (but : Option Nat) (s : State) : State :=
  match groupAt s h with
  | none => s
  | some g =>
    let x := match instOf g n with
      | some i => instSig i
      | none => { op := 0, red := 0, dtype := 0, elements := 0 }
    foldS (fun e t =>
      sendHop h n e.1 e.2 (ctlKey code) 2
        (treePkt t g n x false ctlOffset member e.2 (ctlPayload code status culprit 0)) t)
      ((edgesOf s g (myMember s g)).filter (fun e => some e.2 != but)) s

/-! ## The mortar store (R232 to R234) -/

/-- Slots per Keystone. -/
def mortarSlots : Nat := 4096

/-- Give the slots of an instance back; it stays admitted, since a reservation is made once (R232). -/
def releaseSlots (h n : W32) (s : State) : State :=
  match groupAt s h with
  | none => s
  | some g => match instOf g n with
    | none => s
    | some i =>
      let c := s.coll
      let k0 := g.vdev * 2
      let k1 := g.vdev * 2 + 1
      let share := tset (tset c.share k0 (tget 0 c.share k0 - i.reserved0)) k1 (tget 0 c.share k1 - i.reserved1)
      modInst h n (fun i => { i with reserved0 := 0, reserved1 := 0 })
        { s with coll := { c with slotsUsed0 := c.slotsUsed0 - i.reserved0, slotsUsed1 := c.slotsUsed1 - i.reserved1,
                                  share := share } }

/-! ## The fallback ring's packets (R241) -/

/-- Send one packet of the ring to a member, under the tally. -/
def sendRing (h n : W32) (to_ member : Nat) (down : Bool) (off : Nat) (payload : List Byte) (s : State) : State :=
  match groupAt s h with
  | none => s
  | some g =>
    let x := match instOf g n with
      | some i => instSig i
      | none => { op := 0, red := 0, dtype := 0, elements := 0 }
    let peer := memberId s g to_
    let (_, s) := allocCtx peer s
    queueMsgs peer
      { msgId := 0, owner := .ring h n, ptype := .collective,
        ext := .coll h n x.op x.red x.dtype true down x.elements off member, src := .bytes payload, start := 0,
        len := payload.length, pktCount := 1, segment := 8192, tc := g.tc, fn := g.vdev } payload.length s

/-! ## The end of an instance by ABORT (R242) -/

/-- Send the ABORT of an instance to the rest of its set: hop by hop on the tree, sequenced to both neighbours on the
fallback ring. `member` is the member index it reports; the culprit is named with SIGNATURE_MISMATCH only (R230). -/
def sendAbort (h n : W32) (member status culprit : Nat) (but : Option Nat) (s : State) : State :=
  match groupAt s h with
  | none => s
  | some g => match instOf g n with
    | none => s
    | some i =>
      if i.mode = .ring then
        let me := myMember s g
        let r := rankOf g me
        let m := setSize g
        let nb := (if m = 2 then [(r + 1) % 2] else [(r + 1) % max m 1, (r + m - 1) % max m 1]).map (memberOfRank g me)
        foldS (fun to_ t => sendRing h n to_ member false ctlOffset (ctlPayload 3 status (if status = stSignature then culprit else 0) 0) t)
          (nb.filter (fun x => some x != but && x != me)) s
      else sendCtlEdges h n member 3 status (if status = stSignature then culprit else 0) but s

/-- The instance has ended here and will handle nothing more. -/
def instOver (i : Inst) : Bool := i.aborted.isSome || (i.done && i.chunks.all (fun c => c.2.ended))

/-- End an instance of this module: its slots go back, its data packets are forgotten, the ABORT goes out. The member's
own entry is completed by the caller. -/
def abortInst (h n : W32) (member status culprit : Nat) (but : Option Nat) (s : State) : State :=
  match instAt s h n with
  | none => s
  | some i =>
    if i.aborted.isSome || i.done then s
    else
      let s := releaseSlots h n s
      let peer := match groupAt s h with
        | some g => memberId s g (if status = stSignature then culprit else member)
        | none => 0
      let s := modInst h n (fun i => { i with
        aborted := some status, abortPeer := peer, chunks := [], hops := i.hops.filter (fun p => p.dir == 2) }) s
      let s := bump 0x9043 7 1 s
      let s := if i.mode = .ring then abortOwner (.ring h n) status s else s
      sendAbort h n member status culprit but s

/-- The instance that an entry posted. -/
def instOfEntry (s : State) (q : QRef) (idx : Nat) : Option (W32 × W32) :=
  (s.coll.groups.filterMap (fun p =>
    ((p.2.insts.filter (fun i => decide (i.entry = some (q, idx)))).head?).map (fun i => (p.2.handle, i.num)))).head?

/-- An entry that ended before its instance: the rest of the set is told (assumption 42). -/
def cancelColl (q : QRef) (idx : Nat) (s : State) : State :=
  match instOfEntry s q idx with
  | some (h, n) =>
    match groupAt s h with
    | some g => modInst h n (fun i => { i with entry := none }) (abortInst h n (myMember s g) stCollAborted 0 none s)
    | none => s
  | none => s

end Sys2Proof.Machine
end

