-- ==== Sys2Proof/Machine/Report.lean ====
section
/-! DEFINITION. What the module reports of itself: fault records (R480), emergencies (R460), and FATAL (R51, R478). -/

namespace Sys2Proof.Machine

open Sys2Proof

/-- The 20-byte payload of an emergency, in network byte order (R460, R441). -/
def emergencyBytes (s : State) (ecode edetail : Nat) : Bytes :=
  beBytes 1 ecode ++ beBytes 3 0 ++ beBytes 4 edetail ++ beBytes 8 s.now ++ beBytes 4 (ownId s).toNat

/-- Send an emergency: the first copy now, the second 10 ms later by EMERGENCY_REPEAT (R460). Without the supply of
the field port nothing can be sent (R491). -/
def emergency (ecode edetail : Nat) (s : State) : State :=
  if !s.board.fieldPwr then s else
  let seq := s.ledger.emSeq + 1
  let b := emergencyBytes s ecode edetail
  let s := { s with ledger := { s.ledger with emSeq := seq, emRepeat := s.ledger.emRepeat ++ [(seq, b)] } }
  bump 0x9046 8 1 (outEmit (.emergency seq b) s)

/-- Every running LAUNCH stops at once and is never completed (R478). -/
def stopLaunches (s : State) : State :=
  { s with compute := { s.compute with
      launches := []
      cores := s.compute.cores.map (fun p =>
        if p.2.launch.isSome then
          (p.1, { p.2 with st := .halted, running := [], cmdq := [], stalled := none, launch := none })
        else p) } }

/-- The device goes FATAL (R51, R478): DEVICE_FATAL on the PF's ring, emergency 4, the fault record, and nothing more is
taken or completed. -/
def goFatal (code unit detail : Nat) (s : State) : State :=
  if isFatal s then s else
  let s := raiseOn 0 0x63 code (ownId s) 0 0 0 s
  let s := logFault 5 code unit detail s
  let s := emergency 4 0 s
  let s := stopLaunches s
  { s with board := { s.board with mstate := 2, fatalAt := some s.now } }

end Sys2Proof.Machine
end

