-- ==== Sys2Proof/Machine/Complete.lean ====
section
/-! DEFINITION. Completion: what an entry's end does, the records that report it (R38 to R42), the error flush (R41),
the end of a queue, and the halting of a virtual device (R48, R50, R51). -/

namespace Sys2Proof.Machine

open Sys2Proof

/-! ## Records -/

/-- The number a record gives a queue (R38 `qp`). -/
def recQp (q : QRef) : Nat :=
  match q.kind with
  | .control => 0
  | _ => q.index

/-- The record of a run of entries that ends with `t`. -/
def entryRec (q : QRef) (t : Taken) (status count : Nat) : Rec :=
  mkRec [(0, 1, status), (1, 1, eOp t.entry), (2, 1, t.cflags + (if 1 < count then 1 else 0)), (4, 4, recQp q),
         (8, 2, t.idx), (10, 2, count), (12, 4, t.info.toNat), (16, 8, t.result.toNat), (24, 4, t.peer.toNat)]

/-- Raise CQ_FULL once in an episode (R42, R493). -/
def cqFull (fn ring detail qp : Nat) (s : State) : State :=
  if (cqOf s fn ring).fullRaised then s
  else raiseEvent fn 0x02 detail (ownId s) qp ring 0 (modCq fn ring (fun r => { r with fullRaised := true }) s)

/-- A queue's record is written now: its status is the queue's last (R52). -/
def recWrite (q : QRef) (ring : Nat) (c : Rec) (s : State) : State :=
  cqWriteNow (queueFn q) ring c (modQueue q (fun x => { x with lastStatus := rf c 0 1 }) s)

/-- Write a record in a queue's completion ring, or hold it while there is no room, or the ring is disabled or cannot be
reached (R42, R49, R379). A FATAL device completes nothing further (R51). -/
def emitRec (q : QRef) (c : Rec) (s : State) : State :=
  if isFatal s then s else
  let fn := queueFn q
  let ring := (queueOf s q).cq
  let r := cqOf s fn ring
  if !r.held.isEmpty || r.full || !r.enable || (r.inHost && !(hostOk s)) then
    let s := modCq fn ring (fun r => { r with held := r.held ++ [(q, c)] }) s
    if r.enable && r.full then cqFull fn ring 0 (recQp q) s else s
  else recWrite q ring c s

/-- Write the held records that there is room for, oldest first. -/
def releaseHeld (fn ring : Nat) : Nat → State → State
  | 0, s => s
  | n + 1, s =>
    let r := cqOf s fn ring
    match r.held with
    | [] => s
    | c :: rest =>
      if isFatal s || r.full || !r.enable || (r.inHost && !(hostOk s)) then s
      else releaseHeld fn ring n (recWrite c.1 ring c.2 (setCq fn ring { r with held := rest } s))

/-- How many entries the next record of a queue in service covers, if one is due (R39, R40): up to the first that
carries complete-batch, 4,096, or all of them when the disabled queue has nothing in progress. An entry that ended
OK_PARTIAL or OK_DEGRADED stands alone, and so does a WAIT_COUNT that the disable flushed (R44). -/
def batchLen (closing : Bool) (n : Nat) : List Taken → Option Nat
  | [] => if closing ∧ 0 < n then some n else none
  | t :: r =>
    match t.status with
    | some 0 => if eBatch t.entry || n + 1 == 4096 then some (n + 1) else batchLen closing (n + 1) r
    | some 1 => if n = 0 then some 1 else some n
    | some 2 => if n = 0 then some 1 else some n
    | some st => if closing && eOp t.entry == 0x08 && st == stFlushed then (if n = 0 then some 1 else some n) else none
    | none => none

/-- A queue's number of entries taken and not completed. -/
def inProgress (x : Queue) : Nat := (x.taken.filter (fun t => t.status.isNone)).length

/-- Write every record that is due on a queue in service. -/
def writeBatches (q : QRef) : Nat → State → State
  | 0, s => s
  | fuel + 1, s =>
    let x := queueOf s q
    match batchLen x.closing 0 x.taken with
    | some n =>
      match (x.taken.take n).reverse.head? with
      | some t =>
        let s := modQueue q (fun x => { x with taken := x.taken.drop n }) s
        writeBatches q fuel (emitRec q (entryRec q t (t.status.getD 0) n) s)
      | none => s
    | none => s

/-- The unbroken run of OK entries at the head of a queue. -/
def okRun : List Taken → Nat
  | [] => 0
  | t :: r => if t.status = some 0 then okRun r + 1 else 0

/-- Write the record of the leading OK run (R41 step 1). -/
def writeRun (q : QRef) (s : State) : State :=
  let x := queueOf s q
  let n := okRun x.taken
  match (x.taken.take n).reverse.head? with
  | some t =>
    emitRec q (entryRec q t 0 n) (modQueue q (fun x => { x with taken := x.taken.drop n }) s)
  | none => s

/-- Write one record per entry that has ended, in order, and forget those entries (R41 step 3). -/
def writeEach (q : QRef) (s : State) : State :=
  let ended := (queueOf s q).taken.filter (fun t => t.status.isSome)
  let s := modQueue q (fun x => { x with taken := x.taken.filter (fun t => t.status.isNone) }) s
  foldS (fun t u => emitRec q (entryRec q t (t.status.getD 0) 1) u) ended s

/-! ## What a queue forgets -/

/-- A queue that was disabled returns to RESET once every record is written (R48). -/
def settleQueue (q : QRef) (s : State) : State :=
  let x := queueOf s q
  if x.closing ∧ x.taken = [] ∧
      ((cqOf s (queueFn q) x.cq).held.all (fun c => !(decide (c.1 = q)))) = true then
    modQueue q (fun x => { x with st := .reset, closing := false, hold := .none, heldEntry := none, headSince := none,
                                  doorbellPending := false, scanning := false, rescanAt := none, tornCount := 0,
                                  head := 0, phase := true }) s
  else s

/-- Nothing waits on behalf of an entry any more. -/
def dropWaits (q : QRef) (idx : Nat) (s : State) : State :=
  let s := forgetWaiter (.entry q idx) s
  { s with
    keys := { s.keys with waits := s.keys.waits.filter (fun w => match w with
      | .key _ p i => !(decide (p = q) && i == idx)
      | .settle p i _ => !(decide (p = q) && i == idx)) }
    wall := { s.wall with
      fenceWaits := s.wall.fenceWaits.filter (fun w => !(decide (w = (q, idx))))
      courses := s.wall.courses.map (fun c => match c.waiter with
        | some (p, i, _) => if p = q ∧ i = idx then { c with waiter := none } else c
        | none => c) }
    coll := { s.coll with groups := s.coll.groups.map (fun p =>
      if p.2.destroying = some (q, idx) then (p.1, { p.2 with destroying := none }) else p) } }

/-- The LAUNCHes of an entry: one at most. -/
def launchesOf (s : State) (q : QRef) (idx : Nat) : List Launch :=
  s.compute.launches.filter (fun l => decide (l.q = q) && l.idx == idx && !l.gone)

/-- What an entry sent and what waits for it goes (R41 step 4): its messages are aborted, its instance is aborted, its
waits go. A LAUNCH's cores run on, since R274 names every way in which they end (assumption 71); they report to no
entry any more. -/
def disown (q : QRef) (t : Taken) (status : Nat) (s : State) : State :=
  let s := abortOwner (.entry q t.idx) status s
  let s := dropWaits q t.idx s
  match eOp t.entry with
  | 0x10 => cancelColl q t.idx s
  | 0x20 =>
    foldS (fun l u => if l.loading then endLaunch l.id status u else modLaunch l.id (fun x => { x with gone := true }) u)
      (launchesOf s q t.idx) s
  | _ => s

/-- An entry is abandoned: it is disowned, and its LAUNCH ends (R50). -/
def abandon (q : QRef) (t : Taken) (status : Nat) (s : State) : State :=
  disown q t status (if eOp t.entry = 0x20 then foldS (fun l u => endLaunch l.id status u) (launchesOf s q t.idx) s else s)

/-- The pages an entry holds are let go (R302). -/
def unhold (q : QRef) (t : Taken) (s : State) : State :=
  if t.holds then holdPages (queueFn q) (eLocal t.entry) (eLength t.entry) false s else s

/-! ## An entry completes -/

def takenAt? (s : State) (q : QRef) (idx : Nat) : Option Taken :=
  ((queueOf s q).taken.filter (fun t => t.idx == idx && t.status.isNone)).head?

/-- The length a record reports of an entry (R38 `info`); operations laid out by other chapters have none. -/
def entryInfo (e : Entry) : W32 := if eOp e < 0x80 then BitVec.ofNat 32 (eLength e) else 0

/-! ## The head of a queue in ERROR (R41, R48) -/

/-- Where entry `idx` of a queue stands. -/
def entryPlace (s : State) (q : QRef) (idx : Nat) : MemId × Nat :=
  let x := queueOf s q
  ringPlace (ringSram x.size) (queueKs s q) (ringBase x.baseLo x.baseHi + 64 * idx)

/-- The entry at a queue's head, read afresh. -/
def headEntry (s : State) (q : QRef) : Entry :=
  let (m, a) := entryPlace s q (queueOf s q).head
  BitVec.ofNat 512 (leNat (memRead m a 64 s))

/-- There is room for one more entry in progress, and the completion ring takes records. -/
def roomToTake (s : State) (q : QRef) : Bool :=
  let x := queueOf s q
  let r := cqOf s (queueFn q) x.cq
  decide (inProgress x < 64) && r.held.isEmpty && !r.full

/-- The owned head of a queue in ERROR completes FLUSHED, nothing sent (R48). -/
def flushHead (q : QRef) (e : Entry) (s : State) : State :=
  let x := queueOf s q
  let n := ringNext (ringLog2 x.size) x.head x.phase
  let s := modQueue q (fun x => { x with head := n.1, phase := n.2, hold := .none, heldEntry := none, headSince := none,
                                         tornCount := 0 }) s
  emitRec q (entryRec q { idx := x.head, entry := e, info := entryInfo e } stFlushed 1) s

/-- Owned entries from the head on complete FLUSHED, as far as the completion ring takes records; a head without that
room waits for it, and a torn one for its rescan. -/
def flushOwned (q : QRef) : Nat → State → State
  | 0, s => s
  | n + 1, s =>
    let x := queueOf s q
    let e := headEntry s q
    if eOwner e != x.phase then s
    else if !(eWhole e) then
      modQueue q (fun x => { x with hold := .none, heldEntry := none, tornCount := x.tornCount + 1,
                                    rescanAt := some (s.now + ledN s 0x4100 1), rescanLimit := ledN s 0x4100 2 }) s
    else if roomToTake s q then flushOwned q n (flushHead q e s)
    else modQueue q (fun x => { x with hold := .gate, heldEntry := some e }) s

/-- The entry held at the head of a queue that enters ERROR is a later entry of R41: it is flushed, with the owned
entries behind it. -/
def flushBehind (q : QRef) (s : State) : State :=
  let x := queueOf s q
  if x.heldEntry.isNone || x.closing || !(ringSram x.size || hostOk s) then s else flushOwned q wholeRing s

/-- An entry in progress fails: R41. -/
def failEntry (q : QRef) (t : Taken) (s : State) : State :=
  let x := queueOf s q
  if x.st = .error then settleQueue q (writeEach q s)
  else
    let s := writeBatches q (x.taken.length + 1) s
    let s := writeRun q s
    let x := queueOf s q
    let later := (x.taken.dropWhile (fun u => u.idx != t.idx)).drop 1
    let s := modQueue q (fun x => { x with st := .error, taken := x.taken.filter (fun u => u.idx != t.idx) }) s
    let s := emitRec q (entryRec q t (t.status.getD 0) 1) s
    let flush := later.filter (fun u => u.status.isNone)
    let s := modQueue q (fun x => { x with taken := x.taken.map (fun u =>
      if flush.any (fun v => v.idx == u.idx) then
        { u with status := some stFlushed, info := BitVec.ofNat 32 (eLength u.entry), result := 0, peer := 0,
                 cflags := if u.sent then 4 else 0 }
      else u) }) s
    let s := foldS (fun u v => unhold q u (disown q u stFlushed v)) flush s
    settleQueue q (flushBehind q (writeEach q s))

/-- An entry in progress ends with a status (R39 to R43). Nothing happens for one that is no longer in progress, nor
once the device is FATAL (R51). -/
def completeWith (q : QRef) (idx status : Nat) (info : W32) (result : W64) (peer : W32) (cflags : Nat) (s : State) : State :=
  if isFatal s then s else
  match takenAt? s q idx with
  | none => s
  | some t =>
    let t' := { t with status := some status, info := info, result := result, peer := peer, cflags := cflags }
    let s := modQueue q (fun x => { x with taken := x.taken.map (fun u => if u.idx = idx ∧ u.status.isNone = true then t' else u) }) s
    let s := unhold q t s
    let x := queueOf s q
    let s := if isOkStatus status ∧ q.kind ≠ .admin ∧ bitOf x.size.toNat 28 = true then
        counterAdd (queueFn q) (fieldOf x.size.toNat 16 12) 1 s
      else s
    if isOkStatus status then
      (if x.st = .error then settleQueue q (writeEach q s)
       else settleQueue q (writeBatches q (x.taken.length + 1) s))
    else failEntry q t' (if status = stFlushed then s else abandon q t status s)

/-- Complete an entry with a status, a result and a peer. -/
def complete (q : QRef) (idx status : Nat) (result : W64) (peer : W32) (s : State) : State :=
  match takenAt? s q idx with
  | some t => completeWith q idx status (entryInfo t.entry) result peer 0 s
  | none => s

/-- An entry completes OK. -/
def completeOk (q : QRef) (idx : Nat) (s : State) : State := complete q idx stOk 0 0 s

/-- An entry in progress ends on its own with a status, its queue as it was (R394): its record is written at once, what it
started is abandoned. -/
def completeAside (q : QRef) (idx status : Nat) (s : State) : State :=
  match takenAt? s q idx with
  | none => s
  | some t =>
    let s := modQueue q (fun x => { x with taken := x.taken.filter (fun u => u.idx != idx || u.status.isSome) }) s
    let s := unhold q t (abandon q t status s)
    settleQueue q (emitRec q (entryRec q { t with info := entryInfo t.entry, result := 0, peer := 0, cflags := 0 } status 1) s)

/-! ## The end of a queue (R50) -/

/-- Every entry in progress ends with one status; the OK run gets its record, every other entry its own; the queue
returns to RESET. -/
def endQueue (status : Nat) (q : QRef) (s : State) : State :=
  if isFatal s then s else
  let s := writeRun q s
  let live := (queueOf s q).taken.filter (fun u => u.status.isNone)
  let held := (queueOf s q).heldEntry
  let hold := (queueOf s q).hold
  let headIdx := (queueOf s q).head
  let s := modQueue q (fun x => { x with taken := x.taken.map (fun u =>
      if u.status.isNone then
        { u with status := some status, info := entryInfo u.entry, result := 0, peer := 0,
                 cflags := if status = stFlushed ∧ u.sent = true then 4 else 0 }
      else u) }) s
  let s := foldS (fun u v => unhold q u (abandon q u status v)) live s
  let s := writeEach q s
  let s := match hold, held with
    | .waitCount, some e =>
      emitRec q (entryRec q { idx := headIdx, entry := e } (if status = stFlushed then stFlushed else status) 1) s
    | _, _ => s
  modQueue q (fun x => { x with st := .reset, enable := false, closing := false, hold := .none, heldEntry := none,
                                headSince := none, doorbellPending := false, scanning := false, rescanAt := none,
                                tornCount := 0, head := 0, phase := true }) s

/-- The queues of a function. -/
def queuesOf (s : State) (fn : Nat) : List QRef :=
  (fnOf s fn).sends.map (fun p => { fn := fn, kind := .send, index := p.1 }) ++ [{ fn := fn, kind := .control, index := 0 }]

/-- Every queue of a function ends. -/
def endQueues (fn status : Nat) (s : State) : State := foldS (endQueue status) (queuesOf s fn) s

/-! ## Malformed entries (R29, R50, R51) -/

def kindCode (k : QKind) : Nat :=
  match k with
  | .send => 0 | .control => 1 | .admin => 4

/-- Every LAUNCH of a function ends, those that report to no entry among them. -/
def endLaunches (fn status : Nat) (s : State) : State :=
  foldS (fun l t => endLaunch l.id status t) (s.compute.launches.filter (fun l => l.fn == fn)) s

/-- The virtual device halts. -/
def haltVdev (q : QRef) (status : Nat) (s : State) : State :=
  let s := endLaunches q.fn stFlushed (endQueues q.fn stFlushed s)
  let s := modFn q.fn (fun f => { f with vstate := .halted, haltStatus := status }) s
  let ev := fun f t => raiseOn f 0x04 status (ownId t) q.fn (kindCode q.kind) q.index t
  if q.fn = 0 then ev 0 s else ev 0 (ev q.fn s)

/-- A malformed entry at the head of a queue: its own record after the OK run before it; then the virtual device halts,
or the device goes FATAL. -/
def malformed (q : QRef) (e : Entry) (s : State) : State :=
  let x := queueOf s q
  let s := writeRun q s
  let s := emitRec q (entryRec q { idx := x.head, entry := e, info := entryInfo e } stMalformed 1) s
  match q.kind with
  | .admin => goFatal 1 0 (q.index + x.head * 2 ^ 32) s
  | _ => haltVdev q stMalformed s

end Sys2Proof.Machine
end

