-- ==== Sys2Proof/Machine/Take.lean ====
section
/-! DEFINITION. Taking an entry from a ring: eligibility (R36), the fence flag and the holds (R37, R44), the shaper gate
(R147, R163), and the advance of the head (R31). -/

namespace Sys2Proof.Machine

open Sys2Proof

/-! ## Class shapers (R162, R163) -/

def shaperKey (ks fn cls : Nat) : Nat := (ks * 2048 + fn) * 8 + cls
def shaperOf (s : State) (ks fn cls : Nat) : Shaper := tget {} s.shapers (shaperKey ks fn cls)
def modShaper (ks fn cls : Nat) (g : Shaper → Shaper) (s : State) : State :=
  { s with shapers := tset s.shapers (shaperKey ks fn cls) (g (shaperOf s ks fn cls)) }

/-- A shaper permits: it is disabled, or its credit is not negative. -/
def shaperOpen (s : State) (ks fn cls : Nat) : Bool :=
  let h := shaperOf s ks fn cls
  h.slope == 0 || decide (0 ≤ h.credit)

/-- Charge a packet of `len` charged bytes; c never falls below −8 × lo_credit. -/
def shaperCharge (ks fn cls len : Nat) (s : State) : State :=
  if (shaperOf s ks fn cls).slope = 0 then s else
  modShaper ks fn cls (fun h =>
    { h with active := true, credit := max (-(Int.ofNat (8 * h.lo))) (h.credit - Int.ofNat (8 * len)) }) s

/-- A packet or an entry waits for credit. -/
def shaperWaits (ks fn cls : Nat) (s : State) : State :=
  if (shaperOf s ks fn cls).slope = 0 then s else modShaper ks fn cls (fun h => { h with active := true }) s

/-- The class an entry's packets use (R162), none for an entry without network traffic. -/
def entryClass (s : State) (e : Entry) : Option Nat :=
  match eOp e with
  | 0x08 => none | 0x09 => none | 0x0A => none | 0x20 => none
  | 0x10 => (groupAt s (eKey e)).map (fun g => g.tc)
  | n => if n < 0x80 then some (eClass e) else none

/-- The destination module an entry names, none when it names no module. -/
def destOf (e : Entry) : Option W32 :=
  let n := eOp e
  if (1 ≤ n ∧ n ≤ 7) ∨ n = 0x21 then some (eDest e) else none

/-! ## Eligibility (R36, R42, R48, R379, R394, R468) -/

/-- The queue's function may run work. -/
def fnRuns (s : State) (q : QRef) : Bool :=
  let v := (fnOf s q.fn).vstate
  match q.kind with
  | .admin => true
  | .control => (match v with
    | .active => true
    | .none => q.fn == 0
    | _ => false) && !((fnOf s q.fn).flrDraining)
  | .send => (match v with
    | .active => true
    | _ => false) && !((fnOf s q.fn).flrDraining)

/-- The device may take from this queue now, whatever its head holds. -/
def queueServed (s : State) (q : QRef) : Bool :=
  let x := queueOf s q
  isReady s && !s.power.thermtrip && x.enable && x.st == .active && !x.closing && fnRuns s q && (ringSram x.size || hostOk s)

/-- The head entry is owned, whole, and the one that is offered. -/
def headIs (s : State) (q : QRef) (e : Entry) : Bool :=
  let x := queueOf s q
  eWhole e && eOwner e == x.phase && (x.heldEntry.isNone || x.heldEntry == some e)

def entryShaped (s : State) (q : QRef) (e : Entry) : Bool :=
  match entryClass s e with
  | some c => shaperOpen s (queueKs s q) (queueFn q) c
  | none => true

/-- The fence flag holds the entry (R37): an earlier entry to the same module has not completed. An entry that names no
module waits for every earlier one. -/
def fenceBlocks (s : State) (q : QRef) (e : Entry) : Bool :=
  eFence e && (queueOf s q).taken.any (fun t => t.status.isNone &&
    (match destOf e with
     | some d => destOf t.entry == some d
     | none => true))

/-- A FENCE waits for every earlier entry. -/
def anyEarlier (s : State) (q : QRef) : Bool := (queueOf s q).taken.any (fun t => t.status.isNone)

/-! ## Taking -/

/-- The head stays; when it was first found so is noted (R169). -/
def keepHead (h : Hold) (e : Entry) (q : QRef) (s : State) : State :=
  modQueue q (fun x => { x with
    hold := h
    heldEntry := if h = .none then x.heldEntry else some e
    headSince := match x.headSince with
      | some t => some t
      | none => some s.now }) s

/-- Take the head: the entry joins the entries in progress, the head moves on (R31). -/
def advanceHead (e : Entry) (q : QRef) (s : State) : State :=
  modQueue q (fun x =>
    let n := ringNext (ringLog2 x.size) x.head x.phase
    { x with head := n.1, phase := n.2, hold := .none, heldEntry := none, headSince := none, tornCount := 0,
             taken := x.taken ++ [{ idx := x.head, entry := e, takenAt := s.now,
                                    info := entryInfo e }] }) s

/-- A WAIT_COUNT holds its queue's head until the counter has reached the target (R44). -/
def waitCountHold (s : State) (q : QRef) (e : Entry) : Hold :=
  if counterReached (counterOf s (queueFn q) (eCounter e)) (eTarget e) then .none else .waitCount

def fenceHold (s : State) (q : QRef) (_ : Entry) : Hold := if anyEarlier s q then .fence else .none

/-- VDEV operations of one virtual device run one at a time (R391). -/
def vdevHold (s : State) (_ : QRef) (e : Entry) : Hold := if (fnOf s (eVdev e)).vop.isSome then .head else .none

/-- What holds an entry of an admin ring, beyond the conditions that every entry shares. -/
def adminHold (s : State) (q : QRef) (e : Entry) : Hold :=
  match eOp e with
  | 0x08 => waitCountHold s q e
  | 0x09 => fenceHold s q e
  | n => if 0x80 ≤ n ∧ n ≤ 0x85 then vdevHold s q e else .none

/-- An admin ring has a ready entry (R34): its head was found owned and whole, and what held it there has ended. -/
def adminReady (s : State) : Bool :=
  s.admins.any (fun p =>
    let q : QRef := { fn := 0, kind := .admin, index := p.1 }
    match p.2.heldEntry with
    | some e => queueServed s q && roomToTake s q && !(fenceBlocks s q e) && adminHold s q e == .none
    | none => false)

/-- Offer the head entry of a queue: it is taken and started, held, found malformed, or left where it is. A malformed entry is
found before anything can hold it (DESIGN CHOICE, assumption 74); a tenant's entry waits for a ready admin entry (R34). -/
def offer (hold : State → QRef → Entry → Hold) (start : QRef → Nat → Entry → State → State) (q : QRef) (e : Entry)
    (s : State) : State :=
  if !(queueServed s q && headIs s q e) then s
  else if entryMalformed s q e then
    malformed q e (modQueue q (fun x => { x with hold := .none, heldEntry := none }) s)
  else if !(roomToTake s q) then keepHead .gate e q s
  else if fenceBlocks s q e then keepHead .fenceFlag e q s
  else if q.kind != .admin && adminReady s then keepHead .gate e q s
  else if !(entryShaped s q e) then
    (match entryClass s e with
     | some c => shaperWaits (queueKs s q) (queueFn q) c (keepHead .gate e q s)
     | none => s)
  else match hold s q e with
    | .none =>
      let idx := (queueOf s q).head
      start q idx e (advanceHead e q s)
    | h => keepHead h e q s

/-- No condition of its own holds the entry. -/
def noHold (_ : State) (_ : QRef) (_ : Entry) : Hold := .none

end Sys2Proof.Machine
end

