-- ==== Sys2Proof/Machine/DataEntries.lean ====
section
/-! DEFINITION. The data opcodes of a send queue but MULTICAST_WRITE, COLLECTIVE and LAUNCH (R27): WRITE, WRITE_SIGNAL,
READ, FETCH_ADD, COMPARE_SWAP, SEND, WAIT_COUNT, FENCE, LOCAL_COPY, SIGNAL_ONLY. -/

namespace Sys2Proof.Machine

open Sys2Proof

/-! ## Sending an entry's messages -/

/-- The module can send to a destination: it holds a position (R183), and the destination's wall has an address (R100). -/
def destReady (s : State) (d : W32) : Bool := s.wall.pos.isSome && (!(ethFormOf s d) || (wallEntry s (idWall d)).isSome)

/-- A message of an entry, its range apart. -/
def entryProto (s : State) (q : QRef) (idx : Nat) (e : Entry) (t : PType) (x : PExt) (src : Source) : TxMsg :=
  { msgId := 0, owner := .entry q idx, ptype := t, ext := x, src := src, start := 0, len := 0, pktCount := 1, segment := 1,
    solicit := eSolicit e, secure := eSecure e, sig := if eSignalled e then some (eSignal e) else none,
    dstQp := eDestQp e, tc := eClass e, fn := queueFn q }

/-- The extension of a data opcode (R87). -/
def entryExt (s : State) (q : QRef) (e : Entry) : PExt :=
  let op := eOp e
  let qp := globalQp s q
  let off := BitVec.ofNat 64 (eOffset e)
  if op = 0x03 then .data (eKey e) off qp op (BitVec.ofNat 64 (eLength e)) 0
  else if op = 0x04 then .data (eKey e) off qp op (eArgA e) 0
  else if op = 0x05 then .data (eKey e) off qp op (eArgA e) (eArgB e)
  else if op = 0x06 then .data (BitVec.ofNat 32 (eImm e)) 0 qp op 0 0
  else if op = 0x21 then .data 0 0 qp op 0 0
  else .data (eKey e) off qp op 0 0

/-- The packet type of an opcode's message. -/
def entryPtype (op : Nat) : PType :=
  if op = 0x03 then .readRequest else if op = 0x04 ∨ op = 0x05 then .atomic else .data

/-- Bytes that an opcode's own message carries. -/
def entryPayload (e : Entry) : Nat :=
  let op := eOp e
  if op = 0x01 ∨ op = 0x02 ∨ op = 0x06 then eLength e else 0

/-- An entry's message joins the context of its destination (R115); a READ or an atomic also waits for its response
(R131). Without a free context the entry waits (R117). -/
def sendEntry (q : QRef) (idx : Nat) (e : Entry) (s : State) : State :=
  let d := eDest e
  if !(destReady s d) then complete q idx stFenced 0 0 s else
  match allocCtx d s with
  | (false, s) => modQueue q (fun x => { x with taken := x.taken.map (fun t =>
      if t.idx = idx ∧ t.status.isNone = true then { t with waitsContext := true } else t) }) s
  | (true, s) =>
    let s := modQueue q (fun x => { x with taken := x.taken.map (fun t =>
      if t.idx = idx ∧ t.status.isNone = true then { t with waitsContext := false } else t) }) s
    let id := nextMsgId s d
    let p := entryProto s q idx e (entryPtype (eOp e)) (entryExt s q e) (.va (queueFn q) (BitVec.ofNat 64 (eLocal e)))
    let s := queueMsgs d p (entryPayload e) s
    if eOp e = 0x03 ∨ eOp e = 0x04 ∨ eOp e = 0x05 then
      modCtx d (fun c => { c with reqs := c.reqs ++
        [{ msgId := id, owner := .entry q idx, fn := queueFn q, localVa := BitVec.ofNat 64 (eLocal e),
           length := eLength e }] }) s
    else s

/-! ## WRITE, WRITE_SIGNAL, SEND, SIGNAL_ONLY -/

/-- Segment and right of the whole source are checked when the entry is taken (R303); residency follows as packets are
built. -/
def startWrite (q : QRef) (idx : Nat) (e : Entry) (s : State) : State :=
  match xlateRights s (queueFn q) (eLocal e) (eLength e) false with
  | .fault st a => complete q idx st (BitVec.ofNat 64 a) 0 s
  | _ => sendEntry q idx e s

/-- WRITE (R27). -/
def execWrite (q : QRef) (e : Entry) (s : State) : Host.Outcome State Fault Refusal :=
  .next (if eOp e = 0x01 then offer noHold startWrite q e s else s)

/-- WRITE_SIGNAL (R27): a WRITE whose last packet carries the signal. -/
def execWriteSignal (q : QRef) (e : Entry) (s : State) : Host.Outcome State Fault Refusal :=
  .next (if eOp e = 0x02 then offer noHold startWrite q e s else s)

/-- SEND (R27). -/
def execSend (q : QRef) (e : Entry) (s : State) : Host.Outcome State Fault Refusal :=
  .next (if eOp e = 0x06 then offer noHold startWrite q e s else s)

/-- SIGNAL_ONLY (R209): one packet that carries only a signal. -/
def execSignalOnly (q : QRef) (e : Entry) (s : State) : Host.Outcome State Fault Refusal :=
  .next (if eOp e = 0x21 then offer noHold sendEntry q e s else s)

/-! ## READ and the atomics -/

/-- The whole local range is translated for writing, and held, before the request is sent (R303). Pages that are not
resident are asked for, and the entry is reissued when they are. -/
def startRead (q : QRef) (idx : Nat) (e : Entry) (s : State) : State :=
  let fn := queueFn q
  match xlate s fn (eLocal e) (eLength e) true with
  | .fault st a => complete q idx st (BitVec.ofNat 64 a) 0 s
  | .absent g ps => askPages (queueKs s q) 0 fn g (eLocal e) ps (.entry q idx) s
  | .ok =>
    let s := vtouch (ksAgent (queueKs s q)) fn (eLocal e) (eLength e) s
    let s := holdPages fn (eLocal e) (eLength e) true s
    let s := modQueue q (fun x => { x with taken := x.taken.map (fun t =>
      if t.idx = idx ∧ t.status.isNone = true then { t with holds := true } else t) }) s
    sendEntry q idx e s

/-- READ (R89). -/
def execRead (q : QRef) (e : Entry) (s : State) : Host.Outcome State Fault Refusal :=
  .next (if eOp e = 0x03 then offer noHold startRead q e s else s)

/-- FETCH_ADD (R90). -/
def execFetchAdd (q : QRef) (e : Entry) (s : State) : Host.Outcome State Fault Refusal :=
  .next (if eOp e = 0x04 then offer noHold startRead q e s else s)

/-- COMPARE_SWAP (R90). -/
def execCompareSwap (q : QRef) (e : Entry) (s : State) : Host.Outcome State Fault Refusal :=
  .next (if eOp e = 0x05 then offer noHold startRead q e s else s)

/-! ## WAIT_COUNT and FENCE -/

def startDone (q : QRef) (idx : Nat) (_ : Entry) (s : State) : State := completeOk q idx s

/-- WAIT_COUNT (R44). -/
def execWaitCount (q : QRef) (e : Entry) (s : State) : Host.Outcome State Fault Refusal :=
  .next (if eOp e = 0x08 then offer waitCountHold startDone q e s else s)

/-- FENCE (R37). -/
def execFence (q : QRef) (e : Entry) (s : State) : Host.Outcome State Fault Refusal :=
  .next (if eOp e = 0x09 then offer fenceHold startDone q e s else s)

/-! ## LOCAL_COPY -/

/-- Bytes of a LOCAL_COPY have been copied. -/
def setCopied (q : QRef) (idx n : Nat) (s : State) : State :=
  modQueue q (fun x => { x with taken := x.taken.map (fun t =>
    if t.idx = idx ∧ t.status.isNone = true then { t with copied := n } else t) }) s

/-- Copy on, page by page: each piece once the page of its source and that of its destination are resident (R303). -/
def copyOn (q : QRef) (idx : Nat) (e : Entry) : Nat → State → State
  | 0, s => s
  | fuel + 1, s =>
    match takenAt? s q idx with
    | none => s
    | some t =>
      let fn := queueFn q
      let ks := queueKs s q
      let n := eLength e
      if n ≤ t.copied then completeOk q idx s else
      let src := eLocal e + t.copied
      let dst := eOffset e + t.copied
      let k := min (n - t.copied) (min (pageBytes - src % pageBytes) (pageBytes - dst % pageBytes))
      match xlate s fn src k false, xlate s fn dst k true with
      | .fault st a, _ => complete q idx st (BitVec.ofNat 64 a) 0 s
      | _, .fault st a => complete q idx st (BitVec.ofNat 64 a) 0 s
      | .absent g ps, _ => askPages ks 0 fn g src ps (.entry q idx) s
      | _, .absent g ps => askPages ks 0 fn g dst ps (.entry q idx) s
      | _, _ =>
        let s := vtouch (ksAgent ks) fn dst k (vtouch (ksAgent ks) fn src k s)
        match getVa s fn src k with
        | .ok b => copyOn q idx e fuel (setCopied q idx (t.copied + k) (vwrite fn dst b s))
        | .fault st a => complete q idx st (BitVec.ofNat 64 a) 0 (badEvent fn src k s)
        | .absent _ _ => s

/-- LOCAL_COPY: segment and right of both ranges are checked when the entry is taken; then the bytes are copied (R303). -/
def startCopy (q : QRef) (idx : Nat) (e : Entry) (s : State) : State :=
  let fn := queueFn q
  let n := eLength e
  match xlateRights s fn (eLocal e) n false, xlateRights s fn (eOffset e) n true with
  | .fault st a, _ => complete q idx st (BitVec.ofNat 64 a) 0 s
  | _, .fault st a => complete q idx st (BitVec.ofNat 64 a) 0 s
  | _, _ => copyOn q idx e (2 * (n / pageBytes) + 4) s

/-- LOCAL_COPY (R303). -/
def execLocalCopy (q : QRef) (e : Entry) (s : State) : Host.Outcome State Fault Refusal :=
  .next (if eOp e = 0x0A then offer noHold startCopy q e s else s)

end Sys2Proof.Machine
end

