-- ==== Sys2Proof/Machine/Paging.lean ====
section
/-! DEFINITION. Moving pages of migratory segments between host memory and the device (R306 to R309). -/

namespace Sys2Proof.Machine

open Sys2Proof

/-- Copy `n` bytes from one memory to another. -/
def memCopy (src : MemId) (a : Nat) (dst : MemId) (b n : Nat) (s : State) : State :=
  let cells := (memGet src s).filter (fun c => decide (a ≤ c.1) && decide (c.1 < a + n))
  let s := memZero dst b n s
  memSet dst (cells.foldl (fun m c => mwrite m (b + (c.1 - a)) c.2) (memGet dst s)) s

/-- Where a page's host copy and its frame lie. -/
def pageHost (s : State) (fn seg p : Nat) : Nat := (segHostBase (segOf s fn seg) + p * pageBytes) % 2 ^ 64
def frameAddr (f : Nat) : Nat := f * pageBytes

/-- Granules of a frame that read uncorrectable. -/
def badGranules (s : State) (m : MemId) (a n : Nat) : List Nat :=
  (s.mems.bad.filter (fun k => decide (memCode m * 2 ^ 48 + a ≤ k) && decide (k < memCode m * 2 ^ 48 + a + n))).map
    (fun k => k - memCode m * 2 ^ 48)

/-- Write a dirty page back over its host copy: a granule that reads uncorrectable is written as zeros, with its event
(R308, R314). -/
def writeBack (fn seg p : Nat) (s : State) : State :=
  let g := segOf s fn seg
  let m := tierMem g.tier
  let f := frameAddr (pageOf s fn seg p).frame
  let h := pageHost s fn seg p
  let bads := badGranules s m f pageBytes
  let s := bump 0x9070 5 1 (memCopy m f .host h pageBytes s)
  let s := modPage fn seg p (fun x => { x with dirty := false }) s
  foldS (fun a t => memEvent fn (memCode m + 0x80) seg (segBase g + p * pageBytes + (a - f))
    (memZero .host (h + (a - f)) (granule m) t)) bads s

/-- A page can be the victim of an eviction (R307). -/
def evictable (x : Page) : Bool := x.resident && x.pins == 0 && x.held == 0 && !x.migrating

/-- Stamp `a` is older than `b`, by their serial distances to the present modulo 2^28: R306 keeps every stamp less than 2^28 back
(DEDUCED, assumption 82). -/
def stampOlder (now a b : Nat) : Bool :=
  decide ((now + 2 ^ 28 - b % 2 ^ 28) % 2 ^ 28 < (now + 2 ^ 28 - a % 2 ^ 28) % 2 ^ 28)

/-- The victim: the page of the function and tier with the oldest stamp, outside `keep`. -/
def victimOf (s : State) (fn tier : Nat) (keep : Nat → Bool) : Option (Nat × Nat) :=
  let able := (fnOf s fn).pages.filter (fun p =>
    evictable p.2 && (segOf s fn (p.1 / 2 ^ 20)).tier == tier && !(keep p.1))
  (able.foldl (fun best p => match best with
    | none => some p
    | some b => if stampOlder (stampNow s) p.2.stamp b.2.stamp then some p else some b) none).map
      (fun p => (p.1 / 2 ^ 20, p.1 % 2 ^ 20))

/-- The page leaves the device: its entry is cleared, its pins apart. -/
def dropPage (fn seg p : Nat) (s : State) : State :=
  modPage fn seg p (fun x => { x with resident := false, dirty := false, frame := 0 }) (uncachePage fn seg p s)

/-- Evict a page now: a dirty one is written back first. -/
def evictPage (fn seg p : Nat) (s : State) : State :=
  let s := bump 0x9070 4 1 s
  let s := uncachePage fn seg p s
  dropPage fn seg p (if (pageOf s fn seg p).dirty then writeBack fn seg p s else s)

/-- Read a page from host memory into a frame. -/
def loadPage (fn seg p frame : Nat) (s : State) : State :=
  let s := memCopy .host (pageHost s fn seg p) (tierMem (segOf s fn seg).tier) (frameAddr frame) pageBytes s
  modPage fn seg p (fun x => { x with resident := true, dirty := false, migrating := false, frame := frame,
                                      stamp := stampNow s }) s

/-- Move a resident page to another frame. -/
def movePage (fn seg p frame : Nat) (s : State) : State :=
  let x := pageOf s fn seg p
  let m := tierMem (segOf s fn seg).tier
  let s := uncachePage fn seg p s
  let s := if x.frame = frame then s else memCopy m (frameAddr x.frame) m (frameAddr frame) pageBytes s
  modPage fn seg p (fun x => { x with frame := frame }) s

end Sys2Proof.Machine
end

