-- ==== Sys2Proof/Machine/KeyOps.lean ====
section
/-! DEFINITION. Keys: registration, windows, revocation and its drain, SETTLE, and the return of receive slots
(R54 to R70, R75 to R78). -/

namespace Sys2Proof.Machine

open Sys2Proof

/-- A key's index and generation (R54). -/
def keyIdx (k : W32) : Nat := k.toNat % 65536
def keyGen (k : W32) : W16 := BitVec.ofNat 16 (k.toNat / 65536)
def mkKey (i : Nat) (g : W16) : W32 := BitVec.ofNat 32 (g.toNat * 65536 + i)

/-- The key is current (R66). -/
def keyCurrent (s : State) (k : W32) : Bool :=
  let e := keyOf s (keyIdx k)
  keyIdx k != 0 && e.valid && e.generation == keyGen k

/-- The generation after this one (R56). -/
def nextGen (g : W16) : W16 := if g = 0xFFFF then 1 else g + 1

/-- Entries of a range that count against an owner's grant (R55). -/
def keysUsed (s : State) (fn : Nat) (window : Bool) : Nat :=
  (s.keys.table.filter (fun p => (p.2.valid || p.2.revoking) && p.2.owner == fn && p.2.window == window)).length

def keyGrant (s : State) (fn : Nat) (window : Bool) : Nat :=
  match grantOf s fn with
  | some g => if window then g.windowKeys else g.regionKeys
  | none => 0

/-- The head of a range's free list: indices never allocated come before freed ones (R56). -/
def allocKey (window : Bool) (s : State) : Option (Nat × State) :=
  let k := s.keys
  if window then
    if k.windowFresh < 65536 then some (k.windowFresh, { s with keys := { k with windowFresh := k.windowFresh + 1 } })
    else match k.windowFreed with
      | [] => none
      | i :: t => some (i, { s with keys := { k with windowFreed := t } })
  else
    if k.regionFresh < 0xC000 then some (k.regionFresh, { s with keys := { k with regionFresh := k.regionFresh + 1 } })
    else match k.regionFreed with
      | [] => none
      | i :: t => some (i, { s with keys := { k with regionFreed := t } })

/-- An index joins the tail of its range's free list. -/
def freeKey (i : Nat) (s : State) : State :=
  if 0xC000 ≤ i then { s with keys := { s.keys with windowFreed := s.keys.windowFreed ++ [i] } }
  else { s with keys := { s.keys with regionFreed := s.keys.regionFreed ++ [i] } }

/-! ## Registration (R60 to R63) -/

def eKeyLen (e : Entry) : Nat := ef e 4 4 * 256

/-- The local refusals of R61 but the grant: the faulting address. -/
def keyRefusal (s : State) (fn : Nat) (window : Bool) (e : Entry) : Option Nat :=
  let va := eLocal e
  let len := eKeyLen e
  let r := eRights e
  let wrong :=
    if eKeyTarget e = 1 then
      if bitOf r 2 || !(decide (eKeyCore e < coresFitted s.part) && coreFn s (eKeyCore e) == some fn) ||
          decide (2 ^ 22 < va + len) then some va else none
    else match segHolding s fn va len with
      | none => some (firstOutside s fn va)
      | some i =>
        let g := segOf s fn i
        if g.tier = 2 || ((bitOf r 0 || bitOf r 3) && !g.write) || (bitOf r 1 && !g.read) ||
            (window && g.migratory) then some va else none
  match wrong with
  | some a => some a
  | none => match xlateRights s fn (eKeyAddr e) 4 true with
    | .fault st a => if st = stLocalAccess then some a else none
    | _ => none

/-- The pages of a registration of a migratory segment brought into a contiguous run of frames and pinned (R62, R307). Where pages
of an earlier region lie outside such a run they move into the new one, and the earlier key's entry keeps its base (DESIGN CHOICE,
assumption 80). The fuel bounds the evictions. -/
def pinRun (fn seg : Nat) (ps : List Nat) : Nat → State → Option (Nat × State)
  | 0, _ => none
  | fuel + 1, s =>
    let g := segOf s fn seg
    let n := ps.length
    let inside := (ps.filter (fun p => (pageOf s fn seg p).resident)).length
    let first := (ps.head?).getD 0
    let here := (pageOf s fn seg first).frame
    if inside = n && (ps.all (fun p => (pageOf s fn seg p).frame == here + (p - first))) then
      some (here, foldS (fun p t => modPage fn seg p (fun x => { x with pins := x.pins + 1 }) t) ps s)
    else if framesUsed s fn g.tier - inside + n ≤ quotaOf s fn g.tier then
      match freeRun s g.tier n with
      | some a =>
        let s := foldS (fun p t =>
          if (pageOf t fn seg p).resident then movePage fn seg p (a + (p - first)) t
          else loadPage fn seg p (a + (p - first)) t) ps s
        some (a, foldS (fun p t => modPage fn seg p (fun x => { x with pins := x.pins + 1 }) t) ps s)
      | none => match victimOf s fn g.tier (fun k => k / 2 ^ 20 == seg && ps.contains (k % 2 ^ 20)) with
        | some (vs, vp) => pinRun fn seg ps fuel (evictPage fn vs vp s)
        | none => none
    else match victimOf s fn g.tier (fun k => k / 2 ^ 20 == seg && ps.contains (k % 2 ^ 20)) with
      | some (vs, vp) => pinRun fn seg ps fuel (evictPage fn vs vp s)
      | none => none

/-- Write the entry, then the key at its address, then complete (R63). -/
def installKey (q : QRef) (idx : Nat) (e : Entry) (window : Bool) (tier base : Nat) (pinned : Option (Nat × Nat × Nat))
    (s : State) : State :=
  match allocKey window s with
  | none => complete q idx stLocalAccess 0 0 s
  | some (i, s) =>
    let r := eRights e
    let gen := (keyOf s i).generation
    let s := setKey i { generation := gen, owner := q.fn, valid := true, window := window, recvArea := bitOf r 3,
                        rights := r % 8, tier := tier, base := base, length := ef e 4 4, pinned := pinned } s
    let s := vwrite q.fn (eKeyAddr e) (leBytes 4 (mkKey i gen).toNat) s
    completeOk q idx s

/-- REGION_REGISTER and WINDOW_OPEN once taken. The page of `key_address` is held while others are brought in (R302). -/
def startKey (window : Bool) (q : QRef) (idx : Nat) (e : Entry) (s : State) : State :=
  let fn := q.fn
  let va := eLocal e
  let len := eKeyLen e
  match keyRefusal s fn window e with
  | some a => complete q idx stLocalAccess (BitVec.ofNat 64 a) 0 s
  | none =>
    if keyGrant s fn window ≤ keysUsed s fn window then complete q idx stLocalAccess 0 0 s else
    match xlate s fn (eKeyAddr e) 4 true with
    | .absent g ps => askPages (queueKs s q) 2 fn g (eKeyAddr e) ps (.entry q idx) s
    | .fault st a => complete q idx st (BitVec.ofNat 64 a) 0 s
    | .ok =>
      let s := vtouch (ksAgent (queueKs s q)) fn (eKeyAddr e) 4 s
      if eKeyTarget e = 1 then installKey q idx e window 2 (scratchBase (eKeyCore e) + va) none s
      else match segHolding s fn va len with
        | none => s
        | some i =>
          let g := segOf s fn i
          let off := va - segBase g
          if !g.migratory then installKey q idx e window g.tier (g.tierBase + off) none s
          else
            let ps := pagesOf off len
            if ps.any (fun p => (pageOf s fn i p).lost) then complete q idx stMemory (BitVec.ofNat 64 va) 0 s
            else if ps.any (fun p => (pageOf s fn i p).migrating) then
              askPages (queueKs s q) 2 fn i va (ps.filter (fun p => (pageOf s fn i p).migrating)) (.entry q idx) s
            else if ps.any (fun p => (pageOf s fn i p).pins == 4095) then
              complete q idx stTranslation (BitVec.ofNat 64 va) 0 s
            else if (!(hostOk s) || g.migrationsFail) && ps.any (fun p => !(pageOf s fn i p).resident) then
              complete q idx stHostLost (BitVec.ofNat 64 va) 0 s
            else
              let hold (up : Bool) (t : State) : State := holdPages fn (eKeyAddr e) 4 up t
              match pinRun fn i ps ((fnOf s fn).pages.length + 1) (hold true s) with
              | none => complete q idx stTranslation (BitVec.ofNat 64 va) 0 s
              | some (a, t) =>
                let s := hold false t
                installKey q idx e window g.tier (frameAddr a + off % pageBytes)
                  (some (i, (ps.head?).getD 0, ps.length)) s

/-- REGION_REGISTER (R61 to R63). -/
def execRegionRegister (q : QRef) (e : Entry) (s : State) : Host.Outcome State Fault Refusal :=
  .next (if eOp e = 0x88 then offer noHold (startKey false) q e s else s)

/-- WINDOW_OPEN (R61 to R63). -/
def execWindowOpen (q : QRef) (e : Entry) (s : State) : Host.Outcome State Fault Refusal :=
  .next (if eOp e = 0x8A then offer noHold (startKey true) q e s else s)

/-! ## Revocation (R64 to R66) -/

/-- Step 1 of R65: the generation advances, `valid` goes, `revoking` is set; bindings that hold the key are stale
(R323). -/
def revokeKey (i : Nat) (s : State) : State :=
  let e := keyOf s i
  let s := staleBindings (mkKey i e.generation) s
  setKey i { e with generation := nextGen e.generation, valid := false, revoking := true } s

/-- Nothing admitted under an index is still in progress (R72). -/
def keyDrained (s : State) (i : Nat) : Bool := s.enpin.adms.all (fun a => a.keyIndex != i)

/-- Unpin the pages of a region (R64). -/
def unpinKey (e : KeyEntry) (s : State) : State :=
  match e.pinned with
  | some (seg, first, n) =>
    foldS (fun p t => modPage e.owner seg p (fun x => { x with pins := x.pins - 1 }) t) (rangeFrom first n) s
  | none => s

/-- Steps 2 and 3: a drained index is freed, and the entries that waited for it complete OK. -/
def endDrain (i : Nat) (s : State) : State :=
  let e := keyOf s i
  if e.revoking && keyDrained s i then
    let s := unpinKey e s
    let s := setKey i { generation := e.generation } s
    let s := freeKey i s
    let mine := s.keys.waits.filter (fun w => match w with
      | .key j _ _ => j == i
      | _ => false)
    let s := { s with keys := { s.keys with waits := s.keys.waits.filter (fun w => !(mine.contains w)) } }
    foldS (fun w t => match w with
      | .key _ q idx => completeOk q idx t
      | .settle _ _ _ => t) mine s
  else s

/-- REGION_DEREGISTER and WINDOW_REVOKE once taken. -/
def startRevoke (window : Bool) (q : QRef) (idx : Nat) (e : Entry) (s : State) : State :=
  let k := eKey e
  let i := keyIdx k
  let x := keyOf s i
  let wait (t : State) : State := { t with keys := { t.keys with waits := t.keys.waits ++ [.key i q idx] } }
  if keyCurrent s k then
    if (x.owner ≠ q.fn ∧ q.fn ≠ 0) ∨ x.window ≠ window then complete q idx stLocalAccess 0 0 s
    else wait (revokeKey i s)
  else if x.revoking then wait s
  else completeOk q idx s

/-- REGION_DEREGISTER (R64, R66). -/
def execRegionDeregister (q : QRef) (e : Entry) (s : State) : Host.Outcome State Fault Refusal :=
  .next (if eOp e = 0x89 then offer noHold (startRevoke false) q e s else s)

/-- WINDOW_REVOKE (R65, R66). -/
def execWindowRevoke (q : QRef) (e : Entry) (s : State) : Host.Outcome State Fault Refusal :=
  .next (if eOp e = 0x8B then offer noHold (startRevoke true) q e s else s)

/-- KEY_DRAIN_END: the last access admitted under a revoked index has ended (R65). -/
def execKeyDrainEnd (index : Nat) (s : State) : Host.Outcome State Fault Refusal := .next (endDrain index s)

/-! ## SETTLE (R76) -/

def startSettle (q : QRef) (idx : Nat) (_ : Entry) (s : State) : State :=
  { s with keys := { s.keys with waits := s.keys.waits ++ [.settle q idx s.enpin.admNext] } }

/-- SETTLE: accepted when it is taken. -/
def execSettle (q : QRef) (e : Entry) (s : State) : Host.Outcome State Fault Refusal :=
  .next (if eOp e = 0x8C then offer noHold startSettle q e s else s)

/-- The `vdev` of a write that is no access to a key: a response's data (R140). -/
def localAccess : Nat := 0xFFFF

/-- Every access that a SETTLE waits for has ended. -/
def settled (s : State) (fn upTo : Nat) : Bool :=
  s.enpin.adms.all (fun a => decide (upTo ≤ a.num) || a.vdev == localAccess || (fn != 0 && a.vdev != fn))

/-- SETTLE_COMPLETE. -/
def execSettleComplete (q : QRef) (idx : Nat) (s : State) : Host.Outcome State Fault Refusal :=
  .next (
    let mine := s.keys.waits.filter (fun w => match w with
      | .settle p i n => decide (p = q) && i == idx && settled s q.fn n
      | _ => false)
    match mine with
    | [] => s
    | w :: _ => completeOk q idx { s with keys := { s.keys with waits := dropFirst w s.keys.waits } })

/-! ## Receive slots (R68, R69) -/

/-- The send queue that `QSEL` selects. -/
def selQueue (s : State) (fn : Nat) : QRef := { fn := fn, kind := .send, index := (fnOf s fn).qselIndex }

/-- A write of `RECV_RETURN`: slots go back in slot order; a return beyond the slots that software holds is ignored and
shown. -/
def recvReturn (fn v : Nat) (s : State) : State :=
  if (fnOf s fn).qselKind != 0 then s else
  let q := selQueue s fn
  let x := queueOf s q
  if !(x.enable && x.recvKey != 0) then s else
  let held := 2 ^ x.recvLog2Slots - x.recvFree - x.slotsUsed.length
  let n := v % 2 ^ 17
  modQueue q (fun x => { x with recvFree := x.recvFree + min n held,
                                returnError := x.returnError || decide (held < n) }) s

/-- RECV_RETURN (R68, R69). -/
def execRecvReturn (fn : Nat) (value : W32) (s : State) : Host.Outcome State Fault Refusal :=
  .next (if barOpen s fn then recvReturn fn value.toNat s else s)

end Sys2Proof.Machine
end

