-- ==== Sys2Proof/Machine/EthFrame.lean ====
section
/-! DEFINITION. Enpin in Ethernet frames: the frame's bytes (R98 to R100, R108), the tag of a class (R350), the egress
queues with their CE mark (R150), and the device's answers ACK, NACK and RNR on their way out. -/

namespace Sys2Proof.Machine

open Sys2Proof

/-! ## The frame of an Enpin packet -/

/-- This wall's own entry of the address table: the source of the ports' addresses (R100). -/
def ownWallEntry (s : State) : Option Bytes := wallEntry s s.wall.wallNumber

def portMac (s : State) (p : Nat) : List Byte := beBytes 6 (ledN s (0x3101 + p) 1 % 2 ^ 48)

/-- The UDP source port of a path (R108). -/
def udpSource (ctxIndex path : Nat) : Nat := 0xC000 ||| (ctxIndex % 1024 * 16 + path % 16)

/-- The egress port of a path: entry p mod n of the usable ports. -/
def egressPort (s : State) (path : Nat) : Option Nat :=
  match usablePorts s with
  | [] => none
  | l => l[path % l.length]?

/-- The destination port of a path. -/
def remotePort (w : Bytes) (path : Nat) : Nat := nthD 0 (wallPorts w) (path / 4 % (wallPorts w).length)

/-- A packet is sent ECT(0): the sequenced ones (R98). -/
def isEct (p : Packet) : Bool := isSequenced p

/-- The class of an Enpin packet on Ethernet (R98). -/
def ethClass (s : State) (p : Packet) : Nat := if isSequenced p then p.tc % 8 else ledN s 0x4120 4

/-- A port's tag of a class: inserted at offset 12 unless a 0x8100 tag stands there (R350). -/
def tagged (s : State) (port cls : Nat) (b : List Byte) : List Byte :=
  if bitOf (ledN s (0x3101 + port) 0x0F) cls && nAt b 12 2 != 0x8100 then
    b.take 12 ++ beBytes 2 0x8100 ++ beBytes 2 (cls * 8192 + ledN s (0x3101 + port) (0x11 + cls)) ++ b.drop 12
  else b

/-- The frame of an Ethernet-form packet, from destination MAC to the last byte before the FCS; no tag. `ce` sets the ECN
field of an ECT packet to CE. -/
def enpinFrame (s : State) (own dest : Bytes) (port rport ctxIndex path : Nat) (ce : Bool) (p : Packet) : List Byte :=
  let body := enpinBytes p
  let cls := ethClass s p
  let ecn := if isEct p then (if ce then 3 else 2) else 0
  let tos := ledN s 0x4143 (cls + 1) * 4 + ecn
  let sport := udpSource ctxIndex path
  let udpLen := 8 + body.length
  let src := wallAddr own p.src port
  let dst := wallAddr dest p.dst rport
  let dport := ledN s 0x4120 1
  let hop := ledN s 0x4120 3
  let mac := beBytes 6 (ledN s 0x4142 (port + 1) % 2 ^ 48) ++ portMac s port
  if nAt own 2 1 = 4 then
    let h0 := beBytes 1 0x45 ++ beBytes 1 tos ++ beBytes 2 (20 + udpLen) ++ beBytes 2 0 ++ beBytes 2 0x4000 ++
      beBytes 1 hop ++ beBytes 1 17
    let sum := inetSum (h0 ++ beBytes 2 0 ++ src ++ dst)
    mac ++ beBytes 2 0x0800 ++ h0 ++ beBytes 2 sum ++ src ++ dst ++
      beBytes 2 sport ++ beBytes 2 dport ++ beBytes 2 udpLen ++ beBytes 2 0 ++ body
  else
    let pseudo := src ++ dst ++ beBytes 4 udpLen ++ beBytes 4 17
    let udp := beBytes 2 sport ++ beBytes 2 dport ++ beBytes 2 udpLen
    let sum0 := inetSum (pseudo ++ udp ++ beBytes 2 0 ++ body)
    let sum := if sum0 = 0 then 0xFFFF else sum0
    mac ++ beBytes 2 0x86DD ++ beBytes 4 (6 * 2 ^ 28 + tos * 2 ^ 20 + sport) ++ beBytes 2 udpLen ++ beBytes 1 17 ++
      beBytes 1 hop ++ src ++ dst ++ udp ++ beBytes 2 sum ++ body

/-! ## Egress queues -/

def classBytes (l : List TxFrame) : Nat := (l.map (fun f => f.bytes.length + 4)).foldl (· + ·) 0

/-- A frame that is still queued no longer belongs to a slot. -/
def forgetSlot (f : TxFrame) : TxFrame := { f with ring := none }

/-- The transmit frame ring is disabled: frames already queued leave, and no longer belong to it. -/
def txOff (x : Port) : Port :=
  { x with
    txEnable := false, txArmed := false, txDone := [], express := x.express.map forgetSlot
    classes := x.classes.map (fun c => (c.1, c.2.map forgetSlot)), cur := x.cur.map forgetSlot, hung := x.hung.map forgetSlot }

/-- The class holds more than its threshold (R150). -/
def ethMarks (s : State) (port cls : Nat) : Bool :=
  decide (thresholdN s 4 < classBytes (tget [] (portOf s port).classes cls))

/-- An ECT IP packet with its ECN field set to CE and an IPv4 header checksum that fits (R150); none where the frame holds no ECT
packet. -/
def ceBytes (b : List Byte) : Option (List Byte) :=
  let o := if nAt b 12 2 = 0x8100 then 18 else 14
  let ect (tos : Nat) : Bool := tos % 4 == 1 || tos % 4 == 2
  if nAt b (o - 2) 2 = 0x0800 then
    if !(ect (nAt b (o + 1) 1)) then none else
    let n := 4 * (nAt b o 1 % 16)
    let h := b.take (o + 1) ++ beBytes 1 (nAt b (o + 1) 1 / 4 * 4 + 3) ++ b.drop (o + 2)
    let sum := inetSum (((h.drop o).take 10) ++ beBytes 2 0 ++ ((h.drop (o + 12)).take (n - 12)))
    some (h.take (o + 10) ++ beBytes 2 sum ++ h.drop (o + 12))
  else if nAt b (o - 2) 2 = 0x86DD then
    let w := nAt b o 4
    if !(ect (w / 2 ^ 20 % 256)) then none
    else some (b.take o ++ beBytes 4 (w / 2 ^ 22 * 2 ^ 22 + 3 * 2 ^ 20 + w % 2 ^ 20) ++ b.drop (o + 4))
  else none

/-- Hand a frame to a class queue. A port that is down takes none. -/
def pushClass (port cls : Nat) (f : TxFrame) (s : State) : State :=
  if !(portOf s port).linkUp then s
  else modPort port (fun x => { x with classes := tset x.classes cls (tget [] x.classes cls ++ [f]) }) s

/-- Queue an Ethernet-form packet of a context on a path. Without a usable port, or without an address for either wall,
nothing is queued. -/
def queueEth (ctxIndex path : Nat) (p : Packet) (s : State) : State :=
  match egressPort s path, ownWallEntry s, wallEntry s (idWall p.dst) with
  | some port, some own, some dest =>
    let cls := ethClass s p
    let ce := isEct p && ethMarks s port cls
    let f := enpinFrame s own dest port (remotePort dest path) ctxIndex path ce p
    let s := if ce then bump 0x9042 3 1 s else s
    pushClass port cls { bytes := f, express := false, cls := cls, at_ := s.now, sequenced := isSequenced p } s
  | _, _, _ => s

/-! ## Flow control that the port sends (R355, R356) -/

/-- The Keystone of a port (R14). -/
def portKs (p : Nat) : Nat := p / 2

/-- A pause time in ns: 512 bit times a quantum. -/
def quantaNs (s : State) (q : Nat) : Nat := if s.eth.mode = 1 then q * 32 / 100 else q * 64 / 100

/-- Send a PAUSE (priority 8) or PFC frame: express, ahead of every queue. -/
def sendPause (port prio quanta : Nat) (s : State) : State :=
  let c := 0x9021 + port
  let s := bump c 0x14 1 (bump c 0x11 1 (bump c 4 64 (bump c 3 1 s)))
  outEmit (.pause port prio quanta) s

/-- Bytes that a port holds for a priority, 8 meaning all of them. -/
def heldBytes (s : State) (port prio : Nat) : Nat :=
  (((portOf s port).held.filter (fun h => prio == 8 || h.2.1 == prio)).map (fun h => h.2.2)).foldl (· + ·) 0

/-- When an XOFF sent now is repeated: half of its quanta later. -/
def xoffNext (s : State) (port : Nat) : Nat := s.now + quantaNs s (ledN s (0x3101 + port) 9) / 2

/-- XOFF or XON for one priority as its count calls for. -/
def flowOne (port prio : Nat) (s : State) : State :=
  let e := 0x3101 + port
  let n := heldBytes s port prio
  let off := (tfind (portOf s port).xoff prio).isSome
  if !(portOf s port).linkUp then s
  else if !off && decide (ledN s e 7 < n) && bitOf (ledN s e 6) (prio % 8) then
    sendPause port prio (ledN s e 9) (modPort port (fun x => { x with xoff := tset x.xoff prio (xoffNext s port) }) s)
  else if off && decide (n ≤ ledN s e 8) then
    sendPause port prio 0 (modPort port (fun x => { x with xoff := tdel x.xoff prio }) s)
  else s

/-- The counts of a port have changed. -/
def flowCheck (port : Nat) (s : State) : State :=
  match ledN s (0x3101 + port) 5 with
  | 1 => flowOne port 8 s
  | 2 => foldS (flowOne port) (rangeFrom 0 8) s
  | _ => s

/-- A packet leaves the receive buffer of its port. -/
def freeHeld (port : Nat) (p : Packet) (s : State) : State :=
  match ((portOf s port).held.filter (fun h => decide (h.1 = p))).head? with
  | some h => flowCheck port (modPort port (fun x => { x with held := dropFirst h x.held }) s)
  | none => s

/-! ## Answers (R94, R95, R97) -/

/-- The path of weight-drawn index `n` (R159): the path in whose share of the weights it falls. -/
def pathAt : List Nat → Nat → Nat → Nat
  | [], i, _ => i
  | w :: t, i, n => if n < w then i else pathAt t (i + 1) (n - w)

def drawPath (s : State) (w : List Nat) : Nat := pathAt w 0 ((drawOf s).toNat % max 1 (w.foldl (· + ·) 0)) % 16

/-- The context is a line context (R200). -/
def isLine (peer : W32) : Bool := idWall peer == 0xFFFF

/-- The module whose packets a context receives: its peer, or the source of the line. -/
def peerModule (s : State) (peer : W32) : W32 :=
  if isLine peer then mkId s.wall.wallNumber (peer.toNat % 32) (peer.toNat / 256 % 32) else peer

/-- Send an unsequenced packet of a context: on its bond form, or on a path drawn by weight. To a peer for which the module has no
context it goes with context index 0 and equal weights (DESIGN CHOICE, assumption 79). -/
def sendAnswer (peer : W32) (p : Packet) (s : State) : State :=
  match ctxOf s peer with
  | some c =>
    if c.ethForm then queueEth c.index (drawPath s c.pathWeight) { p with bondForm := false } (drawn s)
    else queueBond none { p with bondForm := true } s
  | none =>
    if ethFormOf s peer && !(isLine peer) then
      queueEth 0 (drawPath s (List.replicate 16 32)) { p with bondForm := false } (drawn s)
    else queueBond none { p with bondForm := true } s

/-- The common fields of an answer. -/
def answerBase (s : State) (peer : W32) (t : PType) (x : PExt) (msgId : W32) (echo : Nat) : Packet :=
  let c := ctxOf s peer
  { ptype := t, bondForm := true, epoch := (c.map (fun c => if c.st = .opened then c.epoch else 0)).getD 0, ecnEcho := echo,
    src := ownId s, dst := peer, ackSeq := (c.map (fun c => c.rxBase)).getD 0, msgId := msgId, tc := ledN s 0x4120 4,
    ext := x }

/-- The marks that wait for their echo are sent and cleared (R152). -/
def takeEcho (peer : W32) (s : State) : Nat × State :=
  match ctxOf s peer with
  | some c => (min 255 c.cc.echoPending, setCtx peer { c with cc := { c.cc with echoPending := 0 } } s)
  | none => (0, s)

/-- Refuse a sequence number (R95). -/
def sendNack (peer : W32) (p : Packet) (status cur : Nat) (s : State) : State :=
  let off : W64 := if status = stRemoteAccess ∨ status = stStaleKey then
      (match p.ext with
       | .data _ o _ _ _ _ => o
       | .multicast _ o _ _ _ => o
       | _ => 0) else 0
  let (e, s) := takeEcho peer s
  sendAnswer peer (answerBase s peer .nack (.nack status cur p.seq off) p.msgId e) s

/-- Answer receiver-not-ready (R97). -/
def sendRnr (peer : W32) (p : Packet) (cause hint : Nat) (s : State) : State :=
  let s := bump 0x9041 8 1 s
  sendAnswer peer (answerBase s peer .rnr (.rnr cause hint p.seq) p.msgId 0) s

/-- The 64-bit block of SACK bits from `rxBase` + 64 × k: the done packets. -/
def sackBlock (c : Ctx) (k : Nat) : Nat := c.done.toNat >>> (64 * k) % 2 ^ 64

/-- Send the ACKs of a context: one for the first block, and one for every further block that holds a done packet
(R94, R130). -/
def ackNow (peer : W32) (s : State) : State :=
  match ctxOf s peer with
  | none => s
  | some c =>
    let s := setCtx peer { c with unreported := 0 } s
    let blocks := (rangeFrom 0 16).filter (fun k => k == 0 || sackBlock c k != 0)
    foldS (fun k t =>
      let (e, t) := takeEcho peer t
      sendAnswer peer (answerBase t peer .ack
        (.ack (c.rxBase + BitVec.ofNat 32 (64 * k)) (BitVec.ofNat 64 (sackBlock c k))) 0 e) t) blocks s

end Sys2Proof.Machine
end

