-- ==== Sys2Proof/Machine/Doorway.lean ====
section
/-! DEFINITION. The doorway's messages (R259, R267 to R271, R216), and what the end of a message does for whoever sent it:
an entry, a doorway, a response, a collective's ring (R131, R136, R139). -/

namespace Sys2Proof.Machine

open Sys2Proof

/-! ## Doorway messages -/

/-- A field of a tile command. -/
def cf (cmd : W128) (lo w : Nat) : Nat := fieldOf cmd.toNat lo w

/-- A field of a route entry (R269). -/
def routeF (r : List Byte) (off n : Nat) : Nat := leNat ((r.drop off).take n)
def routeDest (r : List Byte) : W32 := BitVec.ofNat 32 (routeF r 0 4)
def routeQp (r : List Byte) : Nat := routeF r 4 4 % 2 ^ 20
def routeClass (r : List Byte) : Nat := routeF r 4 4 / 2 ^ 20 % 8
def routeDoneSem (r : List Byte) : Nat := routeF r 4 4 / 2 ^ 24 % 64
def routeDoneEn (r : List Byte) : Bool := bitOf (routeF r 4 4) 31
def routeSignal (r : List Byte) : W64 := BitVec.ofNat 64 (routeF r 24 8)

/-- The opcode that a doorway message's packets carry. -/
def doorOp (cmd : W128) : Nat :=
  match cf cmd 14 3 with
  | 0 => 0x01 | 1 => 0x02 | 2 => 0x06 | _ => 0x21

/-- The Keystone a doorway message goes to (R267): that of the first link of the plumb route inside the own wall, else the
core's parity. -/
def doorKs (s : State) (core : Nat) (dest : W32) : Nat :=
  if idWall dest = s.wall.wallNumber ∧ dest ≠ ownId s then
    match s.wall.pos with
    | some here =>
      let d := (minimalDirs s true here (frameDest dest) ++ minimalDirs s false here (frameDest dest)).head?
      (match d with
       | some dir => ((plumbLink s dir (frameDest dest)).map linkKs).getD (core % 2)
       | none => core % 2)
    | none => core % 2
  else core % 2

/-- The message of a doorway SEND. -/
def doorProto (s : State) (core : Nat) (m : DoorMsg) : TxMsg :=
  let cmd := m.cmd
  let r := m.route
  let op := doorOp cmd
  let off := BitVec.ofNat 64 (routeF r 16 8 + cf cmd 96 32)
  let sig := routeSignal r
  let src := if cf cmd 19 1 = 0 then Source.scratch (scratchBase core + cf cmd 32 25)
    else Source.cluster (clusterBase (coreCluster core) + cf cmd 32 25)
  { msgId := 0, owner := .doorway core m.n, ptype := .data,
    ext := .data (if op = 0x01 ∨ op = 0x02 then BitVec.ofNat 32 (routeF r 8 4) else 0)
      (if op = 0x01 ∨ op = 0x02 then off else 0) (doorwayBase + core) op 0 0,
    src := src, start := 0, len := 0, pktCount := 1, segment := 1, solicit := bitOf (cf cmd 18 1) 0,
    secure := secureOn s ((coreFn s core).getD 0),
    sig := if op = 0x02 ∨ op = 0x21 then some sig else none,
    dstQp := routeQp r, tc := routeClass r, fn := (coreFn s core).getD 0 }

/-- A doorway message has failed: the LAUNCH ends with the status, the doorway's other messages are aborted and it is empty
(R271). -/
def doorFail (core status : Nat) (result : W64) (peer : W32) (s : State) : State :=
  let s := match (coreOf s core).launch with
    | some id => haltCore core 6 status result (launchFault id status result peer s)
    | none => s
  let s := foldS (fun x t => abortOwner (.doorway core x.n) status t) (coreOf s core).door s
  modCore core (fun c => { c with door := [] }) s

/-- Hand a doorway message to its context. Without a free context it stays held (assumption 43); to a wall without an
address it ends DESTINATION_FENCED (R100). -/
def sendDoor (core n : Nat) (s : State) : State :=
  match ((coreOf s core).door.filter (fun m => m.n == n)).head? with
  | none => s
  | some m =>
    if !(destReady s m.dest) then
      doorFail core stFenced 0 0 (modCore core (fun c => { c with door := c.door.filter (fun x => x.n != n) }) s)
    else
      let set (f : Bool) (t : State) : State :=
        modCore core (fun c => { c with door := modFirst (fun x => x.n == n) (fun x => { x with fenced := f }) c.door }) t
      match allocCtx m.dest s with
      | (false, s) => set true s
      | (true, s) => queueMsgs m.dest (doorProto s core m) (if doorOp m.cmd = 0x21 then 0 else cf m.cmd 64 32) (set false s)

/-- An earlier message of the doorway to the same destination is outstanding (R216). -/
def doorBlocked (door : List DoorMsg) (m : DoorMsg) : Bool :=
  (door.takeWhile (fun x => x.n != m.n)).any (fun x => x.dest == m.dest)

/-- Send every held message that nothing holds any more. -/
def releaseDoor (core : Nat) (s : State) : State :=
  foldS (fun m t =>
    match ((coreOf t core).door.filter (fun x => x.n == m.n)).head? with
    | some x => if x.fenced && !(doorBlocked (coreOf t core).door x) then sendDoor core x.n t else t
    | none => t) (coreOf s core).door s

/-- A doorway message has ended (R270, R271): the done semaphore advances, or the LAUNCH ends with the status. -/
def doorDone (core n status : Nat) (result : W64) (peer : W32) (s : State) : State :=
  match ((coreOf s core).door.filter (fun m => m.n == n)).head? with
  | none => s
  | some m =>
    let s := touchCore core (modCore core (fun c => { c with door := c.door.filter (fun x => x.n != n) }) s)
    if status = stOk then
      releaseDoor core (if routeDoneEn m.route then semAdd core (routeDoneSem m.route) 1 s else s)
    else doorFail core status result peer s

/-! ## Entries that report what was delivered (R201) -/

/-- The bitmap of a MULTICAST_WRITE still counted as delivered is kept in the taken entry's `info`. -/
def clearDelivered (q : QRef) (idx pos : Nat) (s : State) : State :=
  modQueue q (fun x => { x with taken := x.taken.map (fun t =>
    if t.idx = idx ∧ t.status.isNone = true then
      { t with info := BitVec.ofNat 32 (if bitOf t.info.toNat pos then t.info.toNat - 2 ^ pos else t.info.toNat) }
    else t) }) s

/-- The result an entry has so far. -/
def setResult (q : QRef) (idx : Nat) (v : W64) (s : State) : State :=
  modQueue q (fun x => { x with taken := x.taken.map (fun t =>
    if t.idx = idx ∧ t.status.isNone = true then { t with result := v } else t) }) s

/-- An entry whose messages are all acknowledged, and answered, completes. -/
def entryFinished (q : QRef) (idx : Nat) (s : State) : State :=
  match takenAt? s q idx with
  | none => s
  | some t =>
    if eOp t.entry = 0x07 then
      if t.info = eBitmap t.entry then complete q idx stOk 0 0 s
      else completeWith q idx stPartial t.info 0 0 2 s
    else complete q idx stOk t.result 0 s

/-- A READ response or atomic response leaves nothing in progress any more (R72). -/
def dropResponse (req : W32) (num : W32) (s : State) : State :=
  { s with enpin := { s.enpin with adms := s.enpin.adms.filter (fun a =>
      !(a.response == some req && BitVec.ofNat 32 a.num == num)) } }

/-- Everything an owner sent has been acknowledged, and answered. -/
def ownerFinished (o : Owner) (s : State) : State :=
  match o with
  | .entry q idx => entryFinished q idx s
  | .doorway core n => doorDone core n stOk 0 0 s
  | .response req num => dropResponse req num s
  | .ring _ _ => s
  | .none => s

/-- Complete the entry of a collective instance that ended with a status. -/
def endMember (h n : W32) (status : Nat) (peer : W32) (s : State) : State :=
  match instAt s h n with
  | some i => (match i.entry with
    | some (q, idx) => complete q idx status 0 peer (modInst h n (fun i => { i with entry := none }) s)
    | none => s)
  | none => s

/-- An owner's message has failed: the entry ends under R41 (whose step 4 aborts its messages), the doorway's LAUNCH ends,
a response is given up, a collective instance is aborted (R242). -/
def failOwner (o : Owner) (status : Nat) (result : W64) (peer : W32) (s : State) : State :=
  match o with
  | .entry q idx => complete q idx status result peer s
  | .doorway core n => doorDone core n status result peer (abortOwner o status s)
  | .response req num => dropResponse req num (abortOwner o status s)
  | .ring h n =>
    (match groupAt s h with
     | some g => endMember h n stCollAborted 0 (abortInst h n (myMember s g) stCollAborted (myMember s g) none s)
     | none => s)
  | .none => s

end Sys2Proof.Machine
end

