-- ==== Sys2Proof/Machine/Transmit.lean ====
section
/-! DEFINITION. A sequenced packet leaves: its source is read (R303, R314), it is sealed (R110), charged to the gates (R147,
R148, R158, R163), numbered and recorded (R126, R128), and queued at the wall or at a port (R108, R199). -/

namespace Sys2Proof.Machine

open Sys2Proof

/-! ## Building -/

/-- The payload's place in its message: offset and bytes of packet `i`. -/
def pktSpan (m : TxMsg) (i : Nat) : Nat × Nat := (i * m.segment, min m.segment (m.len - i * m.segment))

/-- Read a span of a message's source. -/
def srcRead (s : State) (m : TxMsg) (off len : Nat) : Got :=
  let o := m.start + off
  match m.src with
  | .va fn b => getVa s fn (b.toNat + o) len
  | .scratch a => (match badIn .scratch (a + o) len s with
    | some x => .fault stMemory x
    | none => .ok (memRead .scratch (a + o) len s))
  | .cluster a => (match badIn .cluster (a + o) len s with
    | some x => .fault stMemory x
    | none => .ok (memRead .cluster (a + o) len s))
  | .tier t b => (match badIn (tierMem t) (b + o) len s with
    | some x => .fault stMemory x
    | none => .ok (memRead (tierMem t) (b + o) len s))
  | .bytes b => .ok ((b.drop o).take len)

/-- The Keystone's translation of a span that a packet is built from (R304). -/
def srcTouch (ks : Nat) (m : TxMsg) (off len : Nat) (s : State) : State :=
  match m.src with
  | .va fn b => vtouch (ksAgent ks) fn (b.toNat + m.start + off) len s
  | _ => s

/-- The extension of packet `i` of a message: its own offset (R87, R89). -/
def pktExt (m : TxMsg) (i : Nat) : PExt :=
  let o := BitVec.ofNat 64 (m.start + i * m.segment)
  match m.ext with
  | .data key off qp op a b => if m.ptype = .data then .data key (off + o) qp op a b else m.ext
  | .multicast key off qp ax bm => .multicast key (off + o) qp ax bm
  | .response v req => if m.ptype = .readResponse then .response o req else .response v req
  | x => x

/-- Packet `i` of a message of a context, numbered `seq`. -/
def pktOf (s : State) (peer : W32) (c : Ctx) (m : TxMsg) (i : Nat) (seq : W32) (ackReq retx : Bool) (payload : List Byte) :
    Packet :=
  { ptype := m.ptype, bondForm := !c.ethForm, ackReq := ackReq, secure := m.secure, chained := m.chained,
    solicit := m.solicit, retx := retx, epoch := if c.st = .opened then c.epoch else 0, src := ownId s, dst := peer,
    seq := seq, ackSeq := if c.st = .opened then c.rxBase else (if isLine peer then BitVec.ofNat 32 c.epoch else 0),
    msgId := m.msgId, pktIndex := i, pktCount := m.pktCount, dstQp := m.dstQp, tc := m.tc, ext := pktExt m i,
    sig := if i + 1 = m.pktCount then m.sig else none, payload := payload }

/-- Seal a secure packet under its function's transmit association: the counter advances with every packet sent; an
exhausted one sends nothing more (R110). -/
def sealPacket (fn : Nat) (p : Packet) (s : State) : Option Packet × State :=
  if !p.secure then (some p, s) else
  let k := (fnOf s fn).keyPage
  match k.txState with
  | .live =>
    let p := { p with sa := k.txPeerSa, nonceSalt := k.txSalt, nonceCtr := k.txCtr }
    let p := { p with icv := icvOf k.txKey p (tailBytes p), cipher := some (gcmText k.txKey p (tailBytes p)) }
    let n := k.txCtr + 1
    (some p, modFn fn (fun f => { f with keyPage := { f.keyPage with
      txCtr := n, txState := if n = 0xFFFFFFFFFFFFFFFF then .exhausted else .live } }) s)
  | _ => (none, s)

/-- The charged length of a packet (R148). -/
def chargedLen (s : State) (c : Ctx) (peer : W32) (path : Nat) (p : Packet) : Nat :=
  if c.ethForm then
    match egressPort s path, wallEntry s (idWall peer) with
    | some port, some w =>
      14 + (if nAt w 2 1 = 4 then 20 else 40) + 8 + enpinLen p + 24 +
        (if bitOf (ledN s (0x3101 + port) 0x0F) (ethClass s p) then 4 else 0)
    | _, _ => 66 + enpinLen p
  else bondLen p

/-! ## The line (R199) -/

/-- The size of the line of an axis, and this module's place on it. -/
def lineSize (s : State) (axis : Nat) : Nat := if axis = 0 then s.wall.sizeX else s.wall.sizeY
def linePlace (s : State) (axis : Nat) : Nat :=
  match s.wall.pos with
  | some p => if axis = 0 then p.1 else p.2
  | none => 0

/-- The axis of a line ID. -/
def lineAxis (peer : W32) : Nat := peer.toNat / 2 ^ 15 % 2

/-- The position on an axis' line of the module that a member's answer comes from. -/
def memberPlace (axis : Nat) (m : W32) : Nat := if axis = 0 then idX m else idY m

/-- The line ID of this module on an axis (R200). -/
def lineId (s : State) (axis : Nat) : W32 :=
  match s.wall.pos with
  | some (x, y) => BitVec.ofNat 32 (0xFFFF0000 + axis * 2 ^ 15 + y * 256 + x)
  | none => 0xFFFFFFFF

/-- A multicast copy reaches a position of the line: no hop of its half is broken on the way (R199, R201). -/
def lineReaches (s : State) (axis n : Nat) (here : Nat × Nat) : Bool :=
  let size := lineSize s axis
  let up := ringUp (linePlace s axis) n size
  if up ≤ size / 2 then legOpen s (if axis = 0 then 0 else 3) up here
  else legOpen s (if axis = 0 then 1 else 2) (ringDown (linePlace s axis) n size) here

/-- The positions of the line that the wall map shows live, unfenced and reachable, this module's apart. -/
def linePositions (s : State) (axis : Nat) : List Nat :=
  match s.wall.pos with
  | none => []
  | some (x, y) =>
    (rangeFrom 0 (lineSize s axis)).filter (fun n =>
      n != linePlace s axis && lineReaches s axis n (x, y) && !(if axis = 0 then fencedAt s n y else fencedAt s x n))

def bitmapOf (l : List Nat) : W32 := BitVec.ofNat 32 (l.foldl (fun b n => b ||| 2 ^ n) 0)

/-- The link a copy takes towards the next position of a line: the one that a plumb hop would take. -/
def lineLink (s : State) (dir : Nat) : Option Nat :=
  match s.wall.pos with
  | some p => plumbLink s dir (stepPos s dir p)
  | none => none

/-- The two copies of a multicast packet leave on VC3, lane 0: one east or south to the nearer half, one west or north to
the rest. A copy that meets a broken hop is dropped. -/
def queueLine (axis : Nat) (bitmap : W32) (p : Packet) (s : State) : State :=
  let n := lineSize s axis
  let near := n / 2
  let copy (dir : Nat) (t : State) : State :=
    match lineLink t dir with
    | some l =>
      pushFrame { f := { vc := 3, lane := 0, multicast := true, src := ownId t, dst := p.dst, aux := bitmap,
                         content := .packet p },
                  inLink := none, at_ := t.now, out := some l, sequenced := true, bytes := bondLen p } t
    | none => t
  let s := if 1 ≤ near then copy (if axis = 0 then 0 else 3) s else s
  if near + 1 < n then copy (if axis = 0 then 1 else 2) s else s

/-! ## Leaving -/

/-- Put a packet of a context where its form leaves (R79, R108, R194, R199). -/
def launchPacket (peer : W32) (c : Ctx) (path : Nat) (qp : Option Nat) (p : Packet) (s : State) : State :=
  if isLine peer then
    queueLine (lineAxis peer) (match p.ext with
      | .multicast _ _ _ _ bm => bm
      | _ => 0) p s
  else if c.ethForm then queueEth c.index path p s
  else queueBond qp p s

/-- The global QP whose course may carry an owner's packets (R194). -/
def ownerQp (s : State) (o : Owner) : Option Nat :=
  match o with
  | .entry q _ => if q.kind = .send then some (globalQp s q) else none
  | _ => none

/-- The Keystone whose class shaper gates an owner's packets; none for packets that no shaper gates (R147). -/
def ownerShaper (s : State) (o : Owner) (peer : W32) : Option Nat :=
  match o with
  | .entry q _ => if q.kind = .send then some (queueKs s q) else none
  | .doorway core _ => some (doorKs s core peer)
  | .ring h n => ((instAt s h n).bind (fun i => i.posted)).map (queueKs s)
  | _ => none

/-- A packet of the entry has left the module (R41 `sent`). -/
def markSent (o : Owner) (s : State) : State :=
  match o with
  | .entry q idx => modQueue q (fun x => { x with taken := x.taken.map (fun t =>
      if t.idx = idx ∧ t.status.isNone = true then { t with sent := true } else t) }) s
  | _ => s

/-- Someone already waits for pages on behalf of a message. -/
def packetWaits (s : State) (peer msgId : W32) : Bool :=
  let w := Waiter.packet peer msgId
  (s.mig.recs0 ++ s.mig.recs1).any (fun r => r.2.waiters.any (fun x => decide (x.1 = w))) ||
  (s.mig.walkers0 ++ s.mig.walkers1).any (fun k => decide (k.2.waiter = w))

/-- The source of a packet cannot be read: R303, R314. Pages that are not resident are asked for and the packet waits. -/
def sourceFailed (ks : Nat) (peer : W32) (m : TxMsg) (off len : Nat) (g : Got) (s : State) : State :=
  match g with
  | .ok _ => s
  | .absent seg ps =>
    if packetWaits s peer m.msgId then s
    else (match m.src with
      | .va fn b => askPages ks 0 fn seg (b.toNat + m.start + off) ps (.packet peer m.msgId) s
      | _ => s)
  | .fault st a =>
    (match m.owner with
     | .response req num =>
       let adm := (s.enpin.adms.filter (fun x => x.response == some req && BitVec.ofNat 32 x.num == num)).head?
       let key : W32 := (adm.map (fun x => x.key)).getD 0
       let e := keyOf s (key.toNat % 65536)
       let s := memEvent e.owner (match m.src with
         | .tier t _ => t
         | _ => 0) key.toNat (if e.owner = 0 then a else a - e.base) s
       dropResponse req num (abortOwner m.owner st s)
     | o =>
       let s := if st = stMemory then (match m.src with
         | .va fn b => badEvent fn (b.toNat + m.start + off) len s
         | .scratch _ => memEvent m.fn 2 0 a s
         | .cluster _ => memEvent m.fn 3 0 a s
         | _ => s) else s
       failOwner o st (BitVec.ofNat 64 a) 0 s)

/-- The Keystone whose engine builds a message's packets (R35, R126, R264); the context's home for what is neither an entry's nor
a doorway's (assumption 32). -/
def builderKs (s : State) (o : Owner) (peer : W32) (home : Nat) : Nat :=
  match o with
  | .entry q _ => queueKs s q
  | .doorway core _ => doorKs s core peer
  | .ring h n => (((instAt s h n).bind (fun i => i.posted)).map (queueKs s)).getD home
  | _ => home

/-- A Keystone has a free outstanding-packet record (R126). -/
def outRoom (s : State) (ks : Nat) : Bool :=
  decide ((s.enpin.ctxs.map (fun p => (p.2.outs.filter (fun o => o.ks == ks)).length)).foldl (· + ·) 0 < 131072)

/-- The context's rate and its port let a packet go (R147). -/
def gatesOpen (s : State) (c : Ctx) : Bool := c.onChip && decide (0 ≤ c.cc.tokens) && (!c.ethForm || !(usablePorts s).isEmpty)

/-- Charge the context's bucket. -/
def chargeCtx (c : Ctx) (n : Nat) : Ctx := { c with cc := { c.cc with tokens := c.cc.tokens - Int.ofNat n } }

/-- A chain's last message waits for the earlier messages of its owner (R103); a response's does not (R89). -/
def chainHolds (c : Ctx) (m : TxMsg) : Bool :=
  !m.chained && m.ptype != .readResponse && m.owner != .none &&
  (c.msgs.takeWhile (fun x => x.msgId != m.msgId)).any (fun x => decide (x.owner = m.owner) && x.chained)

/-- A line context starts no new message while a live position is not a member (R200); its opening apart. -/
def lineHolds (s : State) (peer : W32) (c : Ctx) (m : TxMsg) : Bool :=
  isLine peer && m.next == 0 && c.st == .opened &&
  (linePositions s (lineAxis peer)).any (fun n => !(bitOf c.members.toNat n))

/-- The first message of a context that has a packet to send now. Held by its class shaper, it keeps every later message of the
context waiting, whatever their class: first transmissions leave in the order of their numbers (DEDUCED from R147, assumption
76). -/
def nextMsg (s : State) (peer : W32) (c : Ctx) : Option TxMsg :=
  (c.msgs.filter (fun m => decide (m.next < m.pktCount) && !m.refused && !(chainHolds c m) && !(lineHolds s peer c m))).head?

/-! ## What is outstanding (R115) -/

/-- A message of an entry that has begun: it had a packet sent, or it is a later message of a chain whose first one has
been acknowledged and is gone (R115: the entry awaits the completion of its chain). -/
def begun (c : Ctx) (m : TxMsg) : Bool :=
  decide (0 < m.next) || (decide (0 < m.start) && c.msgs.all (fun x => !(decide (x.owner = m.owner) && x.start == 0)))

/-- A request has been sent: its message has begun, or is acknowledged and gone. -/
def requested (c : Ctx) (r : PendReq) : Bool :=
  !(c.msgs.any (fun m => m.msgId == r.msgId && m.ptype != .abort && m.next == 0))

/-- The owners of everything outstanding on a context (R115): what has begun, and what awaits a response. -/
def outstandingOwners (c : Ctx) : List Owner :=
  ((c.msgs.filter (begun c)).map (fun m => m.owner) ++ (c.reqs.filter (requested c)).map (fun r => r.owner)).eraseDups

/-- The owner is not a response to a peer (R146: `give_ups` counts entries). -/
def ownerCounts (o : Owner) : Bool :=
  match o with
  | .response _ _ => false
  | _ => true

/-- Every entry outstanding on a context ends with a status. What was sent is forgotten; what waits for the context stays, a
response that is queued and unsent among it (DESIGN CHOICE, assumption 75). `give` counts them as give-ups. -/
def endOutstanding (peer : W32) (status : Nat) (who : W32) (give : Bool) (s : State) : State :=
  match ctxOf s peer with
  | none => s
  | some c =>
    let gone := outstandingOwners c
    let s := setCtx peer { c with
      outs := [], rnrUntil := none, memberAcks := []
      msgs := c.msgs.filter (fun m => !(gone.contains m.owner) && m.ptype != .abort)
      reqs := c.reqs.filter (fun r => !(gone.contains r.owner)) } s
    foldS (fun o t =>
      let t := if give && ownerCounts o then bump 0x9041 0x11 1 t else t
      failOwner o status 0 who t) (gone.filter (fun o => o != .none)) s

/-- The module's own context is created afresh after the reopen time idle: what was outstanding on it ends (R496). -/
def renewSelf (peer : W32) (s : State) : State :=
  match ctxOf s peer with
  | some c =>
    if peer = ownId s ∧ c.st = .opened ∧ idleLong s c = true then endOutstanding peer stRemoteReset peer false s else s
  | none => s

/-- The retransmission timeout of a packet first sent now (R132, R133). -/
def firstTimeout (s : State) (c : Ctx) : Nat :=
  if c.sampled then clampN (c.srtt + 4 * c.rttvar) (timerN s 1 s.now) (timerN s 4 s.now) else timerN s 3 s.now

/-- A source in a scratchpad whose bank is not on: its address (R78, R266). -/
def srcBank (s : State) (m : TxMsg) (off len : Nat) : Option Nat :=
  match m.src with
  | .scratch a => if len = 0 || padReady s (a + m.start + off) len then none else some (a + m.start + off)
  | .tier 2 b => if len = 0 || padReady s (b + m.start + off) len then none else some (b + m.start + off)
  | _ => none

/-- Send the next packet of a context for the first time; a source in a bank that is not on starts the bank's wake and waits. -/
def transmitFirst (peer : W32) (path : Nat) (s : State) : State :=
  if ((ctxOf s peer).bind (nextMsg s peer)).isNone then s else
  let s := ensureOpening peer (renewSelf peer s)
  match ctxOf s peer with
  | none => s
  | some c =>
    match nextMsg s peer c with
    | none => s
    | some m =>
      let mayOpen := (c.st = .opening ∧ c.outs.isEmpty = true) ∨ c.st = .opened
      let window := decide (sdist c.txNext c.txAcked < 1024)
      if !(decide mayOpen && window && c.rnrUntil.isNone && gatesOpen s c && outRoom s (builderKs s m.owner peer c.home)) then s else
      let i := m.next
      let (off, len) := pktSpan m i
      let carries := m.ptype = .data ∨ m.ptype = .readResponse ∨ m.ptype = .collective
      match srcBank s m off len with
      | some a => wakePad a len s
      | none =>
      match (if carries then srcRead s m off len else .ok []) with
      | .ok bytes =>
        let seq := c.txNext
        let ackReq := decide (i + 1 = m.pktCount) || decide (768 ≤ c.outs.length + 1) || decide (c.st ≠ .opened)
        let p := pktOf s peer c m i seq ackReq false bytes
        let n := chargedLen s c peer path p
        let gate := ownerShaper s m.owner peer
        if !(match gate with
          | some ks => shaperOpen s ks m.fn m.tc
          | none => true) then
          (match gate with
           | some ks => shaperWaits ks m.fn m.tc s
           | none => s)
        else
        match sealPacket m.fn p (if carries then srcTouch (builderKs s m.owner peer c.home) m off len s else s) with
        | (none, s) => failOwner m.owner stLocalAccess 0 0 s
        | (some p, s) =>
          let s := match gate with
            | some ks => shaperCharge ks m.fn m.tc n s
            | none => s
          let o : OutPkt := { seq := seq, msgId := m.msgId, index := i, firstSent := s.now, lastSent := s.now,
                              timeout := firstTimeout s c, path := path, charged := n,
                              ks := builderKs s m.owner peer c.home, qp := ownerQp s m.owner, abortSent := decide (m.ptype = .abort),
                              abort := (match m.ext with
                                | .abort st _ => some st
                                | _ => none), tmpl := { p with payload := [] } }
          let msgs := if m.ptype = .abort then c.msgs.filter (fun x => !(x.msgId == m.msgId && x.ptype == .abort))
            else c.msgs.map (fun x => if x.msgId = m.msgId then { x with next := i + 1, lastSeq := seq } else x)
          let waits : W32 := if c.st = .opened then c.members else bitmapOf (linePositions s (lineAxis peer))
          let c' := chargeCtx { c with txNext := seq + 1, outs := c.outs ++ [o], msgs := msgs, lastActive := nowMs s,
                                       memberAcks := if isLine peer then tset c.memberAcks seq.toNat waits
                                                     else c.memberAcks } n
          let s := match m.owner with
            | .entry q idx =>
              if isLine peer && i == 0 then
                foldS (fun n t => clearDelivered q idx n t) ((rangeFrom 0 32).filter (fun n => !(bitOf c.members.toNat n))) s
              else s
            | _ => s
          launchPacket peer c path (ownerQp s m.owner) p (markSent m.owner (setCtx peer c' s))
      | g => sourceFailed (builderKs s m.owner peer c.home) peer m off len g s

/-- Send a packet again (R126, R127, R128): with `retx` and `ack_req`, an ABORT as it was made, a line's opening as an opening
(R200). -/
def transmitAgain (peer : W32) (seq : W32) (path : Nat) (s : State) : State :=
  match ctxOf s peer with
  | none => s
  | some c =>
    match (c.outs.filter (fun o => o.seq == seq && o.resend)).head? with
    | none => s
    | some o =>
      if !(gatesOpen s c) then s else
      let leave (p : Packet) (fn : Nat) (owner : Owner) (s : State) : State :=
        let n := chargedLen s c peer path p
        match sealPacket fn p s with
        | (none, s) => failOwner owner stLocalAccess 0 0 s
        | (some p, s) =>
          let c' := chargeCtx { c with
            lastActive := nowMs s
            outs := modFirst (fun x => x.seq == seq) (fun x => { x with
              resend := false, lastSent := s.now, sends := x.sends + 1, path := path, charged := n
              firstSent := if x.abort.isSome && !x.abortSent then s.now else x.firstSent
              abortSent := x.abort.isSome }) c.outs } n
          launchPacket peer c path o.qp p (setCtx peer c' s)
      match o.abort with
      | some _ =>
        leave { o.tmpl with epoch := c.epoch, ackSeq := c.rxBase, retx := true, ackReq := true, secure := false } 0 .none s
      | none =>
        match (c.msgs.filter (fun m => m.msgId == o.msgId && m.ptype != .abort)).head? with
        | none => setCtx peer { c with outs := c.outs.filter (fun x => x.seq != seq) } s
        | some m =>
          let (off, len) := pktSpan m o.index
          let carries := m.ptype = .data ∨ m.ptype = .readResponse ∨ m.ptype = .collective
          match srcBank s m off len with
          | some a => wakePad a len s
          | none =>
          match (if carries then srcRead s m off len else .ok []) with
          | .ok bytes =>
            let p := pktOf s peer c m o.index seq true true bytes
            let s := if carries then srcTouch (builderKs s m.owner peer c.home) m off len s else s
            leave (if isLine peer && o.tmpl.epoch == 0 then { p with epoch := 0, ackSeq := o.tmpl.ackSeq } else p) m.fn m.owner s
          | g => sourceFailed (builderKs s m.owner peer c.home) peer m off len g s

/-- The packet that waits to be sent again with the lowest number. -/
def nextResend (c : Ctx) : Option W32 :=
  (c.outs.filter (fun o => o.resend)).foldl (fun b o => match b with
    | none => some o.seq
    | some x => if sdist o.seq x < 0 then some o.seq else some x) none

/-- Send again at once, on a path drawn by weight, each of some packets that the gates let go. -/
def resendNow (peer : W32) (seqs : List W32) (s : State) : State :=
  foldS (fun q t =>
    let t := touchCtx peer t
    let w := ((ctxOf t peer).map (fun c => c.pathWeight)).getD []
    transmitAgain peer q (drawPath t w) (drawn t)) seqs s

/-- The path of a context's next packet, for a number that the Keystone's pseudo-random source draws (R159). -/
def pathFor (c : Ctx) (draw : Nat) : Nat := pathAt c.pathWeight 0 (draw % max 1 (c.pathWeight.foldl (· + ·) 0)) % 16

/-- PACKET_TRANSMIT, with the number that draws its path: retransmissions leave before first transmissions (R147). A
doorway message held for want of a context is offered again where the peer has none (R117, assumption 43). -/
def execPacketTransmit (peer : W32) (draw : Nat) (s : State) : Host.Outcome State Fault Refusal :=
  .next (if !(isReady s) then s else
    match ctxOf s peer with
    | none => foldS (fun c t => releaseDoor c.1 t) s.compute.cores s
    | some _ =>
      let s := touchCtx peer s
      let path := ((ctxOf s peer).map (fun c => pathFor c draw)).getD 0
      match (ctxOf s peer).bind nextResend with
      | some q => transmitAgain peer q path s
      | none => transmitFirst peer path s)

end Sys2Proof.Machine
end

