-- ==== Sys2Proof/Machine/Ack.lean ====
section
/-! DEFINITION. The sending side of the tally: ACK, NACK and RNR (R94, R95, R97, R121, R123, R131, R133 to R135), the timers
(R133, R135, R136), the ends of an opening, a response wait and a broken context (R119, R131, R139), and touches (R157,
R158). -/

namespace Sys2Proof.Machine

open Sys2Proof

/-! ## Arrival -/

/-- The context a packet belongs to: its source module's, or the line's (R200). -/
def ctxPeer (p : Packet) : W32 := if isLine p.dst then p.dst else p.src

/-- The wire checks of R101 that a packet's fields can fail: the counter's subindex of 0x9040. -/
def wireBad (s : State) (p : Packet) : Option Nat :=
  if 8192 < p.payload.length then some 5
  else if p.bondForm then none
  else if p.ptype = .tie then some 3
  else match p.ext with
    | .multicast _ _ _ _ _ => some 3
    | _ => if p.dst ≠ ownId s then some 8 else none

/-- A packet is taken from the internal port, if it waited there. -/
def takeIn (rx : RxInfo) (p : Packet) (s : State) : State :=
  let s := { s with eth := { s.eth with internal := dropFirst (rx, p) s.eth.internal } }
  match rx.port with
  | some port => freeHeld port p s
  | none => s

/-- A packet that passes the wire checks is handled by `f`; any other is dropped and counted. -/
def arrive (rx : RxInfo) (p : Packet) (f : State → State) (s : State) : State :=
  let s := takeIn rx p s
  match wireBad s p with
  | some sub => bump 0x9040 sub 1 s
  | none => f s

/-! ## What an answer acknowledges -/

/-- `ack_seq` passes a packet; one outside [tx_acked, tx_next] is ignored (R131). -/
def cumCovers (c : Ctx) (a : W32) (o : OutPkt) : Bool :=
  decide (0 ≤ sdist a c.txAcked) && decide (0 ≤ sdist c.txNext a) && decide (sdist o.seq a < 0)

/-- A SACK bit covers a number. -/
def sackCovers (base : W32) (bm : W64) (seq : W32) : Bool :=
  let d := (seq - base).toNat
  decide (d < 64) && bitOf bm.toNat d

/-- The lowest number not acknowledged. -/
def lowestOut (c : Ctx) : W32 := c.outs.foldl (fun m o => if sdist o.seq m < 0 then o.seq else m) c.txNext

/-- Release the records that an answer covers. On a line, a record is released once every member that had to acknowledge
it has (R201); `who` is the answering member's position. -/
def takeOuts (peer : W32) (who : Nat) (pred : OutPkt → Bool) (s : State) : List OutPkt × State :=
  match ctxOf s peer with
  | none => ([], s)
  | some c =>
    let hit := c.outs.filter pred
    if isLine peer then
      let acks := hit.foldl (fun t o =>
        tset t o.seq.toNat (tget 0 t o.seq.toNat &&& ~~~(BitVec.ofNat 32 (2 ^ (who % 32))))) c.memberAcks
      let free := hit.filter (fun o => tget 0 acks o.seq.toNat == 0)
      (free, setCtx peer { c with
        outs := c.outs.filter (fun o => !(free.any (fun f => f.seq == o.seq)))
        memberAcks := acks.filter (fun p => !(free.any (fun f => f.seq.toNat == p.1))) } s)
    else (hit, setCtx peer { c with outs := c.outs.filter (fun o => !(pred o)) } s)

/-! ## Round trips, marks and losses (R133, R134, R155, R160) -/

/-- R133: a sample of the round-trip time; the deviation is taken from the estimate just updated. -/
def rttSample (s : State) (m : Nat) (c : Ctx) : Ctx :=
  let srtt := if c.sampled then (7 * c.srtt + m) / 8 else m
  let rttvar := if c.sampled then (3 * c.rttvar + (if m < srtt then srtt - m else m - srtt)) / 4 else m / 2
  { c with srtt := srtt, rttvar := rttvar, sampled := true,
           rto := clampN (srtt + 4 * rttvar) (timerN s 1 s.now) (timerN s 4 s.now) }

/-- The sample that newly acknowledged packets give: from the one sent once that was sent last. -/
def sampleOf (s : State) (newly : List OutPkt) : Option Nat :=
  let once := newly.filter (fun o => o.sends == 1)
  if once.isEmpty then none else some (s.now - once.foldl (fun m o => max m o.lastSent) 0)

/-- Lower a path's weight by a penalty, not below 1. -/
def lowerPath (path n : Nat) (c : Ctx) : Ctx :=
  { c with pathWeight := setNth c.pathWeight path (max 1 (nthD 32 c.pathWeight path - n)) }

/-- A loss halves the weight of the path that the lost copy took. -/
def losePath (path : Nat) (c : Ctx) : Ctx :=
  if c.ethForm then { c with pathWeight := setNth c.pathWeight path (max 1 (nthD 32 c.pathWeight path / 2)) } else c

/-- Marks lower the weight of each path by ⌈step × e × n_p / N⌉. -/
def markPaths (s : State) (newly : List OutPkt) (e : Nat) (c : Ctx) : Ctx :=
  if !c.ethForm || newly.isEmpty then c else
  (rangeFrom 0 16).foldl (fun c p =>
    let np := (newly.filter (fun o => o.path == p)).length
    if np = 0 then c else lowerPath p (cdiv (ledN s 0x4150 7 * e * np) newly.length) c) c

/-- R134: packets overtaken by one sent at least max(1 µs, srtt / 4) after them. -/
def overtaken (c : Ctx) (newly : List OutPkt) : List W32 :=
  let latest := newly.foldl (fun m o => max m o.lastSent) 0
  let margin := max 1000 (c.srtt / 4)
  if newly.isEmpty then [] else
  (c.outs.filter (fun o => !o.resend && decide (o.lastSent + margin ≤ latest))).map (fun o => o.seq)

/-- Mark packets to be sent again. -/
def flagResend (peer : W32) (seqs : List W32) (s : State) : State :=
  modCtx peer (fun c => { c with outs := c.outs.map (fun o => if seqs.contains o.seq then { o with resend := true } else o) }) s

/-! ## Messages end -/

/-- Count a packet of a message as acknowledged. A message wholly acknowledged leaves the context; a request's wait for its
response starts. -/
def ackMessage (peer : W32) (o : OutPkt) (s : State) : State :=
  if o.abort.isSome then s else
  match ctxOf s peer with
  | none => s
  | some c =>
    match (c.msgs.filter (fun m => m.msgId == o.msgId && m.ptype != .abort)).head? with
    | none => s
    | some m =>
      let full := decide (m.pktCount ≤ m.acked + 1)
      let msgs := if full then c.msgs.filter (fun x => !(x.msgId == o.msgId && x.ptype != .abort))
        else c.msgs.map (fun x => if x.msgId = o.msgId then { x with acked := x.acked + 1 } else x)
      let reqs := c.reqs.map (fun r =>
        if r.msgId = o.msgId ∧ full = true then { r with acked := true, since := max r.since s.now } else r)
      let s := setCtx peer { c with msgs := msgs, reqs := reqs } s
      if full && ownerDone s m.owner then ownerFinished m.owner s else s

/-- What follows once records are released: the sample, the marks, early retransmission, the messages (R131, R133 to R134,
R155, R160). -/
def settleAcks (peer : W32) (newly : List OutPkt) (e : Nat) (s : State) : State :=
  let s := match sampleOf s newly with
    | some m => modCtx peer (rttSample s m) s
    | none => s
  let s := if 0 < e then modCtx peer (markPaths s newly e) (ccEcho peer s) else s
  let s := modCtx peer (fun c => { c with
    txAcked := lowestOut c
    rnrUntil := match c.rnrUntil with
      | some (q, t) => if newly.any (fun o => o.seq == q) then (if s.now < t then some (q, t) else none) else some (q, t)
      | none => none }) s
  let late := ((ctxOf s peer).map (fun c => overtaken c newly)).getD []
  let s := foldS (fun q t => modCtx peer (fun c =>
    match (c.outs.filter (fun o => o.seq == q)).head? with
    | some o => losePath o.path c
    | none => c) (bump 0x9041 0x0B 1 t)) late s
  let s := flagResend peer late s
  let s := foldS (ackMessage peer) newly s
  resendNow peer late s

/-- A piggybacked `ack_seq` of the reverse direction (R82). -/
def piggyback (peer : W32) (a : W32) (s : State) : State :=
  match ctxOf s peer with
  | some c =>
    if c.st = .opened && !(isLine peer) then
      let (newly, s) := takeOuts peer 0 (cumCovers c a) s
      if newly.isEmpty then s else settleAcks peer newly 0 s
    else s
  | none => s

/-! ## Answers arrive -/

/-- An answer names the opening (R121). -/
def answersOpening (c : Ctx) (p : Packet) : Bool :=
  p.ackSeq == c.openSeq + 1 ||
  (match p.ext with
   | .ack base bm => sackCovers base bm c.openSeq
   | .nack _ _ q _ => q == c.openSeq
   | .rnr _ _ q => q == c.openSeq
   | _ => false)

/-- The opener takes the answer's epoch and is open (R121). -/
def openCtx (epoch : Nat) (s : State) (c : Ctx) : Ctx :=
  { c with epoch := epoch, rxBase := c.openSeq ^^^ 0x80000000, txNext := c.openSeq + 1, st := .opened, seen := 0, done := 0,
           epochTime := nowUs s, unreported := 0, unreportable := [] }

/-- A refused packet's message fails (R73, R74). On a line the member is counted out instead (R201). -/
def refuseOut (peer : W32) (who status : Nat) (off : W64) (src : W32) (o : OutPkt) (s : State) : State :=
  if o.abort.isSome then s else
  match (ctxOf s peer).bind (fun c => (c.msgs.filter (fun m => m.msgId == o.msgId && m.ptype != .abort)).head?) with
  | none => s
  | some m =>
    if isLine peer then (match m.owner with
      | .entry q idx => clearDelivered q idx who s
      | _ => s)
    else
      let result : W64 := if status = stRemoteAccess ∨ status = stStaleKey then off else 0
      failOwner m.owner status result src s

/-- R135: nothing new for b, then the refused packet and every later one again. -/
def rnrArrived (peer : W32) (hint : Nat) (q : W32) (s : State) : State :=
  match ctxOf s peer with
  | none => s
  | some c =>
    match (c.outs.filter (fun o => o.seq == q)).head? with
    | none => s
    | some o =>
      let b := min (timerN s 6 o.firstSent) (max (hint * 1000) (timerN s 5 o.firstSent) * 2 ^ o.rnrs)
      let till := s.now + b
      setCtx peer { c with
        outs := modFirst (fun x => x.seq == q) (fun x => { x with rnrs := x.rnrs + 1, lastRnr := true, rnrWait := true }) c.outs
        rnrUntil := match c.rnrUntil with
          | none => some (q, till)
          | some (q', t) => some (if sdist q q' < 0 then q else q', max t till) } s

/-- An answer of the current epoch. -/
def answerIn (peer : W32) (p : Packet) (s : State) : State :=
  let s := touchCtx peer s
  match ctxOf s peer with
  | none => s
  | some c =>
    let who := memberPlace (lineAxis peer) p.src
    match p.ext with
    | .ack base bm =>
      let s := if isLine peer ∧ c.outs.any (fun o => decide (o.seq = c.openSeq) &&
          (cumCovers c p.ackSeq o || sackCovers base bm o.seq)) then
          modCtx peer (fun c => { c with members := c.members ||| BitVec.ofNat 32 (2 ^ (who % 32)) }) s
        else s
      let (newly, s) := takeOuts peer who (fun o => cumCovers c p.ackSeq o || sackCovers base bm o.seq) s
      settleAcks peer newly p.ecnEcho s
    | .nack st _ q off =>
      let (ref, s) := takeOuts peer who (fun o => o.seq == q) s
      let refused := c.outs.filter (fun o => o.seq == q)
      let (newly, s) := takeOuts peer who (fun o => o.seq != q && cumCovers c p.ackSeq o) s
      let s := foldS (refuseOut peer who st off p.src) refused s
      settleAcks peer (ref ++ newly) p.ecnEcho s
    | .rnr _ hint q =>
      let (newly, s) := takeOuts peer who (fun o => o.seq != q && cumCovers c p.ackSeq o) s
      rnrArrived peer hint q (settleAcks peer newly 0 s)
    | _ => s

/-- A line without members: what waits on it is undelivered (R201). -/
def endLine (peer : W32) (s : State) : State :=
  match ctxOf s peer with
  | none => s
  | some c =>
    let owners := (c.msgs.map (fun m => m.owner)).eraseDups
    let s := setCtx peer { c with msgs := [], outs := [], memberAcks := [] } s
    foldS (fun o t => match o with
      | .entry q idx => completeWith q idx stPartial 0 0 0 2 t
      | _ => t) owners s

/-- The epoch of an opened or opening context, by the rules of R121 and R123. -/
def answerEpoch (peer : W32) (p : Packet) (s : State) : State :=
  match ctxOf s peer with
  | none => s
  | some c =>
    if !c.onChip then s else
    match c.st with
    | .unopened => s
    | .opening =>
      if answersOpening c p then
        (match p.ext with
         | .nack st _ _ _ =>
           if p.epoch = 0 then
             -- refused by a module that opens no context yet (R468): the opening's entry ends, the context stays unopened; on a
             -- line that position is no member, and the opening ends with the last of them (R200, R201)
             if isLine peer then
               (let (newly, s) := takeOuts peer (memberPlace (lineAxis peer) p.src) (fun _ => true) s
                if newly.isEmpty then s else endLine peer (modCtx peer (fun c => { c with st := .unopened, members := 0 }) s))
             else
             (let fail := c.outs
              let s := foldS (refuseOut peer 0 st 0 p.src) fail s
              modCtx peer (fun c => { c with st := .unopened, outs := [] }) s)
           else answerIn peer p (modCtx peer (openCtx p.epoch s) s)
         | _ => answerIn peer p (modCtx peer (openCtx p.epoch s) s))
      else s
    | .opened =>
      (match p.ext with
       | .nack st cur _ _ =>
         if st = stRemoteReset then
           if cur = c.epoch then s
           else
             let s := bump 0x9041 0x0E 1 (touchCtx peer s)
             let s := modCtx peer (fun c => { c with st := .unopened }) s
             endOutstanding peer stRemoteReset p.src false s
         else if p.epoch = c.epoch then answerIn peer p s
         else if isLine peer && p.epoch == 0 then
           (let (newly, s) := takeOuts peer (memberPlace (lineAxis peer) p.src) (fun o => o.seq == c.openSeq) s
            if newly.isEmpty then s else settleAcks peer newly 0 s)
         else s
       | _ => if p.epoch = c.epoch then answerIn peer p s else s)

/-- ACK_RECEIVE (R131). -/
def execAckReceive (rx : RxInfo) (p : Packet) (s : State) : Host.Outcome State Fault Refusal :=
  .next (if p.ptype = .ack then arrive rx p (answerEpoch (ctxPeer p) p) s else s)

/-- NACK_RECEIVE (R95, R123). -/
def execNackReceive (rx : RxInfo) (p : Packet) (s : State) : Host.Outcome State Fault Refusal :=
  .next (if p.ptype = .nack then arrive rx p (answerEpoch (ctxPeer p) p) s else s)

/-- RNR_RECEIVE (R135). -/
def execRnrReceive (rx : RxInfo) (p : Packet) (s : State) : Host.Outcome State Fault Refusal :=
  .next (if p.ptype = .rnr then
      arrive rx p (fun s => answerEpoch (ctxPeer p) p (bump 0x9041 9 1 s)) s
    else s)

/-! ## Timers -/

def outOf (s : State) (peer seq : W32) : Option OutPkt :=
  (ctxOf s peer).bind (fun c => (c.outs.filter (fun o => o.seq == seq)).head?)

/-- RETRANSMIT_TIMEOUT (R133): sent again, its timeout doubled; it acts on the rate as an echo of 1 does (R155). -/
def execRetransmitTimeout (peer : W32) (seq : W32) (s : State) : Host.Outcome State Fault Refusal :=
  .next (match outOf s peer seq with
    | none => s
    | some o =>
      if o.resend || !(isReady s) then s else
      let s := bump 0x9041 0x0A 1 (advanceTo (o.lastSent + o.timeout) s)
      let s := ccEcho peer (touchCtx peer s)
      let again (x : OutPkt) : OutPkt := { x with resend := true, timeout := min (2 * x.timeout) (timerN s 4 o.firstSent) }
      let s := modCtx peer (fun c => losePath o.path { c with outs := modFirst (fun x => x.seq == seq) again c.outs }) s
      resendNow peer [seq] s)

/-- The lowest refused packet that waits for the back-off's end and is not acknowledged. -/
def lowestWaiting (c : Ctx) : Option W32 :=
  (c.outs.filter (fun o => o.rnrWait)).foldl (fun b o => match b with
    | none => some o.seq
    | some x => if sdist o.seq x < 0 then some o.seq else some x) none

/-- RNR_BACKOFF_EXPIRY (R135). -/
def execRnrBackoffExpiry (peer : W32) (s : State) : Host.Outcome State Fault Refusal :=
  .next (match (ctxOf s peer).bind (fun c => c.rnrUntil) with
    | none => s
    | some (_, t) =>
      let s := advanceTo t s
      let seqs := match ctxOf s peer with
        | some c => (match lowestWaiting c with
          | some q => (c.outs.filter (fun o => decide (0 ≤ sdist o.seq q))).map (fun o => o.seq)
          | none => [])
        | none => []
      let s := modCtx peer (fun c => { c with
        rnrUntil := none, outs := c.outs.map (fun o => { o with rnrWait := false }) }) s
      if isReady s then resendNow peer seqs (flagResend peer seqs s) else s)

/-- Members of a line that did not acknowledge a packet leave the line context (R201). -/
def dropMembers (peer : W32) (gone : W32) (s : State) : State :=
  match ctxOf s peer with
  | none => s
  | some c =>
    let places := bitsOf gone.toNat 32
    let owners := ((c.outs.filterMap (fun o =>
      (c.msgs.filter (fun m => m.msgId == o.msgId)).head?.map (fun m => m.owner))) ++ c.msgs.map (fun m => m.owner)).eraseDups
    let s := foldS (fun o t => match o with
      | .entry q idx => foldS (fun n u => clearDelivered q idx n u) places t
      | _ => t) owners s
    let s := modCtx peer (fun c => { c with members := c.members &&& ~~~gone }) s
    foldS (fun n t =>
      let (newly, t) := takeOuts peer n (fun _ => true) t
      settleAcks peer newly 0 t) places s
    |> fun s => match ctxOf s peer with
      | some c => if c.st = .opened ∧ c.members = 0 then endLine peer s else s
      | none => s

/-- GIVE_UP_EXPIRY (R136); on a line the members that stay silent leave it (R201). -/
def execGiveUpExpiry (peer : W32) (seq : W32) (s : State) : Host.Outcome State Fault Refusal :=
  .next (match outOf s peer seq, ctxOf s peer with
    | some o, some c =>
      if o.abort.isSome || c.st != .opened || !(isReady s) then s else
      let s := advanceTo (o.firstSent + timerN s 2 o.firstSent) s
      if isLine peer then dropMembers peer (tget 0 c.memberAcks seq.toNat) s
      else match (c.msgs.filter (fun m => m.msgId == o.msgId && m.ptype != .abort)).head? with
        | some m =>
          failOwner m.owner (if o.lastRnr then stRnrGiveup else stTimeout) 0 0
            (if ownerCounts m.owner then bump 0x9041 0x11 1 s else s)
        | none => s
    | _, _ => s)

/-- RESPONSE_GIVE_UP (R131): no response within one give-up time. -/
def execResponseGiveUp (peer : W32) (msgId : W32) (s : State) : Host.Outcome State Fault Refusal :=
  .next (match (ctxOf s peer).bind (fun c => (c.reqs.filter (fun r => r.msgId == msgId)).head?) with
    | some r =>
      if r.acked && isReady s then
        failOwner r.owner stTimeout 0 0 (bump 0x9041 0x11 1 (advanceTo (r.since + timerN s 2 r.since) s))
      else s
    | none => s)

/-- OPENING_GIVE_UP (R119): the opening's entry ends, the context is unopened again. On a line no position
answered, and what waits on it is undelivered. -/
def execOpeningGiveUp (peer : W32) (s : State) : Host.Outcome State Fault Refusal :=
  .next (match ctxOf s peer with
    | none => s
    | some c =>
      match c.st, c.outs.head? with
      | .opening, some o =>
        if !(isReady s) then s else
        let s := advanceTo (o.firstSent + timerN s 2 o.firstSent) s
        let owner := ((c.msgs.filter (fun m => m.msgId == o.msgId)).head?.map (fun m => m.owner)).getD .none
        let s := modCtx peer (fun c => { c with st := .unopened, outs := [], rnrUntil := none, memberAcks := [] }) s
        if isLine peer then
          endLine peer (modCtx peer (fun c => { c with members := 0 }) s)
        else failOwner owner (if o.lastRnr then stRnrGiveup else stTimeout) 0 0 (bump 0x9041 0x11 1 s)
      | _, _ => s)

/-- ABORT_GIVE_UP (R139): the context is broken. -/
def execAbortGiveUp (peer : W32) (seq : W32) (s : State) : Host.Outcome State Fault Refusal :=
  .next (match outOf s peer seq with
    | some o =>
      if o.abort.isNone || !o.abortSent || !(isReady s) then s else
      let s := bump 0x9041 0x0E 1 (advanceTo (o.firstSent + timerN s 2 o.firstSent) s)
      let s := modCtx peer (fun c => { c with st := .unopened }) s
      endOutstanding peer stTimeout 0 true s
    | none => s)

/-! ## Touches -/

/-- CONTEXT_PERIODIC_TOUCH (R157): a cached context. -/
def execContextPeriodicTouch (peer : W32) (s : State) : Host.Outcome State Fault Refusal :=
  .next (match ctxOf s peer with
    | some c => if c.onChip then modCtx peer (ccTouch s) s else s
    | none => s)

/-- A context has packets that wait. -/
def ctxWaits (s : State) (peer : W32) (c : Ctx) : Bool := (nextResend c).isSome || (nextMsg s peer c).isSome

/-- PACING_TOUCH (R158): a context with packets waiting is refilled. -/
def execPacingTouch (peer : W32) (s : State) : Host.Outcome State Fault Refusal :=
  .next (match ctxOf s peer with
    | some c => if c.onChip && ctxWaits s peer c then modCtx peer (ccTouch s) s else s
    | none => s)

end Sys2Proof.Machine
end

