-- ==== Sys2Proof/Machine/Reassembly.lean ====
section
/-! DEFINITION. The receiving side's bookkeeping: the window and its ACKs (R128 to R130, R212), receive areas (R69, R70),
message trackers and the end of a message (R105 to R107, R93, R210, R326). -/

namespace Sys2Proof.Machine

open Sys2Proof

/-! ## The window -/

/-- The trailing ones of a bitmap, up to `fuel`. -/
def leadingDone (b : Nat) : Nat → Nat → Nat
  | 0, n => n
  | fuel + 1, n => if bitOf b n then leadingDone b fuel (n + 1) else n

/-- Slide the window over finished packets. -/
def slideWindow (c : Ctx) : Ctx :=
  let n := leadingDone c.done.toNat 1024 0
  { c with rxBase := c.rxBase + BitVec.ofNat 32 n, seen := c.seen >>> n, done := c.done >>> n }

/-- A bit of the window. -/
def winBit (b : BitVec 1024) (d : Nat) : Bool := bitOf b.toNat d
def winSet (b : BitVec 1024) (d : Nat) : BitVec 1024 := b ||| BitVec.ofNat 1024 (2 ^ d)

/-- `set_seen` and `set_done` of a number inside the window. -/
def seeSeq (seq : W32) (c : Ctx) : Ctx := { c with seen := winSet c.seen (seq - c.rxBase).toNat }
def doneSeq (seq : W32) (c : Ctx) : Ctx :=
  let d := (seq - c.rxBase).toNat
  if d < 1024 then slideWindow { c with done := winSet c.done d } else c

/-- Aborted trackers of a context that the cumulative point has passed are freed (R107). -/
def sweepTrackers (peer : W32) (s : State) : State :=
  match ctxOf s peer with
  | none => s
  | some c =>
    { s with enpin := { s.enpin with trackers := s.enpin.trackers.filter (fun t =>
        !(t.peer == peer && t.st == .aborted && decide (0 < sdist c.rxBase t.lastSeq))) } }

/-- A packet is done (R129): the window slides, and an ACK goes when it asked for one or the count is reached (R130). Only an ACK
reports it: the `ack_seq` of a reverse packet, a NACK or an RNR does not count as its report (DESIGN CHOICE, assumption 79). -/
def packetDone (peer seq : W32) (ackReq : Bool) (s : State) : State :=
  match ctxOf s peer with
  | none => s
  | some c =>
    let c := doneSeq seq c
    let c := { c with unreported := c.unreported + 1, unreportedAt := if c.unreported = 0 then s.now else c.unreportedAt }
    let s := sweepTrackers peer (setCtx peer c s)
    if ackReq || decide (timerN s 8 s.now ≤ c.unreported) then ackNow peer s else s

/-- ACK_DELAY_EXPIRY (R130). -/
def execAckDelayExpiry (peer : W32) (s : State) : Host.Outcome State Fault Refusal :=
  .next (match ctxOf s peer with
    | some c =>
      if c.unreported = 0 || !(isReady s) then s else ackNow peer (advanceTo (c.unreportedAt + timerN s 7 c.unreportedAt) s)
    | none => s)

/-! ## Receive areas (R69, R70) -/

/-- The send queue that a QP names, in its function's numbering. -/
def qpQueue (s : State) (qp : Nat) : Option QRef :=
  if doorwayBase ≤ qp then none
  else (qpFn s qp).map (fun f => { fn := f, kind := .send, index := localQp s qp })

/-- A receive record (R38). -/
def recvRec (q : QRef) (u : SlotUse) (status : Nat) : Rec :=
  mkRec [(0, 1, status), (1, 1, 0x06), (2, 1, 8), (4, 4, q.index), (8, 2, u.slot), (10, 2, 1),
         (12, 4, if status = stOk then u.received else 0), (16, 4, if status = stOk then u.imm.toNat else 0),
         (24, 4, u.peer.toNat)]

/-- Write a receive record in the place reserved for it; it is held only while the ring cannot be reached (R70, R379). -/
def emitReserved (q : QRef) (ring : Nat) (c : Rec) (s : State) : State :=
  let s := modCq q.fn ring (fun r => { r with reserved := r.reserved - 1 }) s
  if isFatal s then s else
  let r := cqOf s q.fn ring
  if !r.enable || (r.inHost && !(hostOk s)) then modCq q.fn ring (fun r => { r with held := r.held ++ [(q, c)] }) s
  else recWrite q ring c s

/-- Write the receive records that are due, in slot order. -/
def recvFlush (q : QRef) : Nat → State → State
  | 0, s => s
  | fuel + 1, s =>
    match (queueOf s q).slotsUsed with
    | [] => s
    | u :: rest => match u.done with
      | none => s
      | some st =>
        recvFlush q fuel (emitReserved q (queueOf s q).cq (recvRec q u st) (modQueue q (fun x => { x with slotsUsed := rest }) s))

/-- The same for the slots of an earlier enable, in the completion ring that reserved their records. -/
def recvFlushPast (q : QRef) : Nat → State → State
  | 0, s => s
  | fuel + 1, s =>
    match (queueOf s q).slotsPast with
    | [] => s
    | u :: rest => match u.1.done with
      | none => s
      | some st =>
        recvFlushPast q fuel (emitReserved q u.2 (recvRec q u.1 st) (modQueue q (fun x => { x with slotsPast := rest }) s))

/-- A message's slot is finished with a status. -/
def slotDone (t : Tracker) (src : W32) (status : Nat) (s : State) : State :=
  match t.slot, qpQueue s t.dstQp with
  | some slot, some q =>
    let mine (u : SlotUse) : Bool := u.slot == slot && u.done.isNone && u.peer == src && u.msgId == t.msgId
    let past := (queueOf s q).slotsPast.any (fun p => mine p.1)
    let s := modQueue q (fun x =>
      if past then
        { x with slotsPast := modFirst (fun p => mine p.1) (fun p => ({ p.1 with done := some status }, p.2)) x.slotsPast }
      else { x with slotsUsed := modFirst mine (fun u => { u with done := some status }) x.slotsUsed }) s
    recvFlush q ((queueOf s q).slotsUsed.length + 1) (recvFlushPast q ((queueOf s q).slotsPast.length + 1) s)
  | _, _ => s

/-! ## Trackers (R105) -/

/-- The epoch of a context. -/
def epochOf (s : State) (peer : W32) : Nat := ((ctxOf s peer).map (fun c => c.epoch)).getD 0

def trackerIs (peer : W32) (epoch : Nat) (msgId : W32) (t : Tracker) : Bool :=
  t.peer == peer && t.epoch == epoch && t.msgId == msgId

def trackerOf (s : State) (peer msgId : W32) : Option Tracker :=
  (s.enpin.trackers.filter (trackerIs peer (epochOf s peer) msgId)).head?

def modTracker (peer msgId : W32) (f : Tracker → Tracker) (s : State) : State :=
  { s with enpin := { s.enpin with
      trackers := modFirst (trackerIs peer (epochOf s peer) msgId) f s.enpin.trackers } }

def addTracker (t : Tracker) (s : State) : State := { s with enpin := { s.enpin with trackers := s.enpin.trackers ++ [t] } }

def freeTracker (peer msgId : W32) (s : State) : State :=
  let s := touchTrackers (s.enpin.trackers.filter (trackerIs peer (epochOf s peer) msgId)) s
  { s with enpin := { s.enpin with trackers := s.enpin.trackers.filter (fun t => !(trackerIs peer (epochOf s peer) msgId t)) } }

/-- A Keystone has a free tracker, of 32,768 (R106). -/
def trackerRoom (s : State) (ks : Nat) : Bool := decide ((s.enpin.trackers.filter (fun t => t.ks == ks)).length < 32768)

/-- The packets of a message that are held back from every ACK are reported (R212). -/
def releaseHeldAcks (peer msgId : W32) (s : State) : State :=
  match ctxOf s peer with
  | none => s
  | some c =>
    let mine := c.unreportable.filter (fun u => u.1 == msgId)
    let s := setCtx peer { c with unreportable := c.unreportable.filter (fun u => u.1 != msgId) } s
    foldS (fun u t => packetDone peer u.2.1 u.2.2 t) mine s

/-- A written packet that stayed in progress for its signal has ended (R210). -/
def endSignalHold (peer msgId : W32) (s : State) : State :=
  { s with enpin := { s.enpin with adms := s.enpin.adms.filter (fun a => !(a.peer == peer && a.msgId == msgId && a.written)) } }

/-- An earlier message of the chain is still open (R93). -/
def chainOpen (s : State) (t : Tracker) : Bool :=
  match trackerOf s t.peer (t.msgId - 1) with
  | some p => p.chained
  | none => false

/-- A message is complete (R105 rule 4): signal, receive record, SOLICITED, the tracker is freed; then the next message of
its chain, if that one only waited for this. -/
def completeMessage (peer : W32) : Nat → W32 → State → State
  | 0, _, s => s
  | fuel + 1, msgId, s =>
    match trackerOf s peer msgId with
    | none => s
    | some t =>
      if t.st ≠ .open ∨ t.written < t.pktCount ∨ (t.sig.isSome = true ∧ chainOpen s t = true) then s
      else
        let src := peerModule s peer
        let s := match t.sig with
          | some d => applySignal t.vdev d s
          | none => s
        let s := freeTracker peer msgId (endSignalHold peer msgId s)
        let s := slotDone t src stOk s
        let s := if t.solicit && !t.chained then
            raiseEvent t.vdev 0x01 0 src (localQp s t.dstQp) t.srcQp t.msgId.toNat s
          else s
        let s := if t.stalled then streamEvent 1 { t with peer := src } s else s
        let s := releaseHeldAcks peer msgId s
        if t.chained then completeMessage peer fuel (msgId + 1) s else s

/-- The tracker counts one packet as written. -/
def countWritten (peer msgId : W32) (s : State) : State :=
  completeMessage peer 64 msgId (modTracker peer msgId (fun t => { t with written := t.written + 1 }) s)

/-- Mark an open or refused message as ended without its signal: its slot is FLUSHED, its held packets are reported, its
watcher is told (R107, R73, R210, R212, R326). -/
def closeMessage (t : Tracker) (st : TrackerState) (lastSeq : W32) (s : State) : State :=
  let src := peerModule s t.peer
  let s := touchTrackers [t] s
  let s := modTracker t.peer t.msgId (fun x => { x with st := st, lastSeq := lastSeq, sig := none, slot := none }) s
  let s := endSignalHold t.peer t.msgId s
  let s := slotDone t src stFlushed s
  let s := streamEvent 2 { t with peer := src } s
  releaseHeldAcks t.peer t.msgId s

/-- Every open tracker of a context is marked aborted (R120). With the epoch that held them gone, nothing later of their
messages can come, so they are freed at once. -/
def abortTrackers (peer : W32) (s : State) : State :=
  let mine := s.enpin.trackers.filter (fun t => t.peer == peer)
  let s := foldS (fun t u => if t.st = .open then closeMessage t .aborted t.lastSeq u else u) mine s
  { s with enpin := { s.enpin with trackers := s.enpin.trackers.filter (fun t => t.peer != peer),
                                   notices := s.enpin.notices.filter (fun n => n.1 != peer) } }

end Sys2Proof.Machine
end

