-- ==== Sys2Proof/Machine/Admit.lean ====
section
/-! DEFINITION. What happens to a sequenced packet that the window lets through: the banker (R140 to R144), the checks of
access (R71, R113, R209), trackers and slots (R69, R70, R106), delivery room (R264), refusals (R73, R74), and the
execution of DATA, READ_REQUEST, ATOMIC, the responses and ABORT (R89, R90, R105, R107, R129). -/

namespace Sys2Proof.Machine

open Sys2Proof

/-- What admission decides. -/
inductive Verdict where
  | parked
  | notReady (cause hint : Nat)
  | noRoom
  | refused (status : Nat)
  | admitted
deriving DecidableEq, Repr

/-! ## The banker (R140, R141) -/

def bankerOf (s : State) (ks : Nat) : List Parked := if ks = 0 then s.enpin.banker0 else s.enpin.banker1
def setBanker (ks : Nat) (l : List Parked) (s : State) : State :=
  if ks = 0 then { s with enpin := { s.enpin with banker0 := l } } else { s with enpin := { s.enpin with banker1 := l } }

/-- An RNR of the banker: at most one for a source in each microsecond of a Keystone. -/
def bankerRnr (ks : Nat) (p : Packet) (s : State) : State :=
  let k := ks * 2 ^ 32 + p.src.toNat
  let last := tfind s.enpin.rnrSent k
  if (match last with
      | some t => decide (s.now < t + 1000)
      | none => false) then s
  else sendRnr (ctxPeer p) p 2 1 { s with enpin := { s.enpin with rnrSent := tset s.enpin.rnrSent k s.now } }

def parkedBlocks (l : List Parked) : Nat := (l.map (fun k => k.blocks)).foldl (· + ·) 0

/-- Park a packet, or drop it with its count and its answer. A fetch is issued for each context that nothing waits for
yet (R140: one fetch serves all). -/
def parkPacket (rx : RxInfo) (p : Packet) (tally : Bool) (qp : Option Nat) (s : State) : State :=
  let ks := rx.ks % 2
  let b := bankerOf s ks
  let n := cdiv (enpinLen p) 256
  if 4096 < parkedBlocks b + n then bankerRnr ks p (bump 0x9041 4 1 s)
  else if timerN s 0x0B s.now < parkedBlocks (b.filter (fun k => k.pkt.src == p.src)) + n then
    bankerRnr ks p (bump 0x9041 5 1 s)
  else
    let s := bump 0x9041 3 1 s
    let all := s.enpin.banker0 ++ s.enpin.banker1
    let sends := match ctxOf s (ctxPeer p) with
      | some c => !c.msgs.isEmpty
      | none => false
    let s := if tally && !(all.any (fun k => k.needTally && ctxPeer k.pkt == ctxPeer p)) && !sends then bump 0x9041 1 1 s else s
    let s := if qp.isSome && !(all.any (fun k => k.needQp == qp)) then bump 0x9041 2 1 s else s
    setBanker ks (b ++ [{ rx := rx, pkt := p, blocks := n, needTally := tally, needQp := qp, at_ := s.now }]) s

/-- The destination QP whose context a packet needs and that is not on chip (R140, R144). A QP that is not enabled has no
context to fetch. -/
def missingQp (s : State) (p : Packet) : Option Nat :=
  match p.ptype with
  | .data => go
  | .readRequest => go
  | .atomic => go
  | _ => none
where
  go : Option Nat :=
    match qpQueue s p.dstQp with
    | some q =>
      let x := queueOf s q
      if x.enable && !(ringSram x.size) && !(s.enpin.qpOnChip.contains p.dstQp) then some p.dstQp else none
    | none => none

/-! ## The access a packet asks for (R71) -/

inductive AccKind where
  | write
  | read
  | atomic
  | send
  | signalOnly
deriving DecidableEq, Repr

structure Access where
  kind : AccKind
  key : W32
  off : Nat
  len : Nat
  srcQp : Nat
  op : Nat
deriving DecidableEq, Repr

/-- The key that a SEND's checks use: the receive area of the destination QP, 0 for none (R68). -/
def areaKey (s : State) (qp : Nat) : W32 :=
  match qpQueue s qp with
  | some q => if (queueOf s q).enable then (queueOf s q).recvKey else 0
  | none => 0

def accessOf (s : State) (p : Packet) : Access :=
  match p.ext with
  | .data key off qp op a _ =>
    if p.ptype = .readRequest then
      { kind := .read, key := key, off := off.toNat, len := a.toNat % 2 ^ 32, srcQp := qp, op := op }
    else if p.ptype = .atomic then { kind := .atomic, key := key, off := off.toNat, len := 8, srcQp := qp, op := op }
    else if op = 0x06 then
      { kind := .send, key := areaKey s p.dstQp, off := off.toNat, len := p.payload.length, srcQp := qp, op := op }
    else if op = 0x21 then { kind := .signalOnly, key := 0, off := 0, len := 0, srcQp := qp, op := op }
    else { kind := .write, key := key, off := off.toNat, len := p.payload.length, srcQp := qp, op := op }
  | .multicast key off qp _ _ =>
    { kind := .write, key := key, off := off.toNat, len := p.payload.length, srcQp := qp, op := 0x07 }
  | _ => { kind := .write, key := 0, off := 0, len := 0, srcQp := 0, op := 0 }

/-- The SEND's immediate, which its key field carries. -/
def immOf (p : Packet) : W32 :=
  match p.ext with
  | .data key _ _ _ _ _ => key
  | _ => 0

/-- The bytes of a receive slot. -/
def slotBytes (s : State) (qp : Nat) : Nat :=
  match qpQueue s qp with
  | some q => 2 ^ (queueOf s q).recvLog2Size
  | none => 0

/-- The slot that a packet's SEND uses: its message's, else the next one (R69). -/
def packetSlot (s : State) (p : Packet) : Nat :=
  match trackerOf s (ctxPeer p) p.msgId with
  | some t => t.slot.getD 0
  | none => (match qpQueue s p.dstQp with
    | some q => (queueOf s q).recvNext
    | none => 0)

/-- The target of an access of a key entry, with the slot of a SEND. -/
def accessTarget (s : State) (p : Packet) (a : Access) (slot : Nat) : Target :=
  let e := keyOf s (keyIdx a.key)
  match a.kind with
  | .signalOnly => .nothing
  | .send => .tier e.tier (e.base + slot * slotBytes s p.dstQp + a.off)
  | _ => .tier e.tier (e.base + a.off)

/-- The dies of a range of a tier: those of its HBM stacks, or of its scratchpad (R292). -/
def tierDies (tier base len : Nat) : List Nat :=
  match tier with
  | 0 => rangeFrom (hbmDie base) (hbmDie (base + (len - 1)) + 1 - hbmDie base)
  | 2 => [coreDie (base / 2 ^ 22)]
  | _ => []

/-- The dies whose core domains an access needs (R71 check 3): those of the memory it is aimed at, or of the core its signal names
when it carries nothing else. -/
def accessDies (s : State) (p : Packet) (a : Access) : List Nat :=
  match a.kind with
  | .signalOnly => (match p.sig with
    | some d => if sigKind d = 0 then [coreDie (sigCore d)] else []
    | none => [])
  | _ =>
    if !(keyCurrent s a.key) then []
    else match accessTarget s p a (packetSlot s p) with
      | .tier t b => tierDies t b a.len
      | _ => []

/-- R113: the association is another virtual device's, or a plain packet meets a virtual device that requires secure
ones. -/
def secureWrong (s : State) (p : Packet) (vdev : Nat) : Bool :=
  if p.secure then (match tfind s.sec.rxSas p.sa with
    | some a => a.owner != vdev
    | none => true)
  else (fnOf s vdev).keyPage.rxRequired

/-- Checks 4 to 8 of R71 and the signal check of R209: 0, or the status of the first that fails. The Boolean tells a
refused signal. -/
def accessStatus (s : State) (p : Packet) (a : Access) : Nat × Bool :=
  match qpFn s p.dstQp with
  | none => (stRemoteAccess, a.kind == .signalOnly)
  | some v =>
    let e := keyOf s (keyIdx a.key)
    let keyed :=
      if a.kind = .signalOnly then stOk
      else if keyIdx a.key = 0 then stRemoteAccess
      else if e.generation ≠ keyGen a.key then stStaleKey
      else if !e.valid || e.owner != v || e.recvArea != (a.kind == .send) || secureWrong s p v then stRemoteAccess
      else if (a.kind == .write && !(bitOf e.rights 0)) || (a.kind == .read && !(bitOf e.rights 1)) ||
          (a.kind == .atomic && !(bitOf e.rights 2)) then stRemoteAccess
      else if a.kind = .send then (if slotBytes s p.dstQp < a.off + a.len then stRemoteAccess else stOk)
      else if e.length * 256 < a.off + a.len || (a.kind == .atomic && a.off % 8 != 0) then stRemoteAccess
      else stOk
    if keyed ≠ stOk then (keyed, false)
    else match p.sig with
      | some d => if sigAllowed s v d then (stOk, false) else (stRemoteAccess, true)
      | none => if a.kind = .signalOnly then (stRemoteAccess, true) else (stOk, false)

/-! ## Refusal (R73, R74) -/

/-- A packet is refused: the message's tracker records it, and the first refusal of the message raises the event. Without a
free tracker the packet is answered receiver-not-ready instead. -/
def refusePacket (peer : W32) (p : Packet) (a : Access) (status : Nat) (s : State) : Verdict × State :=
  let vdev := qpFn s p.dstQp
  let ev (t : State) : State :=
    raiseEvent (vdev.getD 0) status status p.src a.srcQp a.key.toNat a.off t
  match trackerOf s peer p.msgId with
  | some t =>
    if t.st = .open then (.refused status, ev (closeMessage t .refused t.lastSeq s))
    else (.refused status, s)
  | none =>
    if !(trackerRoom s (qpKs p.dstQp)) then (.notReady 5 0, s)
    else
      let t : Tracker := { peer := peer, epoch := epochOf s peer, msgId := p.msgId, ks := qpKs p.dstQp, st := .refused,
                           pktCount := p.pktCount, dstQp := p.dstQp, srcQp := a.srcQp, op := a.op, vdev := vdev.getD 0 }
      (.refused status, ev (addTracker t s))

/-! ## Room (R69, R70, R264) -/

/-- The deliveries admitted for a core's scratchpad and not yet written, oldest first: Keystone and bytes. -/
def deliveries (s : State) (core : Nat) : List (Nat × Nat) :=
  (s.enpin.adms.filter (fun a => !a.written && (match a.tgt with
    | .tier 2 b => b / 2 ^ 22 == core
    | _ => false))).map (fun a => (a.ks, a.data.length))

/-- Bytes in a core's 32 KiB delivery port, and in its hold on a Keystone: the oldest deliveries that fit stand in the port
(R264; which ones do is a DESIGN CHOICE, assumption 81). -/
def portAndHold (ks : Nat) (ds : List (Nat × Nat)) : Nat × Nat :=
  ds.foldl (fun u d => if u.1 + d.2 ≤ 32768 then (u.1 + d.2, u.2) else (u.1, if d.1 = ks then u.2 + d.2 else u.2)) (0, 0)

/-- What the enabled cut rules of a core reserve of its hold, on the Keystone that reaches its cluster (R16, R336). -/
def cutReserved (s : State) (ks core : Nat) : Nat :=
  if coreCluster core % 2 = ks then
    ((s.cut.rules.filter (fun p => p.2.enable && cutCore p.2.desc == core)).map (fun p => df p.2.desc 16 4)).foldl (· + ·) 0
  else 0

/-- The delivery port or the hold behind it has room for a packet's data (R264). -/
def deliverRoom (s : State) (ks : Nat) (t : Target) (len : Nat) : Bool :=
  match t with
  | .tier 2 b =>
    let u := portAndHold ks (deliveries s (b / 2 ^ 22))
    decide (u.1 + len ≤ 32768) || decide (u.2 + len + cutReserved s ks (b / 2 ^ 22) ≤ ledN s 0x5110 2)
  | _ => true

/-- A slot and a record can be had for the first packet of a SEND. -/
def slotReady (s : State) (qp : Nat) : Bool :=
  match qpQueue s qp with
  | some q =>
    let x := queueOf s q
    decide (0 < x.recvFree) && !(cqOf s q.fn x.cq).full
  | none => false

/-- CQ_FULL for an admission that no record could be reserved for (R70). -/
def slotRefused (qp : Nat) (s : State) : State :=
  match qpQueue s qp with
  | some q =>
    let x := queueOf s q
    if decide (0 < x.recvFree) then cqFull q.fn x.cq 1 q.index s else s
  | none => s

/-! ## Admission -/

/-- Admission of DATA, READ_REQUEST and ATOMIC packets: the banker, then the checks in their order. -/
def admitAccess (rx : RxInfo) (p : Packet) (s : State) : Verdict × State :=
  let peer := ctxPeer p
  match missingQp s p with
  | some qp =>
    if !(hostOk s) then (.parked, bankerRnr (rx.ks % 2) p (bump 0x9041 7 1 s))
    else (.parked, parkPacket rx p false (some qp) s)
  | none =>
    let a := accessOf s p
    let t := trackerOf s peer p.msgId
    let late := match t with
      | some t => t.st == TrackerState.aborted
      | none => false
    if late then (.admitted, s)
    else if (match qpFn s p.dstQp with
        | some v => fnStopped s v
        | none => false) then (.notReady 3 0, s)
    else if (accessDies s p a).any (fun d => (dieOf s d).coreOff) then
      (.notReady 4 0, foldS askWake ((accessDies s p a).filter (fun d => (dieOf s d).coreOff)) s)
    else
      let (st, sig) := accessStatus s p a
      if st ≠ stOk then refusePacket peer p a st (if sig then bump 0x9060 5 1 s else s)
      else if (match t with
          | some t => t.st == TrackerState.refused
          | none => false) then (.admitted, s)
      else if t.isNone && !(trackerRoom s (qpKs p.dstQp)) then (.notReady 5 0, s)
      else if t.isNone && a.kind == .send && !(slotReady s p.dstQp) then (.notReady 1 0, slotRefused p.dstQp s)
      else
        if deliverRoom s (rx.ks % 2) (accessTarget s p a (packetSlot s p)) p.payload.length then (.admitted, s)
        else (.noRoom, bump 0x9061 2 1 s)

/-! ## Execution -/

/-- Take the next slot and reserve a record for a message (R69, R70). -/
def takeSlot (peer : W32) (p : Packet) (s : State) : Option Nat × State :=
  match qpQueue s p.dstQp with
  | none => (none, s)
  | some q =>
    let x := queueOf s q
    let n := x.recvNext
    let s := modQueue q (fun x => { x with
      recvNext := (x.recvNext + 1) % 2 ^ x.recvLog2Slots, recvFree := x.recvFree - 1
      slotsUsed := x.slotsUsed ++ [{ slot := n, peer := peerModule s peer, msgId := p.msgId, imm := immOf p }] }) s
    (some n, modCq q.fn x.cq (fun r => { r with reserved := r.reserved + 1 }) s)

/-- The tracker of an admitted packet, made for the first of its message; the signal is recorded when it arrives. -/
def noteTracker (peer : W32) (p : Packet) (a : Access) (s : State) : State :=
  let s := match trackerOf s peer p.msgId with
    | some _ => s
    | none =>
      let v := (qpFn s p.dstQp).getD 0
      let (slot, s) := if a.kind = .send then takeSlot peer p s else (none, s)
      addTracker { peer := peer, epoch := epochOf s peer, msgId := p.msgId, ks := qpKs p.dstQp, pktCount := p.pktCount,
                   chained := p.chained, dstQp := p.dstQp, srcQp := a.srcQp, op := a.op, vdev := v,
                   watch := watcherOf s v a.key, watchAt := s.now, imm := immOf p,
                   slot := slot } s
  modTracker peer p.msgId (fun t => { t with
    solicit := t.solicit || p.solicit
    sig := match p.sig with
      | some d => some d
      | none => t.sig
    sigSeq := if p.sig.isSome then p.seq else t.sigSeq }) s

def addAdm (a : Adm) (s : State) : State :=
  { s with enpin := { s.enpin with adms := s.enpin.adms ++ [{ a with num := s.enpin.admNext }], admNext := s.enpin.admNext + 1 } }

/-- Notices under way for a message. -/
def noticesOf (s : State) (peer msgId : W32) : Nat :=
  (s.enpin.notices.filter (fun n => n.1 == peer && n.2.2 == msgId)).length

/-- The data of an admitted packet has reached memory (R105, R129, R210, R212). -/
def packetWritten (a : Adm) (s : State) : State :=
  let drop (t : State) : State := { t with enpin := { t.enpin with adms := t.enpin.adms.filter (fun x => x.num != a.num) } }
  if a.epoch ≠ epochOf s a.peer then drop s
  else if !a.tracked then packetDone a.peer a.seq a.ackReq (drop s)
  else match trackerOf s a.peer a.msgId with
    | none => packetDone a.peer a.seq a.ackReq (drop s)
    | some t =>
      if t.st ≠ .open then packetDone a.peer a.seq a.ackReq (drop s)
      else
        let s := match t.slot, qpQueue s t.dstQp with
          | some slot, some q =>
            let add (u : SlotUse) : SlotUse := { u with received := u.received + a.data.length }
            modQueue q (fun x => { x with
              slotsUsed := modFirst (fun u => u.slot == slot && u.done.isNone) add x.slotsUsed }) s
          | _, _ => s
        let last := decide (t.pktCount ≤ t.written + noticesOf s a.peer a.msgId + 1)
        let held := last && t.sig.isSome && !t.chained
        let stays := t.sig.isSome && a.seq == t.sigSeq
        let s := if stays then
            { s with enpin := { s.enpin with adms := s.enpin.adms.map (fun x =>
                if x.num = a.num then { x with written := true, data := [] } else x) } }
          else drop s
        let s := if held then
            modCtx a.peer (fun c => { c with unreportable := c.unreportable ++ [(a.msgId, a.seq, a.ackReq)] }) s
          else packetDone a.peer a.seq a.ackReq s
        if a.ks = t.ks then countWritten a.peer a.msgId s
        else { s with enpin := { s.enpin with notices := s.enpin.notices ++ [(a.peer, a.seq, a.msgId)] } }

/-- WRITTEN_NOTICE (R105 rule 3). -/
def execWrittenNotice (peer : W32) (seq : W32) (s : State) : Host.Outcome State Fault Refusal :=
  .next (match (s.enpin.notices.filter (fun n => n.1 == peer && n.2.1 == seq)).head? with
    | some n => countWritten peer n.2.2 { s with enpin := { s.enpin with notices := dropFirst n s.enpin.notices } }
    | none => s)

/-- A READ's response data has been written locally (R131). -/
def responseWritten (a : Adm) (s : State) : State :=
  match (ctxOf s a.peer).bind (fun c => (c.reqs.filter (fun r => a.answers == some r.msgId)).head?) with
  | none => s
  | some r =>
    let n := r.received + a.data.length
    let s := modCtx a.peer (fun c => { c with
      reqs := if r.length ≤ n then c.reqs.filter (fun x => x.msgId != r.msgId)
              else modFirst (fun x => x.msgId == r.msgId) (fun x => { x with received := n }) c.reqs }) s
    if r.length ≤ n && ownerDone s r.owner then ownerFinished r.owner s else s

/-- Put an admitted packet's data where it belongs. -/
def storeData (a : Adm) (s : State) : State :=
  match a.tgt with
  | .tier t b => memWrite (tierMem t) b a.data s
  | .va fn b => vwrite fn b.toNat a.data s
  | .nothing => s

/-- The scratchpad address an admitted write still waits for: a bank of it is not on (R266, R78). -/
def padWait (s : State) (a : Adm) : Option Nat :=
  match a.tgt with
  | .tier 2 b => if padReady s b a.data.length then none else some b
  | _ => none

/-- PACKET_WRITE_DONE (R129). A write into a bank that is not on holds, and starts the bank's wake. -/
def execPacketWriteDone (peer : W32) (seq : W32) (s : State) : Host.Outcome State Fault Refusal :=
  .next (match (s.enpin.adms.filter (fun a => a.peer == peer && a.seq == seq && !a.written && a.response.isNone)).head? with
    | none => s
    | some a =>
      match padWait s a with
      | some b => wakePad b a.data.length s
      | none =>
        let s := storeData a s
        if a.answers.isNone then packetWritten a s else packetWritten a (responseWritten a s))

/-- An admitted DATA packet: its tracker, and its write in progress. One without data is written at once. A packet of an
ended message is discarded and done (R107, R73); so is one whose multicast bit is clear (R200). -/
def execData (rx : RxInfo) (p : Packet) (s : State) : State :=
  let peer := ctxPeer p
  let a := accessOf s p
  match trackerOf s peer p.msgId with
  | some t =>
    if t.st ≠ .open then packetDone peer p.seq p.ackReq s else go a peer t s
  | none => go a peer { peer := peer, epoch := 0, msgId := p.msgId, ks := 0, pktCount := 0 } s
where
  go (a : Access) (peer : W32) (_ : Tracker) (s : State) : State :=
    let s := noteTracker peer p a s
    let slot := ((trackerOf s peer p.msgId).bind (fun t => t.slot)).getD 0
    let m : Adm := { num := s.enpin.admNext, peer := peer, seq := p.seq, ks := rx.ks % 2, keyIndex := keyIdx a.key,
                     key := a.key, epoch := epochOf s peer, vdev := (qpFn s p.dstQp).getD 0,
                     tgt := accessTarget s p a slot, data := p.payload, msgId := p.msgId, pktCount := p.pktCount,
                     ackReq := p.ackReq }
    let s := addAdm m s
    if p.payload.isEmpty then packetWritten m s else s

/-- The response message of a request (R89, R90). The response to a secure request is sealed under the transmit association of the
function that holds the request's destination QP; where it has none the response is dropped (DESIGN CHOICE, assumption 79). -/
def responseMsg (s : State) (p : Packet) (a : Access) (t : PType) (value : W64) (src : Source) (num : Nat) : TxMsg :=
  { msgId := 0, owner := .response p.msgId (BitVec.ofNat 32 num), ptype := t, ext := .response value p.msgId, src := src,
    start := 0, len := 0, pktCount := 1, segment := 1, secure := p.secure, dstQp := a.srcQp, tc := p.tc,
    fn := (qpFn s p.dstQp).getD 0 }

/-- An admitted READ_REQUEST: the response is queued, the access stays in progress until it is acknowledged (R72); the
request is done (R129). -/
def execReadReq (rx : RxInfo) (p : Packet) (s : State) : State :=
  let peer := ctxPeer p
  if (trackerOf s peer p.msgId).isSome then packetDone peer p.seq p.ackReq s else
  let a := accessOf s p
  let e := keyOf s (keyIdx a.key)
  let num := s.enpin.admNext
  let s := addAdm { num := num, peer := peer, seq := p.seq, ks := rx.ks % 2, keyIndex := keyIdx a.key, key := a.key,
                    epoch := epochOf s peer, vdev := (qpFn s p.dstQp).getD 0, tgt := .nothing, data := [], msgId := p.msgId,
                    pktCount := p.pktCount, tracked := false, response := some p.msgId } s
  let s := queueMsgs peer (responseMsg s p a .readResponse 0 (.tier e.tier (e.base + a.off)) num) a.len s
  packetDone peer p.seq p.ackReq s

/-- The value an atomic leaves (R90). -/
def atomicNew (op : Nat) (x y old : W64) : W64 := if op = 0x04 then old + x else if old = x then y else old

/-- An admitted ATOMIC: executed in order of arrival, its response stored (R90, R129). A granule that reads uncorrectable
has its response aborted (R314). -/
def execAtomic (p : Packet) (s : State) : State :=
  let peer := ctxPeer p
  if (trackerOf s peer p.msgId).isSome then packetDone peer p.seq p.ackReq s else
  let a := accessOf s p
  let e := keyOf s (keyIdx a.key)
  let m := tierMem e.tier
  let at_ := e.base + a.off
  let num := s.enpin.admNext
  let s := { s with enpin := { s.enpin with admNext := num + 1 } }
  match badIn m at_ 8 s with
  | some x =>
    let s := memEvent e.owner (memCode m) a.key.toNat (if e.owner = 0 then x else a.off) s
    let msg := responseMsg s p a .atomicResponse 0 (.bytes []) num
    let s := abortOwner msg.owner stMemory (queueMsgs peer msg 0 s)
    packetDone peer p.seq p.ackReq s
  | none =>
    let old : W64 := BitVec.ofNat 64 (leNat (memRead m at_ 8 s))
    let (x, y) := match p.ext with
      | .data _ _ _ _ x y => (x, y)
      | _ => (0, 0)
    let s := memWrite m at_ (leBytes 8 (atomicNew a.op x y old).toNat) s
    packetDone peer p.seq p.ackReq (queueMsgs peer (responseMsg s p a .atomicResponse old (.bytes []) num) 0 s)

/-- The request that a response packet answers. -/
def requestOf (s : State) (p : Packet) : Option PendReq :=
  match p.ext with
  | .response _ req => (ctxOf s (ctxPeer p)).bind (fun c => (c.reqs.filter (fun r => r.msgId == req)).head?)
  | _ => none

def responseOffset (p : Packet) : W64 :=
  match p.ext with
  | .response v _ => v
  | _ => 0

/-- The first packet of a READ response's message needs a tracker (R106). -/
def admitResp (p : Packet) (s : State) : Verdict × State :=
  if (trackerOf s (ctxPeer p) p.msgId).isNone && !(trackerRoom s (qpKs p.dstQp)) then (.notReady 5 0, s) else (.admitted, s)

/-- The tracker of a READ response's message (R105). -/
def respTracker (peer : W32) (p : Packet) (s : State) : State :=
  if (trackerOf s peer p.msgId).isSome then s
  else addTracker { peer := peer, epoch := epochOf s peer, msgId := p.msgId, ks := qpKs p.dstQp, pktCount := p.pktCount,
                    dstQp := p.dstQp, vdev := localAccess } s

/-- A READ_RESPONSE packet: its data goes into the held local range (R131). One that answers no request, or whose message has been
aborted, is discarded and done (R107). -/
def execReadResp (rx : RxInfo) (p : Packet) (s : State) : State :=
  let peer := ctxPeer p
  match (if (match trackerOf s peer p.msgId with
      | some t => t.st != TrackerState.open
      | none => false) then none else requestOf s p) with
  | none =>
    if (match trackerOf s peer p.msgId with
        | some t => t.st == TrackerState.open
        | none => false) then
      let m : Adm := { num := s.enpin.admNext, peer := peer, seq := p.seq, ks := rx.ks % 2, keyIndex := 0, epoch := epochOf s peer,
                       vdev := localAccess, tgt := .nothing, data := [], msgId := p.msgId, pktCount := p.pktCount,
                       ackReq := p.ackReq }
      packetWritten m (addAdm m s)
    else packetDone peer p.seq p.ackReq s
  | some r =>
    let off := (responseOffset p).toNat
    if r.length < off + p.payload.length ∨ r.length = 0 then packetDone peer p.seq p.ackReq s else
    let got (x : PendReq) : PendReq :=
      { x with since := s.now, resp := if x.resp.contains p.msgId then x.resp else p.msgId :: x.resp }
    let s := modCtx peer (fun c => { c with reqs := modFirst (fun x => x.msgId == r.msgId) got c.reqs }) s
    addAdm { num := 0, peer := peer, seq := p.seq, ks := rx.ks % 2, keyIndex := 0, epoch := epochOf s peer,
             vdev := localAccess, tgt := .va r.fn (r.localVa + BitVec.ofNat 64 off), data := p.payload, msgId := p.msgId,
             pktCount := p.pktCount, ackReq := p.ackReq, answers := some r.msgId } (respTracker peer p s)

/-- An ATOMIC_RESPONSE: the old value is written locally and is the entry's result (R90, R131). -/
def execAtomicResp (p : Packet) (s : State) : State :=
  let peer := ctxPeer p
  match requestOf s p with
  | none => packetDone peer p.seq p.ackReq s
  | some r =>
    let v := responseOffset p
    let s := vwrite r.fn r.localVa.toNat (leBytes 8 v.toNat) s
    let s := match r.owner with
      | .entry q idx => setResult q idx v s
      | _ => s
    let s := modCtx peer (fun c => { c with reqs := c.reqs.filter (fun x => x.msgId != r.msgId) }) s
    let s := packetDone peer p.seq p.ackReq s
    if ownerDone s r.owner then ownerFinished r.owner s else s

/-! ## ABORT (R107, R131, R138) -/

/-- An ABORT needs a tracker to record it (R106). -/
def admitAbort (p : Packet) (s : State) : Verdict × State :=
  if (trackerOf s (ctxPeer p) p.msgId).isNone && !(trackerRoom s (qpKs p.dstQp)) then (.notReady 5 0, s) else (.admitted, s)

/-- Mark the message that an ABORT names. An ABORT of a response ends the request with the status it carries. -/
def markAborted (p : Packet) (s : State) : State :=
  let peer := ctxPeer p
  let (st, last) := match p.ext with
    | .abort st last => (st, last)
    | _ => (0, p.seq)
  let s := match (ctxOf s peer).bind (fun c => (c.reqs.filter (fun r => r.resp.contains p.msgId)).head?) with
    | some r => failOwner r.owner st 0 0 s
    | none => s
  match trackerOf s peer p.msgId with
  | some t =>
    (match t.st with
     | .open => closeMessage t .aborted last s
     | _ => modTracker peer p.msgId (fun x => { x with st := .aborted, lastSeq := last }) s)
  | none =>
    if trackerRoom s (qpKs p.dstQp) then
      addTracker { peer := peer, epoch := epochOf s peer, msgId := p.msgId, ks := qpKs p.dstQp, st := .aborted,
                   pktCount := 0, dstQp := p.dstQp, lastSeq := last } s
    else s

/-- An admitted ABORT is done at once. -/
def execAbort (p : Packet) (s : State) : State :=
  packetDone (ctxPeer p) p.seq p.ackReq (markAborted p s)

end Sys2Proof.Machine
end

