-- ==== Sys2Proof/Machine/Arith.lean ====
section
/-! DEFINITION. Arithmetic and number formats (R253, R276 to R288) and the mortar units' arithmetic (R239): values are
exact dyadic numbers until the one rounding that the rule gives. -/

namespace Sys2Proof.Machine

open Sys2Proof

/-- A decoded number: NaN, an infinity, or sign, magnitude and power of two. -/
inductive EngNum where
  | nan
  | inf (neg : Bool)
  | fin (neg : Bool) (m : Nat) (e : Int)
deriving DecidableEq, Repr

def fpNaN : W32 := 0x7FC00000

/-! ## Rounding -/

/-- m / 2^sh to nearest even. -/
def rneShift (m sh : Nat) : Nat :=
  if sh = 0 then m else
  let q := m / 2 ^ sh
  let r := m % 2 ^ sh
  if r * 2 < 2 ^ sh then q else if 2 ^ sh < r * 2 then q + 1 else q + q % 2

/-- m / 2^sh rounded by a random value (R288): up when `r` lies below the top 16 bits of what is discarded. -/
def stochShift (r m sh : Nat) : Nat :=
  if sh = 0 then m else
  let f := m % 2 ^ sh * 65536 / 2 ^ sh
  m / 2 ^ sh + (if r < f then 1 else 0)

/-- The code, sign apart, of m × 2^e in a format with `mb` mantissa bits whose smallest subnormal is 2^lo: not yet
limited to the format's largest value. -/
def magCode (shift : Nat → Nat → Nat) (mb : Nat) (lo : Int) (m : Nat) (e : Int) : Nat :=
  if m = 0 then 0 else
  let top := Int.ofNat (Nat.log2 m) + e
  let t := max (top - Int.ofNat mb) lo
  let sh := t - e
  let mant := if 0 ≤ sh then shift m sh.toNat else m * 2 ^ (-sh).toNat
  mant + (t - lo).toNat * 2 ^ mb

/-- FP32 of a number, to nearest even; overflow gives an infinity (R279). -/
def toFp32 (x : EngNum) : W32 :=
  match x with
  | .nan => fpNaN
  | .inf neg => BitVec.ofNat 32 (0x7F800000 + (if neg then 2 ^ 31 else 0))
  | .fin neg m e => BitVec.ofNat 32 (min 0x7F800000 (magCode rneShift 23 (-149) m e) + (if neg then 2 ^ 31 else 0))

/-! ## Decoding (R276, R277) -/

/-- An IEEE-like code: exponent bits, mantissa bits, bias; `ieee` when the all-ones exponent is special. -/
def ofIeee (eb mb : Nat) (bias : Int) (v : Nat) : EngNum :=
  let neg := bitOf v (eb + mb)
  let ex := fieldOf v mb eb
  let man := v % 2 ^ mb
  if ex = 2 ^ eb - 1 then (if man = 0 then .inf neg else .nan)
  else if ex = 0 then .fin neg man (1 - bias - Int.ofNat mb)
  else .fin neg (man + 2 ^ mb) (Int.ofNat ex - bias - Int.ofNat mb)

/-- A code whose every exponent is finite. -/
def ofFinite (eb mb : Nat) (bias : Int) (v : Nat) : EngNum :=
  let neg := bitOf v (eb + mb)
  let ex := fieldOf v mb eb
  let man := v % 2 ^ mb
  if ex = 0 then .fin neg man (1 - bias - Int.ofNat mb)
  else .fin neg (man + 2 ^ mb) (Int.ofNat ex - bias - Int.ofNat mb)

def ofFp32 (v : W32) : EngNum := ofIeee 8 23 127 v.toNat
def ofInt (v : Int) : EngNum := .fin (decide (v < 0)) v.natAbs 0

/-- A two's-complement value of `w` bits. -/
def signedOf (w v : Nat) : Int := if bitOf v (w - 1) then Int.ofNat (v % 2 ^ w) - 2 ^ w else Int.ofNat (v % 2 ^ w)

/-- Bits of an element (R253). -/
def fmtBits (fmt : Nat) : Nat :=
  match fmt with
  | 0 => 8 | 1 => 16 | 2 => 8 | 3 => 8 | 4 => 6 | 5 => 6 | 6 => 4 | _ => 32

def fmtMx (fmt : Nat) : Bool := decide (2 ≤ fmt ∧ fmt ≤ 6)

/-- Element encodings (R276). -/
def ofElem (fmt v : Nat) : EngNum :=
  match fmt with
  | 0 => ofInt (signedOf 8 v)
  | 1 => ofIeee 8 7 127 v
  | 2 => if v % 128 = 127 then .nan else ofFinite 4 3 7 v
  | 3 => ofIeee 5 2 15 v
  | 4 => ofFinite 3 2 3 v
  | 5 => ofFinite 2 3 1 v
  | 6 => ofFinite 2 1 1 v
  | _ => ofIeee 8 23 127 v

/-- An element times its E8M0 scale, exactly (R277). -/
def scaled (x : EngNum) (scale : Nat) : EngNum :=
  if scale = 255 then .nan else
  match x with
  | .fin neg m e => .fin neg m (e + Int.ofNat scale - 127)
  | y => y

/-- Codes packed from the least significant bit upwards (R278). -/
def packCodes (w : Nat) : List Nat → Nat
  | [] => 0
  | c :: cs => c % 2 ^ w + packCodes w cs * 2 ^ w

/-- Code i of packed bytes. -/
def codeAt (w v i : Nat) : Nat := fieldOf v (w * i) w

/-- Bytes of a row of `n` elements. -/
def rowBytes (fmt n : Nat) : Nat := fmtBits fmt * n / 8

/-! ## Exact sums and products -/

/-- The signed magnitude of a finite number at exponent `e0`, which is at most its own. -/
def atExp (e0 : Int) (neg : Bool) (m : Nat) (e : Int) : Int :=
  let v := Int.ofNat (m * 2 ^ (e - e0).toNat)
  if neg then -v else v

def ofSum (v : Int) (e : Int) : EngNum := .fin (decide (v < 0)) v.natAbs e

def numMul (a b : EngNum) : EngNum :=
  match a, b with
  | .nan, _ => .nan
  | _, .nan => .nan
  | .inf s, .inf t => .inf (xor s t)
  | .inf s, .fin t m _ => if m = 0 then .nan else .inf (xor s t)
  | .fin s m _, .inf t => if m = 0 then .nan else .inf (xor s t)
  | .fin s m e, .fin t n f => .fin (xor s t) (m * n) (e + f)

def isNeg (x : EngNum) : Bool :=
  match x with
  | .nan => false
  | .inf s => s
  | .fin s _ _ => s

def isInf (x : EngNum) : Bool :=
  match x with
  | .inf _ => true
  | _ => false

def isNan (x : EngNum) : Bool :=
  match x with
  | .nan => true
  | _ => false

def isZero (x : EngNum) : Bool :=
  match x with
  | .fin _ m _ => m == 0
  | _ => false

/-- The least exponent of the finite numbers of a list. -/
def minExp : List EngNum → Int
  | [] => 0
  | .fin _ _ e :: t => if t.isEmpty then e else min e (minExp t)
  | _ :: t => minExp t

def sumAt (e0 : Int) : List EngNum → Int
  | [] => 0
  | .fin s m e :: t => atExp e0 s m e + sumAt e0 t
  | _ :: t => sumAt e0 t

/-- The exact sum of products with the special values of R280. -/
def sumProducts (ps : List EngNum) : EngNum :=
  if ps.any isNan then .nan
  else if ps.any isInf then
    (if ps.any (fun p => isInf p && isNeg p) && ps.any (fun p => isInf p && !isNeg p) then .nan
     else .inf (ps.any (fun p => isInf p && isNeg p)))
  else
    let e0 := minExp ps
    let v := sumAt e0 ps
    if v = 0 then .fin (!ps.isEmpty && ps.all isNeg) 0 0 else ofSum v e0

/-- R279 steps 1 to 3: the rounded block product. -/
def blockProduct (xs ws : List EngNum) : W32 := toFp32 (sumProducts (List.zipWith numMul xs ws))

/-- IEEE binary32 addition to nearest even; every NaN is 0x7FC0_0000 (R279, R280). -/
def fpAdd (a b : W32) : W32 :=
  match ofFp32 a, ofFp32 b with
  | .nan, _ => fpNaN
  | _, .nan => fpNaN
  | .inf s, .inf t => if s = t then toFp32 (.inf s) else fpNaN
  | .inf s, _ => toFp32 (.inf s)
  | _, .inf t => toFp32 (.inf t)
  | .fin s m e, .fin t n f =>
    let e0 := min e f
    let v := atExp e0 s m e + atExp e0 t n f
    if v = 0 then toFp32 (.fin (s && t) 0 0) else toFp32 (ofSum v e0)

/-- IEEE binary32 multiplication to nearest even. -/
def fpMul (a b : W32) : W32 := toFp32 (numMul (ofFp32 a) (ofFp32 b))

/-- a < b for numbers that are no NaN, −0 ordered below +0 (R239). -/
def numLt (a b : EngNum) : Bool :=
  match a, b with
  | .inf s, .inf t => s && !t
  | .inf s, _ => s
  | _, .inf t => !t
  | .fin s m e, .fin t n f =>
    let e0 := min e f
    let x := atExp e0 s m e
    let y := atExp e0 t n f
    if x = y then s && !t && decide (m = 0) else decide (x < y)
  | _, _ => false

/-- IEEE 754 maximum and minimum (R239). -/
def fpMax (a b : W32) : W32 :=
  if isNan (ofFp32 a) || isNan (ofFp32 b) then fpNaN else if numLt (ofFp32 a) (ofFp32 b) then b else a
def fpMin (a b : W32) : W32 :=
  if isNan (ofFp32 a) || isNan (ofFp32 b) then fpNaN else if numLt (ofFp32 b) (ofFp32 a) then b else a

/-! ## Conversions to the other formats (R286 to R288) -/

/-- BF16 of a number. -/
def toBf16 (shift : Nat → Nat → Nat) (x : EngNum) : Nat :=
  match x with
  | .nan => 0x7FC0
  | .inf neg => 0x7F80 + (if neg then 0x8000 else 0)
  | .fin neg m e => min 0x7F80 (magCode shift 7 (-133) m e) + (if neg then 0x8000 else 0)

/-- The magnitude of a finite number rounded to an integer. -/
def intMag (shift : Nat → Nat → Nat) (m : Nat) (e : Int) : Nat :=
  if 0 ≤ e then m * 2 ^ e.toNat else shift m (-e).toNat

/-- A number rounded to a signed integer of `w` bits, saturated; NaN gives 0. -/
def toSigned (shift : Nat → Nat → Nat) (w : Nat) (x : EngNum) : Int :=
  match x with
  | .nan => 0
  | .inf neg => if neg then -(2 ^ (w - 1)) else 2 ^ (w - 1) - 1
  | .fin neg m e =>
    let v := intMag shift m e
    if neg then max (-(2 ^ (w - 1))) (-(Int.ofNat v)) else min (2 ^ (w - 1) - 1) (Int.ofNat v)

/-- Two's complement of an integer in `w` bits. -/
def toTwos (w : Nat) (v : Int) : Nat := (v % 2 ^ w).toNat

/-- Mantissa bits, smallest subnormal's exponent, largest finite code, emax and sign position of an MX element. -/
def mxParams (fmt : Nat) : Nat × Int × Nat × Nat × Nat :=
  match fmt with
  | 2 => (3, -9, 0x7E, 8, 7)
  | 3 => (2, -16, 0x7B, 15, 7)
  | 4 => (2, -4, 0x1F, 4, 5)
  | 5 => (3, -3, 0x1F, 2, 5)
  | _ => (1, -1, 0x07, 2, 3)

/-- ⌊log2⌋ of the largest magnitude of a list of finite numbers; none when all are zero. -/
def maxLog2 : List EngNum → Option Int
  | [] => none
  | .fin _ m e :: t =>
    let rest := maxLog2 t
    if m = 0 then rest else
    let here := Int.ofNat (Nat.log2 m) + e
    match rest with
    | some r => some (max here r)
    | none => some here
  | _ :: t => maxLog2 t

/-- One element of a quantised block. -/
def mxElem (shift : Nat → Nat → Nat) (fmt : Nat) (v : Nat) (x : EngNum) : Nat :=
  let (mb, lo, top, _, sp) := mxParams fmt
  match x with
  | .fin neg m e => min top (magCode shift mb lo m (e - (Int.ofNat v - 127))) + (if neg then 2 ^ sp else 0)
  | _ => 0

/-- R286: the scale byte and the element codes of a block. `shifts` gives each element's rounding. -/
def mxQuantise (fmt : Nat) (xs : List EngNum) (shifts : List (Nat → Nat → Nat)) : Nat × List Nat :=
  let (_, _, _, emax, sp) := mxParams fmt
  if xs.any (fun x => isNan x || isInf x) then (255, xs.map (fun _ => 0))
  else match maxLog2 xs with
    | none => (0, xs.map (fun x => if isNeg x then 2 ^ sp else 0))
    | some l =>
      let v := (max 0 (min 254 (l - Int.ofNat emax + 127))).toNat
      (v, List.zipWith (fun x sh => mxElem sh fmt v x) xs shifts)

/-! ## The epilogue's functions (R285) -/

/-- Fixed point with 256 bits after the point: one, ln 2, √(2/π). -/
def fxOne : Nat := 2 ^ 256
def fxLn2 : Nat := 80260960185991308862233904206310070533990667611589946606122867505419956976171
def fxRoot : Nat := 92388720265562225100004042351473451001048276763068025688572742865826802514525

/-- A finite FP32 value in fixed point, exactly. -/
def fxOf (neg : Bool) (m : Nat) (e : Int) : Int :=
  let v := Int.ofNat (if 0 ≤ e + 256 then m * 2 ^ (e + 256).toNat else m / 2 ^ (-(e + 256)).toNat)
  if neg then -v else v

/-- e^t: the power of two that t's multiples of ln 2 give, times the Taylor sum of the rest. -/
def fxExp (t : Int) : Nat :=
  let k := t / Int.ofNat fxLn2
  let r := (t % Int.ofNat fxLn2).toNat
  let v := (rangeFrom 1 64).reverse.foldl (fun a i => fxOne + r * a / (fxOne * i)) fxOne
  if 0 ≤ k then v * 2 ^ k.toNat else v / 2 ^ (-k).toNat

/-- x / (1 + e^(−u)), which is x, or 0, where u lies far out. -/
def fxGate (x u : Int) : Int :=
  let far := Int.ofNat (2048 * fxOne)
  if far < u then x else if u < -far then 0 else x * Int.ofNat fxOne / Int.ofNat (fxOne + fxExp (-u))

/-- GELU by its definition in R285: 0.5 (1 + tanh w) is 1 / (1 + e^(−2w)). -/
def fxGelu (x : Int) : Int :=
  let one := Int.ofNat fxOne
  let cube := x * x / one * x / one
  fxGate x (2 * Int.ofNat fxRoot * (x + 44715 * cube / 1000000) / one)

/-- SiLU. -/
def fxSilu (x : Int) : Int := fxGate x x

/-- 2^x for x from −150 to 128. -/
def fxExp2 (x : Int) : Int := Int.ofNat (fxExp (x * Int.ofNat fxLn2 / Int.ofNat fxOne))

/-- A result lies within 4 ulp of a value. -/
def within4 (v : Int) (y : W32) : Bool :=
  match ofFp32 y with
  | .fin neg m e => decide ((fxOf neg m e - v).natAbs ≤ 4 * 2 ^ (max (Nat.log2 v.natAbs) 130 - 23))
  | _ => false

/-- The unit's own result where it keeps the bound of R285, else the value to nearest even. -/
def bounded (v : Int) (y : W32) : W32 := if within4 v y then y else toFp32 (ofSum v (-256))

/-- A number's value in fixed point. -/
def fxNum (n : EngNum) : Int :=
  match n with
  | .fin neg m e => fxOf neg m e
  | _ => 0

def epiFunc (func : Nat) (x : W32) : W32 :=
  match func, ofFp32 x with
  | 0, .nan => fpNaN
  | 0, _ => x
  | _, .nan => fpNaN
  | 1, n => if isNeg n || isZero n then 0 else x
  | 2, .inf neg => if neg then 0x80000000 else x
  | 2, n => if isZero n then x else if numLt n (ofInt (-10)) then 0x80000000 else bounded (fxGelu (fxNum n)) (Config.gelu x)
  | 3, .inf neg => if neg then 0x80000000 else x
  | 3, n => if isZero n then x else bounded (fxSilu (fxNum n)) (Config.silu x)
  | _, .inf neg => if neg then 0 else x
  | _, .fin neg m e =>
    if m = 0 then 0x3F800000
    else if !(numLt (.fin neg m e) (ofInt 128)) then 0x7F800000
    else if numLt (.fin neg m e) (ofInt (-150)) then 0
    else
      let whole := decide (0 ≤ e) || decide (m % 2 ^ (-e).toNat = 0)
      let v := atExp 0 neg (if 0 ≤ e then m * 2 ^ e.toNat else m / 2 ^ (-e).toNat) 0
      if whole && decide (-149 ≤ v) then toFp32 (.fin false 1 v) else bounded (fxExp2 (fxOf neg m e)) (Config.exp2 x)

/-! ## Collectives (R239) -/

/-- Bytes of `count` elements of a collective type as they stand in memory. -/
def elemCode (dtype : Nat) : Nat :=
  match dtype with
  | 0 => 7 | 1 => 1 | 2 => 2 | 3 => 3 | _ => 8

/-- Split a list into pieces of `n`. -/
def piecesN {α : Type} (n : Nat) : Nat → List α → List (List α)
  | 0, _ => []
  | fuel + 1, l => if l.isEmpty then [] else l.take n :: piecesN n fuel (l.drop n)

/-- A native chunk of `count` elements in accumulator form. -/
def toAcc (dtype count : Nat) (b : List Byte) : List W32 :=
  match dtype with
  | 0 => (piecesN 4 count b).map (fun x =>
      let v := BitVec.ofNat 32 (leNat x)
      if isNan (ofFp32 v) then fpNaN else v)
  | 1 => (piecesN 2 count b).map (fun x => toFp32 (ofElem 1 (leNat x)))
  | 2 => (rangeFrom 0 count).map (fun i =>
      toFp32 (scaled (ofElem 2 (leNat ((b.drop i).take 1))) (leNat ((b.drop (count + i / 32)).take 1))))
  | 3 => (rangeFrom 0 count).map (fun i =>
      toFp32 (scaled (ofElem 3 (leNat ((b.drop i).take 1))) (leNat ((b.drop (count + i / 32)).take 1))))
  | _ => (piecesN 4 count b).map (fun x => BitVec.ofNat 32 (leNat x))

/-- One reduction of two accumulator values. -/
def reduce2 (dtype red : Nat) (a b : W32) : W32 :=
  if dtype = 4 then
    (match red with
     | 0 => a + b
     | 1 => if a.toInt < b.toInt then b else a
     | _ => if b.toInt < a.toInt then b else a)
  else
    (match red with
     | 0 => fpAdd a b
     | 1 => fpMax a b
     | _ => fpMin a b)

/-- The root's rounding of a finished chunk to native form. -/
def fromAcc (dtype : Nat) (acc : List W32) : List Byte :=
  match dtype with
  | 1 => (acc.map (fun v => leBytes 2 (toBf16 rneShift (ofFp32 v)))).flatten
  | 2 => fromMx 2 acc
  | 3 => fromMx 3 acc
  | _ => (acc.map (fun v => leBytes 4 v.toNat)).flatten
where
  fromMx (fmt : Nat) (acc : List W32) : List Byte :=
    let blocks := (piecesN 32 acc.length acc).map (fun bl =>
      mxQuantise fmt (bl.map ofFp32) (bl.map (fun _ => rneShift)))
    (blocks.map (fun q => q.2.map (fun c => BitVec.ofNat 8 c))).flatten ++ blocks.map (fun q => BitVec.ofNat 8 q.1)

/-- Accumulator bytes on the wire or in a ring packet: little-endian as in memory. -/
def accBytes (acc : List W32) : List Byte := (acc.map (fun v => leBytes 4 v.toNat)).flatten
def accOfBytes (b : List Byte) : List W32 := (piecesN 4 b.length b).map (fun x => BitVec.ofNat 32 (leNat x))

/-! ## Integers of the cut path (R333, R339) -/

/-- v × 2^k as an exact number. -/
def intShift (v k : Int) : EngNum := .fin (decide (v < 0)) v.natAbs k

/-- A number times 2^k. -/
def numShift (x : EngNum) (k : Int) : EngNum :=
  match x with
  | .fin neg m e => .fin neg m (e + k)
  | y => y

end Sys2Proof.Machine
end

