-- ==== Sys2Proof/Machine/Results.lean ====
section
/-! DEFINITION. The blocks that admin entries read and write by address (R193, R224, R389, R495). -/

namespace Sys2Proof.Machine

open Sys2Proof

/-! ## Bytes of a segment wherever they stand now -/

/-- Where a byte of a segment lies: in its host copy while its page is not resident. -/
def placeAny (s : State) (fn seg off : Nat) : MemId × Nat :=
  let g := segOf s fn seg
  if g.tier != 2 && g.migratory && !(pageOf s fn seg (off / pageBytes)).resident then
    (.host, (pageHost s fn seg (off / pageBytes) + off % pageBytes) % 2 ^ 64)
  else segPlace s fn seg off

/-- A range cut at page boundaries. -/
def piecesAny (s : State) (fn seg : Nat) : Nat → Nat → Nat → List (MemId × Nat × Nat)
  | 0, _, _ => []
  | fuel + 1, off, len =>
    if len = 0 then [] else
    let n := min len (pageBytes - off % pageBytes)
    ((placeAny s fn seg off).1, (placeAny s fn seg off).2, n) :: piecesAny s fn seg fuel (off + n) (len - n)

/-- Read a virtual range that a segment holds. -/
def readAny (s : State) (fn va len : Nat) : List Byte :=
  match segHolding s fn va len with
  | some i =>
    ((piecesAny s fn i (len / pageBytes + 2) (va - segBase (segOf s fn i)) len).map
      (fun p => memRead p.1 p.2.1 p.2.2 s)).flatten
  | none => []

/-- Write a virtual range that a segment holds; resident pages become dirty. -/
def writeAny (fn va : Nat) (bs : List Byte) (s : State) : State :=
  match segHolding s fn va bs.length with
  | some i =>
    let off := va - segBase (segOf s fn i)
    let t := writePieces (piecesAny s fn i (bs.length / pageBytes + 2) off bs.length) bs s
    if (segOf s fn i).migratory then
      foldS (fun p u => modPage fn i p (fun x => { x with dirty := x.resident }) u) (pagesOf off bs.length) t
    else t
  | none => s

/-! ## Checked access (R495) -/

/-- A range that an entry names is translated when the entry is taken; the operation goes on by `k` once it is there. Only
a missing segment or right refuses the entry here. -/
def withRange (q : QRef) (idx va len : Nat) (wr : Bool) (k : State → State) (s : State) : State :=
  let fn := queueFn q
  match xlate s fn va len wr with
  | .fault st a => if st = stLocalAccess then complete q idx stLocalAccess (BitVec.ofNat 64 a) 0 s else k s
  | .absent g ps => askPages (queueKs s q) 2 fn g va ps (.entry q idx) s
  | .ok => k (vtouch (ksAgent (queueKs s q)) fn va len s)

/-- The device can reach a range now: one in host memory needs the host link. -/
def rangeReach (s : State) (fn va len : Nat) : Bool :=
  match segHolding s fn va len with
  | some i => (segOf s fn i).tier != 2 || hostOk s
  | none => false

/-- Write a 16-byte result block and complete; a block that cannot be written leaves the operation done (R495). -/
def putResult (q : QRef) (idx : Nat) (va : W64) (bs : List Byte) (s : State) : State :=
  if rangeReach s (queueFn q) va.toNat 16 then completeOk q idx (writeAny (queueFn q) va.toNat (bs ++ List.replicate (16 - bs.length) 0) s)
  else complete q idx stHostLost 0 0 s

end Sys2Proof.Machine
end

