-- ==== Sys2Proof/Machine/Window.lean ====
section
/-! DEFINITION. A sequenced packet arrives: authentication (R112), openings and epochs (R119 to R124), marks (R151), the
receive window (R128 to R130), and contexts coming back on chip (R116, R140 to R145). What admission and execution do
with each packet type is given by the caller. -/

namespace Sys2Proof.Machine

open Sys2Proof

/-- Admission and execution by packet type. -/
structure RxOps where
  judge : RxInfo → Packet → State → Verdict × State
  exec : RxInfo → Packet → State → State

/-! ## Authentication (R112) -/

/-- The text of a secure packet under a key: decrypted, or as it stands where it carries no ciphertext. -/
def secureText (key : BitVec 256) (p : Packet) : List Byte :=
  match p.cipher with
  | some c => gcmText key p c
  | none => tailBytes p

/-- A packet is authentic: not secure, or sealed under a receive association that is installed. -/
def authentic (s : State) (p : Packet) : Bool :=
  if !p.secure then true
  else match tfind s.sec.rxSas p.sa with
    | some a => a.st == .live && p.icv == icvOf a.key p (secureText a.key p)
    | none => false

/-- An authentic packet with its text decrypted and read. -/
def openSecure (s : State) (p : Packet) : Except WireErr Packet :=
  match p.secure, p.cipher, tfind s.sec.rxSas p.sa with
  | true, some _, some a => parseText p.bondForm p (secureText a.key p)
  | _, _, _ => .ok p

/-! ## Openings (R119 to R122) -/

/-- A new life of a context, begun by the peer's opening (R120). -/
def startLife (s : State) (epoch : Nat) (seq : W32) (c : Ctx) : Ctx :=
  let c := coldCtx s c
  { c with st := .opened, epoch := epoch, openSeq := seq, rxBase := seq, txNext := seq ^^^ 0x80000000,
           txAcked := seq ^^^ 0x80000000, seen := 0, done := 0, epochTime := nowUs s, lastActive := nowMs s, srtt := 0,
           rttvar := 0, rto := timerN s 3 s.now, sampled := false, unreported := 0, unreportable := [], outs := [],
           rnrUntil := none, onChip := true, dirty := true, usedAt := s.now }

/-- The epoch of a new life: the source's choice on a line, else drawn (R120, R200). -/
def lifeEpoch (s : State) (p : Packet) : Nat := if isLine (ctxPeer p) then p.ackSeq.toNat % 256 else drawEpoch s

/-- The banker forgets a context's packets. -/
def dropParked (peer : W32) (s : State) : State :=
  { s with enpin := { s.enpin with banker0 := s.enpin.banker0.filter (fun k => ctxPeer k.pkt != peer),
                                   banker1 := s.enpin.banker1.filter (fun k => ctxPeer k.pkt != peer) } }

/-- R122: the higher module ID gives up its own opening; what it carried waits again. -/
def abandonOpening (peer : W32) (s : State) : State :=
  modCtx peer (fun c => { c with
    outs := [], rnrUntil := none
    msgs := c.msgs.map (fun m => if c.outs.any (fun o => o.msgId == m.msgId) then { m with next := 0 } else m) }) s

/-- An opening arrives (R120). The answer says whether it is handled on as a packet of the current epoch. A context that has lost
its life and was not reopened advances its last epoch, under the hold of R124 (DEDUCED, assumption 75). -/
def openingIn (rx : RxInfo) (p : Packet) (s : State) : Bool × State :=
  let peer := ctxPeer p
  let fresh (s : State) : Bool × State :=
    let ep := lifeEpoch s p
    (true, modCtx peer (startLife s ep p.seq) (drawn s))
  let again (c : Ctx) : Bool × State :=
    if (nowUs s - c.epochTime) * 1000 < timerN s 9 s.now then (false, bump 0x9041 0x0F 1 s)
    else
      let s := bump 0x9041 0x0E 1 s
      let s := abortTrackers peer (endOutstanding peer stRemoteReset p.src false s)
      let s := dropParked peer s
      let next := if isLine peer then p.ackSeq.toNat % 256 else c.epoch % 255 + 1
      (true, modCtx peer (startLife s next p.seq) s)
  match ctxOf s peer with
  | none =>
    (match allocCtx peer s with
     | (true, s) =>
       if (match ctxOf s peer with
           | some c => c.onChip
           | none => false) then fresh s
       else (false, parkPacket rx p true none s)
     | (false, s) => (false, bump 0x9041 0x10 1 s))
  | some c =>
    match c.st with
    | .unopened => if c.epoch = 0 then fresh s else again c
    | .opening => if (ownId s).toNat < p.src.toNat then (false, s) else fresh (abandonOpening peer s)
    | .opened =>
      if c.openSeq = p.seq then (true, s) else again c

/-! ## The window -/

/-- Count a marked packet (R151). -/
def countMark (rx : RxInfo) (peer : W32) (s : State) : State :=
  if !rx.marked then s else
  modCtx peer (fun c => { c with cc := { c.cc with echoPending := min 255 (c.cc.echoPending + 1) } }) (bump 0x9042 1 1 s)

/-- The module refuses what ends at it: fenced, FATAL or not READY (R71 check 1, R468). -/
def refusesAll (s : State) : Bool := s.wall.fenced || !(isReady s)

/-- An ACK follows when the duplicate's own work ends, or at once when it has (R130). -/
def ackWhenDone (peer : W32) (seq : W32) (c : Ctx) (s : State) : State :=
  if winBit c.done (seq - c.rxBase).toNat then ackNow peer s
  else
    let s := { s with enpin := { s.enpin with adms := s.enpin.adms.map (fun a =>
      if a.peer = peer ∧ a.seq = seq ∧ a.response.isNone = true then { a with ackReq := true } else a) } }
    modCtx peer (fun c => { c with unreportable := c.unreportable.map (fun u =>
      if u.2.1 = seq then (u.1, u.2.1, true) else u) }) s

/-- Decide a sequenced packet of the current epoch (the code of R128). -/
def decideWindow (ops : RxOps) (rx : RxInfo) (p : Packet) (s : State) : State :=
  let peer := ctxPeer p
  match ctxOf s peer with
  | none => s
  | some c =>
    let d := sdist p.seq c.rxBase
    let inside := decide (0 ≤ d) && decide (d < 1024)
    let seen := inside && winBit c.seen d.toNat
    if refusesAll s then
      let s := countMark rx peer s
      let s := if inside && !seen then sweepTrackers peer (modCtx peer (fun c => doneSeq p.seq (seeSeq p.seq c)) s) else s
      sendNack peer p stFenced 0 s
    else if d < 0 then ackNow peer (bump 0x9041 0x0C 1 (countMark rx peer s))
    else if !inside then bump 0x9041 0x0D 1 (countMark rx peer s)
    else if seen then
      let s := bump 0x9041 0x0C 1 (countMark rx peer s)
      if p.ptype = .abort && (match admitAbort p s with
          | (.notReady _ _, _) => true
          | _ => false) then sendRnr peer p 5 0 s else
      let s := if p.ptype = .abort then markAborted p s else s
      if p.ptype = .abort && !(winBit (((ctxOf s peer).map (fun c => c.done)).getD 0)
          (p.seq - ((ctxOf s peer).map (fun c => c.rxBase)).getD 0).toNat) then
        packetDone peer p.seq true s
      else match ctxOf s peer with
        | some c => if decide (0 ≤ sdist p.seq c.rxBase) then ackWhenDone peer p.seq c s else ackNow peer s
        | none => s
    else match ops.judge rx p s with
      | (.parked, s) => s
      | (.notReady cause hint, s) => sendRnr peer p cause hint (countMark rx peer s)
      | (.noRoom, s) => countMark rx peer s
      | (.refused st, s) =>
        let s := countMark rx peer s
        sendNack peer p st 0 (sweepTrackers peer (modCtx peer (fun c => doneSeq p.seq (seeSeq p.seq c)) s))
      | (.admitted, s) => ops.exec rx p (modCtx peer (seeSeq p.seq) (countMark rx peer s))

/-- A packet whose message's recorded count differs is dropped (R101). A tracker that an ABORT made has recorded none. -/
def countWrong (s : State) (p : Packet) : Bool :=
  p.ptype != .abort && (match trackerOf s (ctxPeer p) p.msgId with
    | some t => t.pktCount != 0 && t.pktCount != p.pktCount
    | none => false)

/-- A packet of the current epoch reaches its context on chip: a wrong count drops it; the context is touched, the reverse
direction's acknowledgement taken, the window decides. -/
def enterWindow (ops : RxOps) (rx : RxInfo) (p : Packet) (s : State) : State :=
  let peer := ctxPeer p
  if countWrong s p then bump 0x9040 6 1 s else
  let s := modCtx peer (fun c => { c with lastActive := nowMs s, dirty := true }) (touchCtx peer s)
  let s := if p.epoch = 0 then s else piggyback peer p.ackSeq s
  decideWindow ops rx p s

/-- A sequenced packet after authentication: openings, epochs, then the window. -/
def epochIn (ops : RxOps) (rx : RxInfo) (p : Packet) (s : State) : State :=
  let peer := ctxPeer p
  match ctxOf s peer with
  | none =>
    if p.epoch = 0 then
      (if !(isReady s) && !(isFatal s) then sendNack peer p stFenced 0 s
       else match openingIn rx p s with
        | (true, s) => enterWindow ops rx p s
        | (false, s) => s)
    else sendNack peer p stRemoteReset 0 s
  | some c =>
    if !c.onChip then parkPacket rx p true none s
    else if p.epoch = 0 then
      (match openingIn rx p s with
       | (true, s) => enterWindow ops rx p s
       | (false, s) => s)
    else match c.st with
      | .unopened => sendNack peer p stRemoteReset 0 s
      | .opening => s
      | .opened => if p.epoch = c.epoch then enterWindow ops rx p s else sendNack peer p stRemoteReset c.epoch s

/-- A sequenced packet arrives. -/
def receiveSeq (ops : RxOps) (rx : RxInfo) (p : Packet) (s : State) : State :=
  arrive rx p (fun s =>
    if authentic s p then
      (match openSecure s p with
       | .ok q => epochIn ops rx q s
       | .error .badType => bump 0x9040 3 1 s
       | .error .badLength => bump 0x9040 5 1 s)
    else bump 0x9040 7 1 s) s

/-! ## Contexts come on chip (R116, R140 to R145) -/

/-- The parked packets that satisfy a test, taken out of both bankers, in arrival order. -/
def takeParked (test : Parked → Bool) (s : State) : List Parked × State :=
  (sortBy (fun k => k.at_) ((s.enpin.banker0 ++ s.enpin.banker1).filter test),
   { s with enpin := { s.enpin with banker0 := s.enpin.banker0.filter (fun k => !(test k)),
                                    banker1 := s.enpin.banker1.filter (fun k => !(test k)) } })

/-- Decide afresh the parked packets that satisfy a test, in arrival order (R142). -/
def unpark (ops : RxOps) (test : Parked → Bool) (s : State) : State :=
  let (mine, s) := takeParked test s
  foldS (fun k t => epochIn ops k.rx k.pkt t) mine s

/-- A tally record reads uncorrectable: the context is lost (R145). The module's own is created afresh, and what was
outstanding on it ends REMOTE_RESET (R496). What waits unsent waits in a new context, unopened. -/
def loseCtx (peer : W32) (s : State) : State :=
  let s := raiseOn 0 0x30 1 peer 0 0 0 (bump 0x9070 9 1 s)
  let s := abortTrackers peer (if peer = ownId s then endOutstanding peer stRemoteReset peer false (bump 0x9041 0x0E 1 s)
    else endOutstanding peer stMemory 0 false s)
  let rest := ctxOf s peer
  let s := { s with enpin := { s.enpin with ctxs := tdel s.enpin.ctxs peer.toNat } }
  match rest with
  | some c =>
    if peer = ownId s || !c.msgs.isEmpty then
      modCtx peer (fun n => { n with msgs := c.msgs, reqs := c.reqs, msgNext := c.msgNext }) (allocCtx peer s).2
    else s
  | none => s

/-- A QP context comes on chip; the least recently used one of the 8,192 of its Keystone makes room. -/
def cacheQp (qp : Nat) (s : State) : State :=
  let mine := s.enpin.qpOnChip.filter (fun q => q % 2 == qp % 2)
  let l := s.enpin.qpOnChip.filter (fun q => q != qp)
  let l := if mine.length < 8192 then l else match mine.head? with
    | some old => dropFirst old l
    | none => l
  { s with enpin := { s.enpin with qpOnChip := l ++ [qp] } }

/-- The packets parked for a QP context that cannot be had are dropped, with their answers (R141). -/
def dropForHost (test : Parked → Bool) (s : State) : State :=
  let (mine, s) := takeParked test s
  foldS (fun k t => bankerRnr (k.rx.ks % 2) k.pkt (bump 0x9041 7 1 t)) mine s

/-- A context has been fetched: what waited for it is decided, in both Keystones' bankers (R140). -/
def fetchDone (ops : RxOps) (_ : Nat) (peer : W32) (qp : Option Nat) (result : ScrubResult) (s : State) : State :=
  match qp with
  | some q =>
    let test := fun (k : Parked) => k.needQp == some q
    if result = .uncorrectable ∨ hostOk s = false then dropForHost test s
    else unpark ops test (cacheQp q s)
  | none =>
    match ctxOf s peer with
    | none => s
    | some c =>
      if c.onChip || !(chipRoom s c.home) then s else
      let s := if result = .uncorrectable then loseCtx peer s
        else touchCtx peer (modCtx peer (fun c => { c with onChip := true }) (evictFor c.home s))
      let test := fun (k : Parked) => k.needTally && ctxPeer k.pkt == peer
      unpark ops test s

/-- BANKER_WAIT_EXPIRY (R141): a packet parked for longer than `banker_wait`. -/
def execBankerWaitExpiry (ks : Nat) (peer : W32) (seq : W32) (s : State) : Host.Outcome State Fault Refusal :=
  .next (
    let k := ks % 2
    match ((bankerOf s k).filter (fun x => ctxPeer x.pkt == peer && x.pkt.seq == seq)).head? with
    | some x =>
      let s := advanceTo (x.at_ + timerN s 0x0A x.at_) s
      bankerRnr k x.pkt (bump 0x9041 6 1 (setBanker k (dropFirst x (bankerOf s k)) s))
    | none => s)

/-- Sequenced packets of the types that this part of the transport handles. -/
def dataAdmit (rx : RxInfo) (p : Packet) (s : State) : Verdict × State :=
  match p.ptype with
  | .abort => admitAbort p s
  | .readResponse => admitResp p s
  | .atomicResponse => (.admitted, s)
  | _ => match p.ext with
    | .multicast _ _ _ _ bm => if bitOf bm.toNat (linePlace s (lineAxis (ctxPeer p))) then admitAccess rx p s else (.admitted, s)
    | _ => admitAccess rx p s

def dataExec (rx : RxInfo) (p : Packet) (s : State) : State :=
  match p.ptype with
  | .abort => execAbort p s
  | .readResponse => execReadResp rx p s
  | .atomicResponse => execAtomicResp p s
  | .readRequest => execReadReq rx p s
  | .atomic => execAtomic p s
  | _ => match p.ext with
    | .multicast _ _ _ _ bm =>
      if bitOf bm.toNat (linePlace s (lineAxis (ctxPeer p))) then execData rx p s else packetDone (ctxPeer p) p.seq p.ackReq s
    | _ => execData rx p s

end Sys2Proof.Machine
end

