-- ==== Sys2Proof/Machine/Coll.lean ====
section
/-! DEFINITION. Collectives at a member: chunks (R229), the unit's slots and signature (R232 to R237), forwarding up and down
(R236, R239), the tie path (R243 to R245), the fallback ring (R241), and the ends of an instance (R242). -/

namespace Sys2Proof.Machine

open Sys2Proof

/-! ## Chunks (R229) -/

/-- Chunks of one contribution. -/
def chunksPer (x : Sig) : Nat := max 1 (cdiv x.elements 1024)

/-- Chunks of an instance; those of an all-gather run over the result. -/
def chunkCount (g : Group) (x : Sig) : Nat :=
  if x.op = 4 then 1 else if x.op = 2 then setSize g * chunksPer x else chunksPer x

/-- The place of a chunk in its contribution, and its elements. -/
def chunkIx (x : Sig) (c : Nat) : Nat := if x.op = 2 then c % chunksPer x else c
def chunkLen (x : Sig) (c : Nat) : Nat := if x.op = 4 then 0 else min 1024 (x.elements - 1024 * chunkIx x c)

/-- The first element of a chunk as `elem_offset` holds it, and the chunk of an `elem_offset`. -/
def chunkOff (x : Sig) (c : Nat) : Nat :=
  if x.op = 4 then 0 else if x.op = 2 then c / chunksPer x * x.elements + 1024 * chunkIx x c else 1024 * c
def chunkAt (x : Sig) (off : Nat) : Nat :=
  if x.op = 4 ∨ x.elements = 0 then 0
  else if x.op = 2 then off / x.elements * chunksPer x + off % x.elements / 1024 else off / 1024

/-- Bytes of a chunk in native form. -/
def chunkBytes (x : Sig) (c : Nat) : Nat := if x.op = 4 then 0 else collBytes x.dtype (chunkLen x c)

/-- All-reduce and reduce-scatter combine; the other operations move bytes. -/
def combines (x : Sig) : Bool := decide (x.op ≤ 1)

/-- A member's own part in a chunk (R229): every chunk, but in an all-gather those of its rank. -/
def contributes (g : Group) (me : Nat) (x : Sig) (c : Nat) : Bool := x.op != 2 || rankOf g me == c / chunksPer x

/-- The member reads its contribution for this operation: at the root member alone in a broadcast, nowhere in a barrier. -/
def readsContribution (me : Nat) (x : Sig) : Bool := decide (x.op < 3) || (x.op == 3 && x.root == me)

/-- The bytes of a member's own chunk; a 2-byte packet that names the root member elsewhere in a broadcast (R229). -/
def ownChunk (s : State) (me : Nat) (i : Inst) (x : Sig) (c : Nat) : Got :=
  if readsContribution me x then
    getVa s i.fn (i.contribution.toNat + collBytes x.dtype (1024 * chunkIx x c)) (chunkBytes x c)
  else .ok (if x.op = 3 then beBytes 2 x.root else [])

/-- Elements that each rank owns in a reduce-scatter. -/
def ownedElems (g : Group) (x : Sig) : Nat := x.elements / max 1 (setSize g)

/-- A rank needs a chunk of the result. -/
def rankNeeds (g : Group) (x : Sig) (c r : Nat) : Bool :=
  if x.op = 1 then
    let em := ownedElems g x
    decide (r * em < 1024 * c + chunkLen x c) && decide (1024 * c < (r + 1) * em)
  else true

/-- A member's subtree needs a chunk (R236). -/
def subtreeNeeds (s : State) (g : Group) (m : Nat) (x : Sig) (c : Nat) : Bool :=
  (setMembers g m).any (fun k => inSubtree s g m k && rankNeeds g x c (rankOf g k))

/-- Where the elements [lo, lo + n) of a chunk's native payload go in an own reduce-scatter result: offset and bytes. The
layout of MXFP8 places each block's elements and its scale byte (R229). -/
def scatterSpans (x : Sig) (em own c lo n : Nat) (b : List Byte) : List (Nat × List Byte) :=
  if x.dtype = 2 ∨ x.dtype = 3 then
    ((rangeFrom 0 (n / 32)).map (fun j =>
      let e := lo + 32 * j - 1024 * c
      let o := lo + 32 * j - own
      let base := 1056 * (o / 1024)
      [(base + o % 1024, (b.drop e).take 32),
       (base + min 1024 (em - 1024 * (o / 1024)) + o % 1024 / 32, (b.drop (chunkLen x c + e / 32)).take 1)])).flatten
  else
    let sz := collBytes x.dtype 1
    [((lo - own) * sz, (b.drop ((lo - 1024 * c) * sz)).take (n * sz))]

/-- Where a chunk's native payload goes in a member's result. -/
def resultSpans (g : Group) (me : Nat) (x : Sig) (length c : Nat) (b : List Byte) : List (Nat × List Byte) :=
  match x.op with
  | 1 =>
    let em := ownedElems g x
    let own := rankOf g me * em
    let lo := max (1024 * c) own
    let hi := min (1024 * c + chunkLen x c) (own + em)
    scatterSpans x em own c lo (hi - lo) b
  | 2 => [(c / chunksPer x * length + collBytes x.dtype (1024 * chunkIx x c), b)]
  | 4 => []
  | _ => [(collBytes x.dtype (1024 * c), b)]

/-- Bytes of a member's whole result. -/
def resultLen (g : Group) (x : Sig) (length : Nat) : Nat :=
  match x.op with
  | 1 => collBytes x.dtype (ownedElems g x)
  | 2 => setSize g * length
  | 4 => 0
  | _ => length

/-! ## Ends (R242) -/

/-- The member's own failure: its entry ends with its own status, the rest of the set with COLLECTIVE_ABORTED. -/
def collLocal (h n : W32) (status : Nat) (result : W64) (s : State) : State :=
  match groupAt s h, instAt s h n with
  | some g, some i =>
    let s := abortInst h n (myMember s g) stCollAborted 0 none s
    match i.entry with
    | some (q, idx) => complete q idx status result (ownId s) (modInst h n (fun i => { i with entry := none }) s)
    | none => s
  | _, _ => s

/-- The unit of a member that has completed drops an aborted instance: its slots go back (R234). -/
def dropUnit (h n : W32) (status : Nat) (s : State) : State :=
  modInst h n (fun i => { i with
    aborted := some status, chunks := [], hops := i.hops.filter (fun p => p.dir == 2) }) (releaseSlots h n s)

/-- An instance that ends here by an abort: of this member, or as another member reports it. A member that has completed takes no
part, but its unit is free of an instance that still ran there. -/
def collAbort (h n : W32) (member status culprit : Nat) (peer : W32) (but : Option Nat) (s : State) : State :=
  match instAt s h n with
  | some i =>
    if i.aborted.isSome then s
    else if i.done then (if i.mode = .tree && !(i.chunks.all (fun c => c.2.ended)) then dropUnit h n status s else s)
    else endMember h n status peer (abortInst h n member status culprit but s)
  | none => s

/-- The unit itself ends an instance (R235, R237, R240): the rest of the set is told even where the own member has completed. -/
def unitAbort (h n : W32) (member status culprit : Nat) (peer : W32) (s : State) : State :=
  match instAt s h n with
  | some i =>
    if i.done && i.aborted.isNone then sendAbort h n member status culprit none (bump 0x9043 7 1 (dropUnit h n status s))
    else collAbort h n member status culprit peer none s
  | none => s

/-- The Ashlar dies whose core domain is off and whose HBM holds part of a member's contribution (R21). -/
def darkDies (s : State) (fn va len : Nat) : List Nat :=
  match segHolding s fn va len with
  | some i => ((piecesOf s fn i (va - segBase (segOf s fn i)) len).filterMap (fun p =>
      if p.1 = .hbm ∧ 0 < p.2.2 then some (rangeFrom (hbmDie p.2.1) (hbmDie (p.2.1 + p.2.2 - 1) + 1 - hbmDie p.2.1))
      else none)).flatten.filter (fun d => (dieOf s d).coreOff)
  | none => []

/-- The chunks that hold something of the member's result are all written. -/
def resultWritten (g : Group) (me : Nat) (x : Sig) (i : Inst) : Bool :=
  (rangeFrom 0 (chunkCount g x)).all (fun c =>
    !(rankNeeds g x c (rankOf g me)) || (tget {} i.chunks c).written)

/-- The member completes (R236, R241, R248). -/
def finishMember (h n : W32) (s : State) : State :=
  match instAt s h n with
  | some i =>
    let sub := match i.mode with
      | .tree => 1 | .tie => 2 | .ring => 3
    endMember h n (if i.mode = .ring then stDegraded else stOk) 0
      (bump 0x9043 sub 1 (modInst h n (fun i => { i with done := true }) s))
  | none => s

/-- Write spans of a result: done, asked for, or failed. -/
def writeSpans (q : QRef) (idx : Nat) (h n : W32) (fn : Nat) (spans : List (Nat × List Byte)) (s : State) : Bool × State :=
  match (spans.filterMap (fun p => match xlate s fn p.1 p.2.length true with
    | .ok => none
    | x => some (p.1, x))).head? with
  | some (_, .fault st a) => (false, collLocal h n st (BitVec.ofNat 64 a) s)
  | some (va, .absent g ps) => (false, askPages (queueKs s q) 0 fn g va ps (.entry q idx) s)
  | _ => (true, foldS (fun p t => vwrite fn p.1 p.2 (vtouch (ksAgent (queueKs t q)) fn p.1 p.2.length t)) spans s)

/-! ## Chunks at a unit -/

def modChunk (h n : W32) (c : Nat) (f : Chunk → Chunk) (s : State) : State :=
  modInst h n (fun i => { i with chunks := tset i.chunks c (f (tget {} i.chunks c)) }) s

/-- Chunk `c`'s slot holds no other chunk (R232). -/
def slotFree (g : Group) (i : Inst) (c : Nat) : Bool :=
  i.chunks.all (fun p => p.1 == c || p.2.ended || p.1 % (2 * g.slots) != c % (2 * g.slots))

/-- The senders that a chunk needs before it is complete (R236). -/
def expected (s : State) (g : Group) (me : Nat) (x : Sig) (c : Nat) : List Nat :=
  if x.op = 2 then
    let o := memberOfRank g me (c / chunksPer x)
    if o = me then [me] else ((childrenOf s g me).map Prod.snd).filter (fun k => inSubtree s g k o)
  else me :: (childrenOf s g me).map Prod.snd

/-- Write a chunk's result at this member once it has posted the instance. -/
def deliverChunk (h n : W32) (c : Nat) (s : State) : State :=
  match groupAt s h, instAt s h n with
  | some g, some i =>
    let k := tget {} i.chunks c
    (match i.own, i.entry with
     | some x, some (q, idx) =>
       let me := myMember s g
       if k.down && !k.written && rankNeeds g x c (rankOf g me) then
         let spans := (resultSpans g me x i.length c k.native).map (fun p => (i.resultVa.toNat + p.1, p.2))
         (match writeSpans q idx h n i.fn spans s with
          | (true, s) =>
            let s := modChunk h n c (fun k => { k with written := true, native := [] }) s
            (match instAt s h n with
             | some i => if resultWritten g me x i then finishMember h n s else s
             | none => s)
          | (false, s) => s)
       else s
     | _, _ => s)
  | _, _ => s

/-- The unit's slots go back when every chunk has ended. -/
def endUnit (h n : W32) (s : State) : State :=
  match groupAt s h, instAt s h n with
  | some g, some i =>
    if i.admitted && (rangeFrom 0 (chunkCount g (instSig i))).all (fun c => (tget {} i.chunks c).ended) then releaseSlots h n s
    else s
  | _, _ => s

/-- A chunk's slot is freed once every down packet has been acknowledged. -/
def endChunk (h n : W32) (c : Nat) (s : State) : State :=
  match instAt s h n with
  | some i =>
    let k := tget {} i.chunks c
    if k.down && k.downWait.isEmpty && !k.ended then
      endUnit h n (modChunk h n c (fun k => { k with ended := true, acc := [] }) s)
    else s
  | none => s

/-- The member that the packets of an instance name. -/
def sigMember (i : Inst) (me : Nat) (x : Sig) : Nat :=
  if x.op = 3 then x.root else match i.sig with
    | some (_, m) => m
    | none => me

/-- A tie packet. -/
def tiePkt (s : State) (g : Group) (n : W32) (x : Sig) (down : Bool) (member to_ : Nat) (payload : List Byte) : Packet :=
  { ptype := .tie, bondForm := true, src := ownId s, dst := memberId s g to_,
    ext := .tie down member g.handle n x.op x.red x.dtype x.elements, payload := payload }

/-- Each tie frame goes out on both links of the edge's pair (R244). -/
def sendTie (dir : Nat) (p : Packet) (s : State) : State :=
  pushHop (frameOf 0 p) (2 * dir + 1) (pushHop (frameOf 0 p) (2 * dir) s)

/-- A chunk goes to a neighbour, up or down, on the instance's path. -/
def sendChunk (h n : W32) (x : Sig) (dir to_ member c : Nat) (down : Bool) (payload : List Byte) (s : State) : State :=
  match groupAt s h, instAt s h n with
  | some g, some i =>
    if i.mode = .tie then sendTie dir (tiePkt s g n x down member to_ payload) s
    else sendHop h n dir to_ c (b2n down) (treePkt s g n x down (chunkOff x c) member to_ payload) s
  | _, _ => s

/-- The result of a chunk goes down: to each child whose subtree needs it, and to the own member. -/
def sendDown (h n : W32) (x : Sig) (c : Nat) (payload : List Byte) (s : State) : State :=
  match groupAt s h, instAt s h n with
  | some g, some i =>
    let me := myMember s g
    let kids := (childrenOf s g me).filter (fun e => subtreeNeeds s g e.2 x c)
    let wait := if i.mode = .tie then [] else kids.map Prod.snd
    let s := modChunk h n c (fun k => { k with down := true, upSent := true, native := payload, downWait := wait }) s
    let s := foldS (fun e t => sendChunk h n x e.1 e.2 (sigMember i me x) c true payload t) kids s
    deliverChunk h n c (endChunk h n c s)
  | _, _ => s

/-- The payload of a combined chunk on its way up: accumulator form, or the bytes; a 2-byte packet where the root
member's data has not passed here (R229). -/
def upPayload (s : State) (g : Group) (me : Nat) (x : Sig) (k : Chunk) : List Byte :=
  if combines x then accBytes k.acc
  else if x.op = 3 ∧ inSubtree s g me x.root = false then beBytes 2 x.root
  else k.native

/-- R235: an up chunk waits for the UP_ACK of chunk c − 2W on its edge, or for the end here of a chunk that crosses that edge
in no packet. -/
def windowOpen (s : State) (g : Group) (me : Nat) (i : Inst) (x : Sig) (c : Nat) : Bool :=
  i.mode == .tie || decide (c < 2 * g.slots) ||
  (let b := tget {} i.chunks (c - 2 * g.slots)
   if (expected s g me x (c - 2 * g.slots)).isEmpty then b.ended else b.upAcked)

/-- A complete chunk goes up to the parent, or at the root is rounded and goes down (R236, R239). -/
def forwardChunk (h n : W32) (x : Sig) (c : Nat) (s : State) : State :=
  match groupAt s h, instAt s h n with
  | some g, some i =>
    let me := myMember s g
    let k := tget {} i.chunks c
    let need := expected s g me x c
    if i.mode = .ring || k.upSent || k.down || need.isEmpty || !(need.all k.from_.contains) then s
    else match parentDir s g me, parentOf s g me with
      | some d, some p =>
        if !(windowOpen s g me i x c) then s else
        let s := modChunk h n c (fun k => { k with upSent := true }) s
        sendChunk h n x d p (sigMember i me x) c false (upPayload s g me x k) s
      | _, _ => sendDown h n x c (if combines x then fromAcc x.dtype k.acc else k.native) s
  | _, _ => s

/-! ## Admission and the fallback (R232, R233) -/

/-- Reserve the slots of an instance; false where the share or the free slots do not cover them. -/
def admitUnit (h n : W32) (x : Sig) (s : State) : Bool × State :=
  match groupAt s h, instAt s h n with
  | some g, some i =>
    if i.admitted || i.mode != .tree then (true, s)
    else
      let total := chunkCount g x
      let need0 := min g.slots ((total + 1) / 2)
      let need1 := min g.slots (total / 2)
      let c := s.coll
      let share := match grantOf s g.vdev with
        | some r => r.mortarSlots
        | none => 0
      let k0 := g.vdev * 2
      let k1 := g.vdev * 2 + 1
      if share < tget 0 c.share k0 + need0 ∨ share < tget 0 c.share k1 + need1 ∨ mortarSlots < c.slotsUsed0 + need0 ∨
          mortarSlots < c.slotsUsed1 + need1 then (false, s)
      else
        let sh := tset (tset c.share k0 (tget 0 c.share k0 + need0)) k1 (tget 0 c.share k1 + need1)
        (true, modInst h n (fun i => { i with reserved0 := need0, reserved1 := need1, admitted := true })
          { s with coll := { c with slotsUsed0 := c.slotsUsed0 + need0, slotsUsed1 := c.slotsUsed1 + need1, share := sh } })
  | _, _ => (true, s)

/-- The instance falls back: slots go, its tree packets are forgotten, FALLBACK goes out on the other edges. -/
def fallBack (h n : W32) (but : Option Nat) (s : State) : State :=
  match groupAt s h, instAt s h n with
  | some g, some i =>
    if i.fellBack || i.aborted.isSome || i.done then s
    else
      let s := releaseSlots h n s
      let s := modInst h n (fun i => { i with
        mode := .ring, fellBack := true, chunks := [], hops := i.hops.filter (fun p => p.dir == 2) }) s
      sendCtlEdges h n (myMember s g) 4 0 0 but s
  | _, _ => s

/-! ## Taking an up chunk (R236, R237, R240) -/

/-- R240: one check of the adders. A first failure is recomputed and counted; a second one fails the check and is counted. -/
def residueCheck (s : State) : Bool × State :=
  let rest (n : Nat) : State := { s with coll := { s.coll with residue := s.coll.residue.drop n } }
  match s.coll.residue with
  | [] => (true, s)
  | false :: _ => (true, rest 1)
  | true :: true :: _ => (false, bump 0x9043 6 1 (bump 0x9043 5 1 (rest 2)))
  | true :: _ => (true, bump 0x9043 5 1 (rest 2))

/-- The residue check of a combination: made only where values are combined. -/
def combineChecked (combined : Bool) (s : State) : Bool × State := if combined then residueCheck s else (true, s)

/-- A failed residue check aborts the instance with REDUCTION_CHECK_FAILED (R242). -/
def residueAbort (h n : W32) (s : State) : State :=
  match groupAt s h with
  | some g => unitAbort h n (myMember s g) stReduction 0 (ownId s) s
  | none => s

/-- What a receiver answers. -/
inductive Took where
  | taken
  | repeated
  | busy
deriving DecidableEq, Repr

/-- A chunk has ended at this unit. -/
def chunkEnded (s : State) (h n : W32) (c : Nat) : Bool :=
  ((instAt s h n).map (fun i => (tget ({} : Chunk) i.chunks c).ended)).getD false

/-- Take a chunk from a sender (a child, or the own member): admission, slot, signature, then combine and forward. The
accumulator form of a combining chunk is given in `acc`, other payloads in `bytes`; `data` tells a broadcast's data. -/
def takeUp (h n : W32) (sender member : Nat) (x : Sig) (c : Nat) (acc : List W32) (bytes : List Byte) (data : Bool)
    (s : State) : Took × State :=
  match groupAt s h with
  | none => (.repeated, s)
  | some g =>
    if chunkEnded s h n c then (.repeated, s) else
    match admitUnit h n x s with
    | (false, s) => (.taken, fallBack h n none s)
    | (true, s) =>
      match instAt s h n with
      | none => (.repeated, s)
      | some i =>
        let k := tget {} i.chunks c
        if i.mode = .tree && !(slotFree g i c) then (.busy, s)
        else if k.from_.contains sender then (.repeated, s)
        else if (match i.sig with
            | some (y, _) => y != x
            | none => false) then
          (.taken, unitAbort h n (myMember s g) stSignature member (memberId s g member) (bump 0x9043 4 1 s))
        else
          let s := if i.sig.isNone then modInst h n (fun i => { i with sig := some (x, if x.op = 3 then x.root else member) }) s else s
          match combineChecked (combines x && !k.from_.isEmpty) s with
          | (false, s) => (.taken, residueAbort h n s)
          | (true, s) =>
          let s := modChunk h n c (fun k => { k with
            from_ := k.from_ ++ [sender]
            acc := if !(combines x) then k.acc else if k.from_.isEmpty then acc else List.zipWith (reduce2 x.dtype x.red) k.acc acc
            native := if combines x || !data then k.native else bytes }) s
          (.taken, forwardChunk h n x c s)

/-! ## The own member's part -/

/-- Who waits for pages on behalf of an instance: its entry, or once that has completed the instance itself. -/
def collWaiter (h n : W32) (i : Inst) : Waiter :=
  match i.entry with
  | some (q, idx) => .entry q idx
  | none => .coll h n

/-- The member that a leaf's packet names: the leaf; the root in a broadcast's 2-byte chunk, where the payload alone would not tell
data from a name (R229, R237; DESIGN CHOICE, assumption 78). -/
def leafMember (x : Sig) (me c : Nat) : Nat := if x.op = 3 ∧ chunkBytes x c = 2 then x.root else me

/-- The own member's chunk enters the tree, when its turn has come; one that lies on a die whose core domain is off waits for the
die's wake (R21). A member of a reduce-scatter that has completed goes on giving the chunks it still owes (R238). -/
def contributeChunk (h n : W32) (c : Nat) (s : State) : State :=
  match groupAt s h, instAt s h n with
  | some g, some i =>
    let me := myMember s g
    (match i.own, i.posted with
     | some x, some q =>
       let k := tget {} i.chunks c
       let leaf := isLeaf s g me
       let open_ := if leaf then windowOpen s g me i x c
         else i.mode == .tie || (slotFree g i c &&
           (x.op != 2 || decide (c < 2 * g.slots) || (tget {} i.chunks (c - 2 * g.slots)).ended))
       let dark := if readsContribution me x then
           darkDies s i.fn (i.contribution.toNat + collBytes x.dtype (1024 * chunkIx x c)) (chunkBytes x c) else []
       if i.aborted.isSome || i.mode = .ring || k.from_.contains me || k.upSent || k.ended || !(contributes g me x c) || !open_ then s
       else if !dark.isEmpty then foldS askWake dark s
       else match ownChunk s me i x c with
         | .fault st a =>
           collLocal h n st (BitVec.ofNat 64 a)
             (badEvent i.fn (i.contribution.toNat + collBytes x.dtype (1024 * chunkIx x c)) (chunkBytes x c) s)
         | .absent sg ps =>
           askPages (queueKs s q) 0 i.fn sg (i.contribution.toNat + collBytes x.dtype (1024 * chunkIx x c)) ps (collWaiter h n i) s
         | .ok b =>
           let s := if readsContribution me x then
               vtouch (ksAgent (queueKs s q)) i.fn (i.contribution.toNat + collBytes x.dtype (1024 * chunkIx x c)) b.length s
             else s
           let acc := if combines x then toAcc x.dtype (chunkLen x c) b else []
           if leaf then
             match parentDir s g me, parentOf s g me with
             | some d, some p =>
               let s := modChunk h n c (fun k => { k with from_ := [me], upSent := true }) s
               sendChunk h n x d p (leafMember x me c) c false (if combines x then accBytes acc else b) s
             | _, _ => s
           else (takeUp h n me me x c acc b (x.op != 3 || x.root == me) s).2
     | _, _ => s)
  | _, _ => s

/-- A set of one member: a local copy (R228). -/
def copyAlone (h n : W32) (s : State) : State :=
  match groupAt s h, instAt s h n with
  | some g, some i =>
    (match i.own, i.entry with
     | some x, some (q, idx) =>
       if i.done || i.aborted.isSome then s
       else if x.op = 4 then finishMember h n s
       else if !(darkDies s i.fn i.contribution.toNat i.length).isEmpty then foldS askWake (darkDies s i.fn i.contribution.toNat i.length) s
       else match getVa s i.fn i.contribution.toNat i.length with
         | .fault st a => collLocal h n st (BitVec.ofNat 64 a) (badEvent i.fn i.contribution.toNat i.length s)
         | .absent sg ps => askPages (queueKs s q) 0 i.fn sg i.contribution.toNat ps (.entry q idx) s
         | .ok b =>
           let s := vtouch (ksAgent (queueKs s q)) i.fn i.contribution.toNat i.length s
           (match writeSpans q idx h n i.fn [(i.resultVa.toNat, b.take (resultLen g x i.length))] s with
            | (true, s) => finishMember h n s
            | (false, s) => s)
     | _, _ => s)
  | _, _ => s

/-- Everything the tree or the tie lane can do now at this member: its contributions in order, chunks that waited for the
window, results to write. -/
def pumpTree (h n : W32) (s : State) : State :=
  match groupAt s h, instAt s h n with
  | some g, some i =>
    (match i.own with
     | some x =>
       if setSize g ≤ 1 then copyAlone h n s
       else foldS (fun c t => deliverChunk h n c (forwardChunk h n x c (contributeChunk h n c t)))
         (rangeFrom 0 (chunkCount g x)) s
     | none => (match i.sig with
       | some (x, _) => foldS (fun c t => forwardChunk h n x c t) (rangeFrom 0 (chunkCount g x)) s
       | none => s))
  | _, _ => s

/-! ## The fallback ring (R241) -/

/-- The pieces of an instance: first element, elements, and the rank that finishes, owns or roots it. Segment j is the
run of chunks from j × C / M on, C the chunks and M the members; those of a reduce-scatter are cut at the ranks' ranges. -/
def ringPieces (g : Group) (me : Nat) (x : Sig) : List (Nat × Nat × Nat) :=
  let m := max 1 (setSize g)
  let all := (rangeFrom 0 (chunkCount g x))
  match x.op with
  | 0 => all.map (fun c => (chunkOff x c, chunkLen x c, ((rangeFrom 0 m).filter (fun j => decide (j * chunksPer x / m ≤ c))).length - 1))
  | 1 => (all.map (fun c => (rangeFrom 0 m).filterMap (fun r =>
      let em := ownedElems g x
      let lo := max (1024 * c) (r * em)
      let hi := min (1024 * c + chunkLen x c) ((r + 1) * em)
      if lo < hi then some (lo, hi - lo, r) else none))).flatten
  | 2 => all.map (fun c => (chunkOff x c, chunkLen x c, c / chunksPer x))
  | 3 => all.map (fun c => (chunkOff x c, chunkLen x c, rankOf g x.root))
  | _ => [(0, 0, rankOf g (memberOfRank g me 0))]

/-- The key of a ring packet in the lists of what has come and what has been handled. -/
def ringKey (down : Bool) (off : Nat) : Nat := b2n down * 2 ^ 40 + off

/-- Chunks of an MXFP8 piece in native form, cut out of their chunk: its elements, then its scale bytes. -/
def pieceNative (x : Sig) (c lo n : Nat) (chunk : List Byte) : List Byte :=
  if x.dtype = 2 ∨ x.dtype = 3 then
    (chunk.drop (lo - 1024 * c)).take n ++ (chunk.drop (chunkLen x c + (lo - 1024 * c) / 32)).take (n / 32)
  else (chunk.drop ((lo - 1024 * c) * collBytes x.dtype 1)).take (n * collBytes x.dtype 1)

/-- Where a piece's native bytes go in the member's result. -/
def pieceSpans (g : Group) (me : Nat) (x : Sig) (length lo n : Nat) (b : List Byte) : List (Nat × List Byte) :=
  match x.op with
  | 1 => (let em := ownedElems g x
          if x.dtype = 2 ∨ x.dtype = 3 then
            ((rangeFrom 0 (n / 32)).map (fun j =>
              let o := lo + 32 * j - rankOf g me * em
              let base := 1056 * (o / 1024)
              [(base + o % 1024, (b.drop (32 * j)).take 32),
               (base + min 1024 (em - 1024 * (o / 1024)) + o % 1024 / 32, (b.drop (n + j)).take 1)])).flatten
          else [((lo - rankOf g me * em) * collBytes x.dtype 1, b)])
  | _ => resultSpans g me x length (chunkAt x lo) b

/-- What one packet of the ring, or the start of a piece, makes a member do. `got` is what came: none at the start. The
answer says whether it has been handled; bytes to write, and the packet to send on, come with it. -/
structure RingAct where
  write : Option (List Byte) := none
  send : Option (Bool × List Byte) := none

/-- The action at a member of rank `r` of `m` for a piece whose rank is `j`. -/
def ringAct (x : Sig) (m r j n : Nat) (own : List Byte) (got : Option (Bool × List Byte)) : RingAct :=
  let next := (r + 1) % max m 1
  match x.op with
  | 4 => (match got with
    | none => { send := some (false, []) }
    | some (false, _) => if r = 0 then { write := some [], send := some (true, []) } else { send := some (false, []) }
    | some (true, _) => if r = 0 then {} else { write := some [], send := some (true, []) })
  | 2 => (match got with
    | none => { write := some own, send := some (true, own) }
    | some (_, b) => { write := some b, send := if next = j then none else some (true, b) })
  | 3 => (match got with
    | none => { write := some own, send := some (true, own) }
    | some (_, b) => { write := some b, send := if next = j then none else some (true, b) })
  | _ => (match got with
    | none => { send := some (false, accBytes (toAcc x.dtype n own)) }
    | some (false, b) =>
      let sum := List.zipWith (reduce2 x.dtype x.red) (accOfBytes b) (toAcc x.dtype n own)
      if r = j then
        let out := fromAcc x.dtype sum
        { write := some out, send := if x.op = 0 then some (true, out) else none }
      else { send := some (false, accBytes sum) }
    | some (true, b) => { write := some b, send := if next = j then none else some (true, b) })

/-- The member that starts a piece: the one after the rank that finishes it, the owner, the root member, rank 0. -/
def ringStarts (x : Sig) (m r j : Nat) : Bool := if x.op ≤ 1 then r == (j + 1) % max m 1 else r == j

/-- The member's own bytes of a piece are needed for this packet. -/
def ringReads (x : Sig) (got : Option (Bool × List Byte)) : Bool :=
  match x.op, got with
  | 4, _ => false
  | _, none => true
  | _, some (down, _) => x.op ≤ 1 && !down

/-- Handle one event of a piece: a packet that has come, or its start. -/
def ringEvent (h n : W32) (pc : Nat × Nat × Nat) (key : Nat) (got : Option (Bool × List Byte)) (s : State) : State :=
  match groupAt s h, instAt s h n with
  | some g, some i =>
    let me := myMember s g
    (match i.own, i.posted with
     | some x, some q =>
       let r := rankOf g me
       let m := setSize g
       let c := chunkAt x pc.1
       let va := i.contribution.toNat + collBytes x.dtype (1024 * chunkIx x c)
       let dark := if ringReads x got then darkDies s i.fn va (chunkBytes x c) else []
       if i.aborted.isSome || i.ringWritten.contains key then s
       else if !dark.isEmpty then foldS askWake dark s
       else
         let own : Got := if ringReads x got then getVa s i.fn va (chunkBytes x c) else .ok []
         match own with
         | .fault st a => collLocal h n st (BitVec.ofNat 64 a) (badEvent i.fn va (chunkBytes x c) s)
         | .absent sg ps => askPages (queueKs s q) 0 i.fn sg va ps (collWaiter h n i) s
         | .ok b =>
           let s := if ringReads x got then vtouch (ksAgent (queueKs s q)) i.fn va b.length s else s
           let mine := if x.op = 0 ∨ x.op = 1 then pieceNative x c pc.1 pc.2.1 b else b
           match combineChecked (decide (x.op ≤ 1) && ringReads x got && got.isSome) s with
           | (false, s) => residueAbort h n s
           | (true, s) =>
           let act := ringAct x m r pc.2.2 pc.2.1 mine got
           let spans := match act.write with
             | some w => if x.op = 4 then [] else
                 (pieceSpans g me x i.length pc.1 pc.2.1 w).map (fun p => (i.resultVa.toNat + p.1, p.2))
             | none => []
           (match writeSpans q ((i.entry.map Prod.snd).getD 0) h n i.fn spans s with
            | (false, s) => s
            | (true, s) =>
              let s := modInst h n (fun i => { i with
                ringWritten := key :: (if act.write.isSome then [2 ^ 41 + pc.1] else []) ++ i.ringWritten
                ringGot := tdel i.ringGot key }) s
              match act.send with
              | some (down, pay) => sendRing h n (memberOfRank g me ((r + 1) % max m 1)) me down pc.1 pay s
              | none => s)
     | _, _ => s)
  | _, _ => s

/-- Every piece of the member's result is written. -/
def ringComplete (g : Group) (me : Nat) (x : Sig) (i : Inst) : Bool :=
  (ringPieces g me x).all (fun pc => (x.op == 1 && pc.2.2 != rankOf g me) || i.ringWritten.contains (2 ^ 41 + pc.1))

/-- Everything the transport engines can do now for an instance on the ring. -/
def pumpRing (h n : W32) (s : State) : State :=
  match groupAt s h, instAt s h n with
  | some g, some i =>
    (match i.own with
     | some x =>
       if setSize g ≤ 1 then copyAlone h n s
       else
         let me := myMember s g
         let s := foldS (fun pc t =>
           let t := if ringStarts x (setSize g) (rankOf g me) pc.2.2 then ringEvent h n pc (2 ^ 42 + pc.1) none t else t
           let t := match instAt t h n with
             | some i => (match tfind i.ringGot (ringKey false pc.1) with
               | some b => ringEvent h n pc (ringKey false pc.1) (some (false, b)) t
               | none => t)
             | none => t
           match instAt t h n with
           | some i => (match tfind i.ringGot (ringKey true pc.1) with
             | some b => ringEvent h n pc (ringKey true pc.1) (some (true, b)) t
             | none => t)
           | none => t) (ringPieces g me x) s
         match instAt s h n with
         | some i => if !i.done && i.aborted.isNone && i.entry.isSome && ringComplete g me x i then finishMember h n s else s
         | none => s
     | none => s)
  | _, _ => s

/-- Everything an instance can do now. -/
def pump (h n : W32) (s : State) : State :=
  match instAt s h n with
  | some i =>
    if i.aborted.isSome then s
    else if i.mode = .ring then pumpRing h n s
    else
      let s := pumpTree h n s
      match instAt s h n with
      | some i => if i.mode = .ring then pumpRing h n s else s
      | none => s
  | none => s

/-! ## The two newest instances (R236) -/

/-- The instance still has something to do here. -/
def instLive (i : Inst) : Bool := i.aborted.isNone && !(i.done && i.hops.isEmpty && i.chunks.all (fun c => c.2.ended))

/-- The number is older than every one of two held. -/
def instOld (g : Group) (n : W32) : Bool := decide (2 ≤ g.insts.length) && g.insts.all (fun i => decide (sdist n i.num < 0))

/-- The number is more than one newer than the oldest instance still held in progress. -/
def instAhead (g : Group) (n : W32) : Bool := g.insts.any (fun i => instLive i && decide (1 < sdist n i.num))

/-- Hold an instance, with the parameters of now; of more than two the oldest is forgotten. -/
def holdInst (h n : W32) (mode : InstMode) (s : State) : State :=
  match groupAt s h with
  | none => s
  | some g =>
    if g.insts.any (fun i => i.num == n) then s
    else
      let i : Inst := { num := n, mode := mode, giveUp := ledN s 0x4160 1, rto := ledN s 0x4160 2, hopTries := ledN s 0x4160 3,
                        tieTime := ledN s 0x4160 4 }
      let s := modGroup h (fun g => { g with insts := g.insts ++ [i] }) s
      if g.insts.length < 2 then s
      else match (g.insts ++ [i]).foldl (fun b k => match b with
          | none => some k
          | some o => if sdist k.num o.num < 0 then some k else some o) none with
        | some old => modGroup h (fun g => { g with insts := g.insts.filter (fun k => k.num != old.num) }) (releaseSlots h old.num s)
        | none => s

/-! ## The wall map and the set (R242) -/

/-- A member's module is fenced, without position, or shows no up link. -/
def memberLost (s : State) (g : Group) (m : Nat) : Bool :=
  let p := memberPos s g m
  fencedAt s p.1 p.2 || noUpLink s p

/-- The lowest member of the set that is lost. -/
def lostMember (s : State) (g : Group) : Option Nat :=
  let l := (setMembers g (myMember s g)).filter (memberLost s g)
  l.foldl (fun b m => match b with
    | none => some m
    | some o => some (min o m)) none

/-- The far end of the tree edge that is broken, of the lowest member index. -/
def brokenEdge (s : State) (g : Group) : Option Nat :=
  ((setMembers g (myMember s g)).filter (fun m => match parentDir s g m with
    | some d => hopBroken s (memberPos s g m) d
    | none => false)).foldl (fun b m => match b with
    | none => some m
    | some o => some (min o m)) none

/-- The wall map has changed: instances in progress whose set it touches end with COLLECTIVE_ABORTED. -/
def collWallCheck (s : State) : State :=
  foldS (fun p t =>
    let g := p.2
    match (match lostMember t g with
      | some m => some m
      | none => brokenEdge t g) with
    | none => t
    | some m => foldS (fun i u =>
        if instLive i && !i.done && (i.mode != .ring || (lostMember t g).isSome) then
          collAbort g.handle i.num m stCollAborted 0 (memberId u g m) none u
        else u) g.insts t) s.coll.groups s

end Sys2Proof.Machine
end

