-- ==== Sys2Proof/Machine/CollEntries.lean ====
section
/-! DEFINITION. The collective commands: groups (R223 to R225), the COLLECTIVE entry (R228), tree and control packets (R230
to R237), the hop timer (R235), the tie path (R244, R245), give-up (R242), and the ring's packets (R231, R241). -/

namespace Sys2Proof.Machine

open Sys2Proof

/-! ## GROUP_CREATE -/

/-- The device exists: its virtual device has been created (R386). -/
def vdevExists (s : State) (v : Nat) : Bool :=
  match (fnOf s v).vstate with
  | .none => false
  | _ => true

/-- The cause of a GROUP_CREATE (R224), the lowest that applies. -/
def groupCause (s : State) (e : Entry) : Nat :=
  let h := BitVec.ofNat 32 (ef e 4 4)
  let tie := bitOf (ef e 19 1) 0
  let ties := (s.coll.groups.filter (fun p => p.2.tie)).length
  if (tfind s.coll.groups (h.toNat % 1024)).isSome then 1
  else if tie && decide (512 < 2 * ties + 2) then 2
  else if !(vdevExists s (ef e 16 2)) || (match grantOf s (ef e 16 2) with
      | some g => g.mortarSlots == 0
      | none => true) then 3
  else 0

def startGroupCreate (q : QRef) (idx : Nat) (e : Entry) (s : State) : State :=
  withRange q idx (eLocal e) 16 true (fun s =>
    let h := BitVec.ofNat 32 (ef e 4 4)
    let cause := groupCause s e
    let s := if cause ≠ 0 then s else
      let g : Group := { handle := h, vdev := ef e 16 2, axis := ef e 18 1, tie := bitOf (ef e 19 1) 0,
                         tc := fieldOf (ef e 19 1) 1 3, ox := ef e 20 1, oy := ef e 21 1, w := ef e 22 1, h := ef e 23 1,
                         rx := ef e 24 1, ry := ef e 25 1, slots := ef e 26 2 }
      { s with coll := { s.coll with groups := tset s.coll.groups (h.toNat % 1024) g } }
    putResult q idx (BitVec.ofNat 64 (eLocal e)) [BitVec.ofNat 8 cause] s) s

/-- GROUP_CREATE (R224). -/
def execGroupCreate (q : QRef) (e : Entry) (s : State) : Host.Outcome State Fault Refusal :=
  .next (if eOp e = 0x90 then offer noHold startGroupCreate q e s else s)

/-! ## GROUP_DESTROY -/

/-- Instances of a group in progress here end with MANAGER_ABORT, the rest of their set with COLLECTIVE_ABORTED. -/
def abortGroupBy (fin : QRef → Nat → State → State) (h : W32) (s : State) : State :=
  match groupAt s h with
  | none => s
  | some g => foldS (fun i t =>
      if instLive i then
        let u := abortInst h i.num (myMember t g) stCollAborted 0 none t
        (match i.entry with
         | some (q, idx) =>
           fin q idx (modInst h i.num (fun x => { x with entry := none }) u)
         | none => u)
      else t) g.insts s

def abortGroup (h : W32) (s : State) : State := abortGroupBy (fun q idx t => complete q idx stManager 0 (ownId t) t) h s

/-- A group goes: its slots and tie contexts are free; ABORTs that wait for their acknowledgement go on. -/
def destroyGroup (h : W32) (s : State) : State :=
  let s := abortGroup h s
  match groupAt s h with
  | none => s
  | some g =>
    let s := foldS (fun i t => releaseSlots h i.num t) g.insts s
    let left := (g.insts.map (fun i => (i.hops.filter (fun p => p.dir == 2)).map (fun p =>
      ({ handle := h, inst := i.num, dir := (edgeDir s g p.member).getD 0, rto := i.rto, tries := i.hopTries, hop := p } : Orphan)))).flatten
    { s with coll := { s.coll with groups := tdel s.coll.groups (h.toNat % 1024), orphans := s.coll.orphans ++ left } }

def startGroupDestroy (q : QRef) (idx : Nat) (e : Entry) (s : State) : State :=
  completeOk q idx (destroyGroup (eKey e) s)

/-- GROUP_DESTROY (R225). -/
def execGroupDestroy (q : QRef) (e : Entry) (s : State) : Host.Outcome State Fault Refusal :=
  .next (if eOp e = 0x91 then offer noHold startGroupDestroy q e s else s)

/-! ## COLLECTIVE -/

/-- An earlier instance of the group is in progress here (R228). -/
def collHold (s : State) (q : QRef) (e : Entry) : Hold :=
  match groupAt s (eKey e) with
  | some g => if g.vdev == queueFn q && g.insts.any (fun i => i.entry.isSome) then .head else .none
  | none => .none

/-- The signature of an entry. -/
def entrySig (e : Entry) : Sig :=
  { op := eCollOp e, red := eCollRed e, dtype := eCollType e, elements := eCollCount e,
    root := if eCollOp e = 3 then eCollRoot e else 0 }

/-- The descriptor's rules that an entry breaks (R228). -/
def collWrong (s : State) (g : Group) (e : Entry) : Bool :=
  let m := setSize g
  (eCollOp e == 3 && !((setMembers g (myMember s g)).contains (eCollRoot e))) ||
  (eCollOp e == 1 && (eCollCount e % m != 0 ||
    ((eCollType e == 2 || eCollType e == 3) && eCollCount e % (32 * m) != 0)))

/-- The instance takes the tie path (R243). -/
def tieFits (g : Group) (x : Sig) (length : Nat) : Bool :=
  g.tie && (x.op == 4 || (x.op == 0 && decide (4 * x.elements ≤ 256)) || (x.op == 3 && decide (length ≤ 256)))

/-- The first refused range of an entry: contribution, then result (R303). -/
def collRangeBad (s : State) (g : Group) (x : Sig) (fn : Nat) (e : Entry) : Option (Nat × Nat) :=
  let pick (r : Xl) : Option (Nat × Nat) := match r with
    | .fault st a => some (st, a)
    | _ => none
  let a := if readsContribution (myMember s g) x then pick (xlateRights s fn (eLocal e) (eLength e) false) else none
  match a with
  | some r => some r
  | none => pick (xlateRights s fn (eOffset e) (resultLen g x (eLength e)) true)

/-- COLLECTIVE once taken. It is run again when pages it waited for have come: the instance then goes on. -/
def startColl (q : QRef) (idx : Nat) (e : Entry) (s : State) : State :=
  match instOfEntry s q idx with
  | some (h, n) => pump h n s
  | none =>
    let h := eKey e
    match groupAt s h with
    | none => complete q idx stLocalAccess 0 0 s
    | some g =>
      if g.vdev ≠ queueFn q then complete q idx stLocalAccess 0 0 s else
      let n := g.count
      let s := modGroup h (fun g => { g with count := g.count + 1 }) s
      if instOld g n then complete q idx stCollAborted 0 0 s
      else
        let s := holdInst h n .tree s
        match instAt s h n with
        | none => s
        | some i =>
          match i.aborted with
          | some st => complete q idx st 0 i.abortPeer s
          | none =>
            let x := entrySig e
            let s := modInst h n (fun i => { i with
              entry := some (q, idx), posted := some q, own := some x, fn := queueFn q, contribution := BitVec.ofNat 64 (eLocal e),
              resultVa := BitVec.ofNat 64 (eOffset e), length := eLength e, takenAt := s.now, giveUp := ledN s 0x4160 1,
              rto := ledN s 0x4160 2, hopTries := ledN s 0x4160 3, tieTime := ledN s 0x4160 4 }) s
            if collWrong s g e then collLocal h n stLocalAccess 0 s
            else match collRangeBad s g x (queueFn q) e with
              | some (st, a) => collLocal h n st (BitVec.ofNat 64 a) s
              | none =>
                if setSize g ≤ 1 then pump h n s
                else match lostMember s g with
                  | some m =>
                    let s := modInst h n (fun i => { i with aborted := some stCollAborted, abortPeer := memberId s g m }) (releaseSlots h n s)
                    endMember h n stCollAborted (memberId s g m) s
                  | none =>
                    let mode := if i.mode = .ring || (brokenEdge s g).isSome then InstMode.ring
                      else if i.mode = .tie || (tieFits g x (eLength e) && i.chunks.isEmpty) then InstMode.tie else InstMode.tree
                    let s := if mode = .ring then modInst h n (fun i => { i with chunks := [] }) (releaseSlots h n s) else s
                    pump h n (modInst h n (fun i => { i with mode := mode }) s)

/-- COLLECTIVE (R228). -/
def execCollective (q : QRef) (e : Entry) (s : State) : Host.Outcome State Fault Refusal :=
  .next (if eOp e = 0x10 then offer collHold startColl q e s else s)

/-! ## Tree packets arrive (R231, R236) -/

/-- A one-hop packet is taken from the internal port. -/
def takeInLink (link : Nat) (p : Packet) (s : State) : State :=
  match (s.eth.internal.filter (fun r => r.1.link == some link && r.2 == p)).head? with
  | some r => { s with eth := { s.eth with internal := dropFirst r s.eth.internal } }
  | none => s

/-- The member at the other end of a tree edge. -/
def edgeMember (s : State) (g : Group) (link : Nat) : Option Nat :=
  ((edgesOf s g (myMember s g)).filter (fun e => e.1 == linkDir link)).head?.map Prod.snd

/-- The fields of a tree packet (R91): group, instance, signature, direction, first element, member. -/
structure TreeHead where
  group : W32
  inst : W32
  x : Sig
  down : Bool
  off : Nat
  member : Nat

def treeHead (p : Packet) : Option TreeHead :=
  match p.ext with
  | .coll h n op red dt false down el off mem =>
    some { group := h, inst := n, x := { op := op, red := red, dtype := dt, elements := el }, down := down, off := off, member := mem }
  | _ => none

/-- The `code`, `status`, `culprit` and `chunk` of a control packet (R230). -/
def ctlCode (p : Packet) : Nat := nAt p.payload 0 1
def ctlStatus (p : Packet) : Nat := nAt p.payload 1 1
def ctlCulprit (p : Packet) : Nat := nAt p.payload 2 2
def ctlChunk (p : Packet) : Nat := nAt p.payload 4 4

/-- A broadcast's packet carries data (R229): it is not a 2-byte packet, or where a chunk is 2 bytes long itself the root
member it names lies in the sender's subtree. -/
def isData (s : State) (g : Group) (from_ : Nat) (x : Sig) (c member : Nat) (b : List Byte) : Bool :=
  x.op != 3 || (if chunkBytes x c = 2 then inSubtree s g from_ member else b.length != 2)

/-- The signature that an up packet carries; a broadcast's root member is the packet's `member`, or the payload's. -/
def packetSig (x : Sig) (member : Nat) (data : Bool) (b : List Byte) : Sig :=
  if x.op = 3 then { x with root := if data then member else nAt b 0 2 } else x

/-- The end of the handling of a tree packet: the instance goes on where it can. -/
def goOn (h n : W32) (s : State) : State := pump h n s

/-- A down chunk reaches a unit (R236). -/
def takeDown (h n : W32) (x : Sig) (member c : Nat) (b : List Byte) (s : State) : Took × State :=
  match groupAt s h, instAt s h n with
  | some g, some i =>
    let k := tget {} i.chunks c
    let me := myMember s g
    let y := match i.own with
      | some o => o
      | none => match i.sig with
        | some (o, _) => o
        | none => if x.op = 3 then { x with root := member } else x
    if k.down || k.ended then (.repeated, s)
    else if isLeaf s g me then
      (.taken, deliverChunk h n c (modChunk h n c (fun k => { k with down := true, ended := true, upSent := true, native := b }) s))
    else if i.mode = .tie then (.taken, sendDown h n y c b s)
    else match admitUnit h n y s with
      | (false, s) => (.taken, fallBack h n none s)
      | (true, s) =>
        if !(slotFree g i c) then (.busy, s) else (.taken, sendDown h n y c b s)
  | _, _ => (.repeated, s)

/-- A tree data packet at the member's unit. -/
def treeData (link : Nat) (p : Packet) (t : TreeHead) (s : State) : State :=
  if refusesAll s then s else
  match groupAt s t.group with
  | none => bump 0x9043 0x0A 1 s
  | some g =>
    match edgeMember s g link with
    | none => bump 0x9043 0x0A 1 s
    | some from_ =>
      let me := myMember s g
      if t.down != (parentOf s g me == some from_) then bump 0x9043 0x0A 1 s
      else
        let c := chunkAt t.x t.off
        let ack := if t.down then 2 else 1
        let held := (instOf g t.inst).isSome
        if !held && instOld g t.inst then answerCtl t.group t.inst link from_ ack c s
        else if !held && instAhead g t.inst then s
        else
          let s := holdInst t.group t.inst .tree s
          match instAt s t.group t.inst with
          | none => s
          | some i =>
            if i.aborted.isSome || i.mode == .ring then answerCtl t.group t.inst link from_ ack c s
            else
              let data := isData s g from_ t.x c t.member p.payload
              let r := if t.down then takeDown t.group t.inst t.x t.member c p.payload s
                else takeUp t.group t.inst from_ t.member (packetSig t.x t.member data p.payload) c
                  (accOfBytes p.payload) p.payload data s
              match r with
              | (.busy, s) => answerCtl t.group t.inst link from_ 6 c s
              | (_, s) => goOn t.group t.inst (answerCtl t.group t.inst link from_ ack c s)

/-- TREE_DATA_RECEIVE (R236). -/
def execTreeDataReceive (link : Nat) (p : Packet) (s : State) : Host.Outcome State Fault Refusal :=
  .next (match p.ptype, treeHead p with
    | .collective, some t => if t.off = ctlOffset then s else treeData link p t (takeInLink link p s)
    | _, _ => s)

/-! ## Acknowledgements (R235) -/

/-- A control packet of one code from a neighbour on the group's tree is handled by `f`: group, neighbour. -/
def onCtl (code link : Nat) (p : Packet) (f : TreeHead → Group → Nat → State → State) (s : State) : State :=
  match p.ptype, treeHead p with
  | .collective, some t =>
    if t.off ≠ ctlOffset ∨ ctlCode p ≠ code then s
    else
      let s := takeInLink link p s
      if refusesAll s then s
      else match groupAt s t.group with
        | none => bump 0x9043 0x0A 1 s
        | some g => match edgeMember s g link with
          | none => bump 0x9043 0x0A 1 s
          | some from_ => f t g from_ s
  | _, _ => s

/-- A hop packet is acknowledged. -/
def dropHop (h n : W32) (member chunk dir : Nat) (s : State) : State :=
  modInst h n (fun i => { i with hops := i.hops.filter (fun p => !(p.member == member && p.chunk == chunk && p.dir == dir)) }) s

/-- A chunk that no member of the own subtree needs ends with its UP_ACK. -/
def endUnneeded (h n : W32) (c : Nat) (s : State) : State :=
  match groupAt s h, instAt s h n with
  | some g, some i =>
    if subtreeNeeds s g (myMember s g) (instSig i) c then s
    else endUnit h n (modChunk h n c (fun k => { k with ended := true, acc := [] }) s)
  | _, _ => s

def upAcked (t : TreeHead) (from_ c : Nat) (s : State) : State :=
  let s := dropHop t.group t.inst from_ c 0 s
  match instAt s t.group t.inst with
  | some i =>
    if i.aborted.isSome || i.mode == .ring then s
    else goOn t.group t.inst (endUnneeded t.group t.inst c (modChunk t.group t.inst c (fun k => { k with upAcked := true }) s))
  | none => s

/-- UP_ACK (R235). -/
def execUpAck (link : Nat) (p : Packet) (s : State) : Host.Outcome State Fault Refusal :=
  .next (onCtl 1 link p (fun t g from_ s =>
    if parentOf s g (myMember s g) = some from_ then upAcked t from_ (ctlChunk p) s else s) s)

/-- DOWN_ACK (R235, R236). -/
def execDownAck (link : Nat) (p : Packet) (s : State) : Host.Outcome State Fault Refusal :=
  .next (onCtl 2 link p (fun t _ from_ s =>
    let c := ctlChunk p
    let s := dropHop t.group t.inst from_ c 1 s
    match instAt s t.group t.inst with
    | some i =>
      if i.aborted.isSome || i.mode == .ring then s
      else goOn t.group t.inst (endChunk t.group t.inst c
        (modChunk t.group t.inst c (fun k => { k with downWait := k.downWait.filter (fun m => m != from_) }) s))
    | none => s) s)

/-- BUSY (R235): the packet is sent again after the hop's time, and the send does not count. -/
def execBusy (link : Nat) (p : Packet) (s : State) : Host.Outcome State Fault Refusal :=
  .next (onCtl 6 link p (fun t g from_ s =>
    let dir := if parentOf s g (myMember s g) = some from_ then 0 else 1
    modInst t.group t.inst (fun i => { i with hops := i.hops.map (fun k =>
      if k.member == from_ && k.chunk == ctlChunk p && k.dir == dir then { k with tries := k.tries - 1, sentAt := s.now } else k) }) s) s)

/-- CONTROL_ACK (R235). -/
def execControlAck (link : Nat) (p : Packet) (s : State) : Host.Outcome State Fault Refusal :=
  .next (match p.ptype, treeHead p with
    | .collective, some t =>
      if t.off ≠ ctlOffset ∨ ctlCode p ≠ 5 then s
      else
        let mine := s.coll.orphans.filter (fun o =>
          o.handle == t.group && o.inst == t.inst && o.dir == linkDir link && o.hop.chunk == ctlKey (ctlChunk p))
        if !mine.isEmpty then
          let s := takeInLink link p s
          { s with coll := { s.coll with orphans := s.coll.orphans.filter (fun o => !(mine.contains o)) } }
        else onCtl 5 link p (fun t _ from_ s => dropHop t.group t.inst from_ (ctlKey (ctlChunk p)) 2 s) s
    | _, _ => s)

/-! ## ABORT and FALLBACK (R233, R242) -/

/-- An ABORT or FALLBACK is acknowledged, then acts on an instance that this member holds or may hold. -/
def onCtlAcked (code link : Nat) (p : Packet) (f : TreeHead → Group → Nat → State → State) (s : State) : State :=
  onCtl code link p (fun t g from_ s =>
    let held := (instOf g t.inst).isSome
    let s := answerCtl t.group t.inst link from_ 5 code s
    if !held && (instOld g t.inst || instAhead g t.inst) then s
    else f t g from_ (holdInst t.group t.inst .tree s)) s

/-- TREE_ABORT (R242). -/
def execTreeAbort (link : Nat) (p : Packet) (s : State) : Host.Outcome State Fault Refusal :=
  .next (onCtlAcked 3 link p (fun t g from_ s =>
    let who := if ctlStatus p = stSignature then ctlCulprit p else t.member
    collAbort t.group t.inst t.member (ctlStatus p) (ctlCulprit p) (memberId s g who) (some from_) s) s)

/-- FALLBACK (R233). -/
def execFallback (link : Nat) (p : Packet) (s : State) : Host.Outcome State Fault Refusal :=
  .next (onCtlAcked 4 link p (fun t _ from_ s => goOn t.group t.inst (fallBack t.group t.inst (some from_) s)) s)

/-! ## The hop timer (R235) -/

/-- A hop packet is sent again, marked `retx`, with the payload given. -/
def resendHopWith (h n : W32) (dir : Nat) (k : HopPkt) (payload : List Byte) (s : State) : State :=
  let p := { k.pkt with retx := true, payload := payload }
  let again (x : HopPkt) : HopPkt := { x with tries := x.tries + 1, sentAt := s.now }
  let s := modInst h n (fun i => { i with hops := modFirst (fun x => x == k) again i.hops }) s
  sendTree dir (if k.dir = 2 then 0 else k.chunk) p (bump 0x9043 8 1 s)

/-- The signature of a leaf's own entry, for an up chunk of it. -/
def leafSig (s : State) (g : Group) (i : Inst) (k : HopPkt) : Option Sig :=
  if k.dir = 0 ∧ isLeaf s g (myMember s g) = true then i.own else none

/-- A hop packet is sent again: a unit kept it in its slot, a leaf's engine reads the contribution again (R235). -/
def resendHop (h n : W32) (dir : Nat) (k : HopPkt) (s : State) : State :=
  match groupAt s h, instAt s h n with
  | some g, some i =>
    (match leafSig s g i k with
     | none => resendHopWith h n dir k k.pkt.payload s
     | some x =>
       let va := i.contribution.toNat + collBytes x.dtype (1024 * chunkIx x k.chunk)
       match ownChunk s (myMember s g) i x k.chunk with
       | .fault st a => collLocal h n st (BitVec.ofNat 64 a) (badEvent i.fn va (chunkBytes x k.chunk) s)
       | .absent sg ps => askPages ((i.posted.map (queueKs s)).getD 0) 0 i.fn sg va ps (collWaiter h n i) s
       | .ok b => resendHopWith h n dir k (if combines x then accBytes (toAcc x.dtype (chunkLen x k.chunk) b) else b) s)
  | _, _ => s

/-- An ABORT of a destroyed group is sent again, or given up. -/
def resendOrphan (o : Orphan) (s : State) : State :=
  let s := advanceTo (o.hop.sentAt + o.rto) s
  if o.tries ≤ o.hop.tries then { s with coll := { s.coll with orphans := dropFirst o s.coll.orphans } }
  else
    let k := { o.hop with tries := o.hop.tries + 1, sentAt := s.now }
    let s := { s with coll := { s.coll with orphans := modFirst (fun x => x == o) (fun x => { x with hop := k }) s.coll.orphans } }
    sendTree o.dir 0 { o.hop.pkt with retx := true } (bump 0x9043 8 1 s)

/-- TREE_HOP_TIMEOUT: the packet is named by its neighbour, its chunk and its direction; a control packet by 2^32 and its
code. -/
def execTreeHopTimeout (group inst : W32) (member : Nat) (chunk : Nat) (down : Bool) (s : State) :
    Host.Outcome State Fault Refusal :=
  .next (
    match groupAt s group with
    | none => (match (s.coll.orphans.filter (fun o =>
        o.handle == group && o.inst == inst && o.hop.member == member && o.hop.chunk == chunk)).head? with
      | some o => resendOrphan o s
      | none => s)
    | some g => match instOf g inst with
      | none => s
      | some i =>
        let kind := if 2 ^ 32 ≤ chunk then 2 else b2n down
        match (i.hops.filter (fun k => k.member == member && k.chunk == chunk && k.dir == kind)).head? with
        | none => s
        | some k =>
          let s := advanceTo (k.sentAt + i.rto) s
          if i.hopTries ≤ k.tries then
            let s := dropHop group inst member chunk kind s
            if kind = 2 then s
            else unitAbort group inst (myMember s g) stCollAborted 0 (ownId s) s
          else match edgeDir s g member with
            | some d => resendHop group inst d k s
            | none => s)

/-! ## The tie path (R244, R245) -/

/-- A tie frame at the lane. -/
def tieIn (link : Nat) (p : Packet) (s : State) : State :=
  match p.ext with
  | .tie down member h n op red dt el =>
    let s := takeInLink link p s
    if refusesAll s then s else
    (match groupAt s h with
     | none => bump 0x9043 0x0A 1 s
     | some g => match edgeMember s g link with
       | none => bump 0x9043 0x0A 1 s
       | some from_ =>
         let me := myMember s g
         if down != (parentOf s g me == some from_) then bump 0x9043 0x0A 1 s
         else
           let held := (instOf g n).isSome
           if !held && (instOld g n || instAhead g n) then s
           else
             let s := holdInst h n .tie s
             match instAt s h n with
             | none => s
             | some i =>
               let key := 2 * from_ + b2n down
               if i.tieSeen.contains key then bump 0x9043 9 1 s
               else
                 let s := modInst h n (fun i => { i with tieSeen := key :: i.tieSeen }) s
                 if i.aborted.isSome then s else
                 let x : Sig := { op := op, red := red, dtype := dt, elements := el }
                 let data := isData s g from_ x 0 member p.payload
                 let r := if down then takeDown h n x member 0 p.payload s
                   else takeUp h n from_ member (packetSig x member data p.payload) 0 (accOfBytes p.payload) p.payload data s
                 goOn h n r.2)
  | _ => s

/-- TIE_RECEIVE (R244). -/
def execTieReceive (link : Nat) (p : Packet) (s : State) : Host.Outcome State Fault Refusal :=
  .next (if p.ptype = .tie then tieIn link p s else s)

/-- A posted instance that has not completed here. -/
def postedInst (s : State) (h n : W32) : Option Inst :=
  match instAt s h n with
  | some i => if i.entry.isSome && !i.done && i.aborted.isNone then some i else none
  | none => none

/-- TIE_TIMEOUT (R245). -/
def execTieTimeout (group inst : W32) (s : State) : Host.Outcome State Fault Refusal :=
  .next (match postedInst s group inst, groupAt s group with
    | some i, some g =>
      if i.mode = .tie then
        collAbort group inst (myMember s g) stCollAborted 0 0 none (advanceTo (i.takenAt + i.tieTime) s)
      else s
    | _, _ => s)

/-- COLL_GIVE_UP (R242). -/
def execCollGiveUp (group inst : W32) (s : State) : Host.Outcome State Fault Refusal :=
  .next (match postedInst s group inst, groupAt s group with
    | some i, some g => collAbort group inst (myMember s g) stCollAborted 0 0 none (advanceTo (i.takenAt + i.giveUp) s)
    | _, _ => s)

/-! ## The fallback ring's packets (R231, R241) -/

/-- Admission of a ring packet: the group's checks stand in for checks 3 to 8. -/
def ringAdmit (p : Packet) (s : State) : Verdict × State :=
  match p.ext with
  | .coll h n _ _ _ _ _ _ off _ =>
    (match groupAt s h with
     | none => (.refused stRemoteAccess, bump 0x9043 0x0A 1 s)
     | some g =>
       if fnStopped s g.vdev then (.notReady 3 0, s)
       else match instOf g n with
         | none => if instOld g n || off == ctlOffset then (.admitted, s) else (.notReady 1 0, s)
         | some i => if i.own.isNone && i.aborted.isNone && off != ctlOffset then (.notReady 1 0, s) else (.admitted, s))
  | _ => (.admitted, s)

/-- An admitted ring packet is noted, its packet done, and the instance goes on; the member is on the ring from now on. -/
def ringExec (p : Packet) (s : State) : State :=
  let done := packetDone (ctxPeer p) p.seq p.ackReq
  match p.ext with
  | .coll h n op red dt _ down el off mem =>
    let s := done s
    (match groupAt s h with
     | none => s
     | some g =>
       if off = ctlOffset then
         if ctlCode p ≠ 3 || ((instOf g n).isNone && (instOld g n || instAhead g n)) then s
         else
           let s := holdInst h n .ring s
           let who := if ctlStatus p = stSignature then ctlCulprit p else mem
           let sender := ((setMembers g (myMember s g)).filter (fun m => memberId s g m == p.src)).head?
           let s := modInst h n (fun i => if i.done || i.aborted.isSome then i else { i with mode := .ring }) s
           collAbort h n mem (ctlStatus p) (ctlCulprit p) (memberId s g who) sender s
       else match instOf g n with
         | none => s
         | some i =>
           if (i.done && i.mode != .ring) || i.aborted.isSome then s
           else
             let x : Sig := { op := op, red := red, dtype := dt, elements := el, root := (instSig i).root }
             if x ≠ instSig i then
               collAbort h n (myMember s g) stSignature mem (memberId s g mem) none (bump 0x9043 4 1 s)
             else
               let s := if i.mode = .ring then s
                 else modInst h n (fun i => { i with mode := .ring, chunks := [], hops := i.hops.filter (fun k => k.dir == 2) }) (releaseSlots h n s)
               let key := ringKey down off
               let s := modInst h n (fun i =>
                 if i.ringWritten.contains key then i else { i with ringGot := tset i.ringGot key p.payload }) s
               goOn h n s)
  | _ => done s

end Sys2Proof.Machine
end

