-- ==== Sys2Proof/Machine/Tiles.lean ====
section
/-! DEFINITION. Tile commands as the dispatcher sees them (R251, R252, R254 to R260): fields, validity, local ranges, the
conditions on which each starts. -/

namespace Sys2Proof.Machine

open Sys2Proof

/-! ## Fields -/

def tCode (c : W128) : Nat := cf c 0 6
def tSync (c : W128) : Bool := cf c 6 1 == 1
/-- LOADW, ACC and EPILOGUE name one engine. -/
def tEngine (c : W128) : Nat := cf c 8 3
/-- Rows R of STREAM, ACC and EPILOGUE. -/
def tRows (c : W128) : Nat := cf c 24 8 + 1

/-- The fields that a command's map names: first bit and width (R252: every other bit is 0). -/
def tileFields (code : Nat) : List (Nat × Nat) :=
  match code with
  | 1 => [(8, 3), (11, 1), (12, 4), (16, 1), (17, 1), (32, 25), (64, 25), (96, 25)]
  | 2 => [(8, 8), (16, 1), (17, 1), (18, 4), (22, 1), (24, 8), (32, 25), (64, 16), (80, 8), (96, 25)]
  | 3 => [(8, 3), (11, 3), (14, 3), (17, 1), (24, 8), (32, 8), (64, 25)]
  | 4 => [(8, 3), (11, 3), (14, 4), (18, 1), (19, 1), (20, 1), (21, 1), (24, 8), (32, 8), (40, 16), (64, 25), (96, 25)]
  | 5 => [(8, 24), (32, 46), (78, 46)]
  | 6 => [(8, 6), (14, 3), (17, 1), (18, 1), (19, 1), (32, 25), (64, 25), (96, 32)]
  | 7 => [(8, 1), (16, 6), (32, 16)]
  | 8 => [(8, 2), (16, 12), (32, 9), (48, 16)]
  | _ => [(16, 16)]

/-- The command with its named fields alone. -/
def tileNamed (c : W128) : Nat :=
  ((0, 7) :: tileFields (tCode c)).foldl (fun v f => v + cf c f.1 f.2 * 2 ^ f.1) 0

/-- The engines of a command: those of the mask, or the one it names. -/
def tEngines (c : W128) : List Nat :=
  match tCode c with
  | 1 => [tEngine c]
  | 2 => bitsOf (cf c 8 8) 8
  | 3 => [tEngine c]
  | _ => []

/-- An MX output of EPILOGUE takes a pair of engines (R257). -/
def epiMx (c : W128) : Bool := fmtMx (cf c 14 4)
def epiEngines (c : W128) : List Nat := if epiMx c then [tEngine c, tEngine c + 1] else [tEngine c]
/-- Bytes of an EPILOGUE's output row, and from row to row. -/
def epiRow (c : W128) : Nat := rowBytes (cf c 14 4) (if epiMx c then 32 else 16)
def epiStep (c : W128) : Nat := if cf c 40 16 = 0 then epiRow c else cf c 40 16

/-- A weight slot of an engine. -/
def slotOf (s : State) (core e n : Nat) : Option WSlot :=
  let g := tget {} (coreOf s core).engines e
  if n = 0 then g.slot0 else g.slot1

/-- K of a STREAM's rows: 64 against sparse tiles (R255). -/
def streamK (s : State) (core : Nat) (c : W128) : Nat :=
  match (tEngines c).head? with
  | some e => (match slotOf s core e (cf c 16 1) with
    | some w => if w.sparse then 64 else 32
    | none => 32)
  | none => 32
def streamRow (s : State) (core : Nat) (c : W128) : Nat := rowBytes (cf c 18 4) (streamK s core c)
def streamStep (s : State) (core : Nat) (c : W128) : Nat := if cf c 64 16 = 0 then streamRow s core c else cf c 64 16

/-! ## Addresses of MOVE (R258) -/

def mvSpace (a : Nat) : Nat := a / 2 ^ 44 % 4
/-- No bit is set that the space does not name. -/
def mvAddrOk (a : Nat) : Bool :=
  match mvSpace a with
  | 0 => decide (a % 2 ^ 44 < 2 ^ 22)
  | 1 => decide (a % 2 ^ 44 < 2 ^ 25)
  | 2 => true
  | _ => decide (a % 2 ^ 44 < 2 ^ 31)
def mvSrc (c : W128) : Nat := cf c 32 46
def mvDst (c : W128) : Nat := cf c 78 46
def mvLen (c : W128) : Nat := cf c 8 24 + 1

/-! ## The route of a SEND (R269, R270) -/

def routeOf (s : State) (core n : Nat) : List Byte := mreadN (coreOf s core).routes (32 * n) 32

def sendRouteOk (r : List Byte) (c : W128) : Bool :=
  let kind := cf c 14 3
  let len := cf c 64 25
  !(bitOf (routeF r 4 4) 23) && !(bitOf (routeF r 4 4) 30) && routeF r 12 4 == 0 && idValid (routeDest r) &&
  (if kind = 1 ∨ kind = 3 then routeSignal r != 0 && sigOk (routeSignal r) else true) &&
  (if kind = 3 then len == 0 else decide (1 ≤ len) && decide (len ≤ 2 ^ 24)) &&
  (if kind = 2 ∨ kind = 3 then routeF r 8 4 == 0 && (routeF r 16 8 + cf c 96 32) % 2 ^ 64 == 0 else true)

/-! ## Validity (R252 and the maps) -/

/-- Whether INT8 meets INT8, BF16 meets BF16, MX meets MX (R255). -/
def pairOk (a w : Nat) : Bool := if a < 2 ∨ w < 2 then a == w else true

def streamOk (s : State) (core : Nat) (c : W128) : Bool :=
  let es := tEngines c
  let a := cf c 18 4
  let step := cf c 64 16
  !es.isEmpty && decide (a ≤ 6) && decide (cf c 32 25 % 32 = 0) && decide (cf c 80 8 + tRows c ≤ 256) &&
  es.all (fun e => match slotOf s core e (cf c 16 1) with
    | some w => pairOk a w.fmt && (if w.sparse then 64 else 32) == streamK s core c
    | none => false) &&
  (step == 0 || (decide (streamRow s core c ≤ step) && decide (step % 32 = 0)))

def tileValid (s : State) (core : Nat) (c : W128) : Bool :=
  decide (1 ≤ tCode c) && decide (tCode c ≤ 9) && tileNamed c == c.toNat &&
  (match tCode c with
   | 1 =>
     let w := cf c 12 4
     let sp := cf c 16 1 == 1
     decide (w ≤ 6) && !(sp && w == 1) && cf c 32 25 % 64 == 0 && cf c 64 25 % 16 == 0 && cf c 96 25 % 64 == 0 &&
     (fmtMx w || cf c 64 25 == 0) && (sp || cf c 96 25 == 0)
   | 2 => streamOk s core c
   | 3 =>
     let op := cf c 11 3
     decide (op ≤ 3) && (op != 3 || cf c 14 3 != tEngine c) && decide (cf c 32 8 + tRows c ≤ 256) &&
     (!(op == 1 || op == 2) || cf c 64 25 % 64 == 0)
   | 4 =>
     let o := cf c 14 4
     decide (cf c 11 3 ≤ 4) && decide (o ≤ 7) && !(epiMx c && tEngine c % 2 == 1) && !(cf c 18 1 == 1 && o == 7) &&
     decide (cf c 32 8 + tRows c ≤ 256) && cf c 64 25 % 32 == 0 && cf c 96 25 % 64 == 0
   | 5 => mvAddrOk (mvSrc c) && mvAddrOk (mvDst c)
   | 6 => decide (cf c 14 3 ≤ 3) && sendRouteOk (routeOf s core (cf c 8 6)) c
   | 7 => decide (1 ≤ cf c 32 16)
   | 8 => decide (cf c 8 2 ≤ 1) && decide (1 ≤ cf c 48 16) && (cf c 8 2 == 1 || decide (cf c 16 12 < 64))
   | _ => true)

/-! ## Local ranges (R252) -/

/-- The ranges of the own scratchpad (space 0) and cluster store (space 1) that a command reads and those it writes. -/
def tileReads (s : State) (core : Nat) (c : W128) : List (Nat × Nat × Nat) :=
  match tCode c with
  | 1 =>
    let w := cf c 12 4
    let sp := cf c 16 1
    [(cf c 17 1, cf c 32 25, 64 * fmtBits w)] ++ (if fmtMx w then [(cf c 17 1, cf c 64 25, 16 * (sp + 1))] else []) ++
    (if sp = 1 then [(cf c 17 1, cf c 96 25, 128)] else [])
  | 2 =>
    [(cf c 22 1, cf c 32 25, (tRows c - 1) * streamStep s core c + streamRow s core c)] ++
    (if fmtMx (cf c 18 4) then [(cf c 22 1, cf c 96 25, tRows c * (streamK s core c / 32))] else [])
  | 3 => if cf c 11 3 = 1 then [(cf c 17 1, cf c 64 25, 64 * tRows c)] else []
  | 4 => [(0, cf c 96 25, 128)]
  | 5 => if mvSpace (mvSrc c) < 2 then [(mvSpace (mvSrc c), mvSrc c % 2 ^ 44, mvLen c)] else []
  | 6 => if cf c 64 25 = 0 then [] else [(cf c 19 1, cf c 32 25, cf c 64 25)]
  | _ => []

def tileWrites (c : W128) : List (Nat × Nat × Nat) :=
  match tCode c with
  | 3 => if cf c 11 3 = 2 then [(cf c 17 1, cf c 64 25, 64 * tRows c)] else []
  | 4 =>
    [(cf c 21 1, cf c 64 25,
      if epiMx c then tRows c * epiStep c + tRows c else (tRows c - 1) * epiStep c + epiRow c)]
  | 5 => if mvSpace (mvDst c) < 2 then [(mvSpace (mvDst c), mvDst c % 2 ^ 44, mvLen c)] else []
  | _ => []

def spaceSize (space : Nat) : Nat := if space = 0 then 2 ^ 22 else 2 ^ 25
/-- An address of a space in the control unit's map (R250). -/
def mapAddr (space off : Nat) : Nat := (if space = 0 then 0x10000000 else 0x20000000) + off
/-- The memory that a space's offset lies in. -/
def spaceMem (core space off : Nat) : MemId × Nat :=
  if space = 0 then (.scratch, scratchBase core + off) else (.cluster, clusterBase (coreCluster core) + off)

/-- The first byte of a command's local ranges outside its space, in the control unit's map (R262). -/
def tileOutside (s : State) (core : Nat) (c : W128) : Option Nat :=
  ((tileReads s core c ++ tileWrites c).filter (fun r => decide (spaceSize r.1 < r.2.1 + r.2.2))).head?.map
    (fun r => mapAddr r.1 (max r.2.1 (spaceSize r.1)))

/-- Every bank of the own scratchpad that the command uses is on (R266). -/
def tileBanksOn (s : State) (core : Nat) (c : W128) : Bool :=
  (tileReads s core c ++ tileWrites c).all (fun r => r.1 != 0 || rangeOn s core r.2.1 r.2.2)
def tileWake (core : Nat) (c : W128) (s : State) : State :=
  foldS (fun r t => if r.1 = 0 then wakeRange core r.2.1 r.2.2 t else t) (tileReads s core c ++ tileWrites c) s

/-- The first uncorrectable byte that a command would read: memory number, address in the control unit's map. -/
def tileBad (s : State) (core : Nat) (c : W128) : Option (Nat × Nat) :=
  ((tileReads s core c).filterMap (fun r =>
    let m := spaceMem core r.1 r.2.1
    (badIn m.1 m.2 r.2.2 s).map (fun a => (memCode m.1, mapAddr r.1 (r.2.1 + (a - m.2)))))).head?

/-! ## Units and starting (R251, R217) -/

/-- The units whose order a command keeps: engines 0 to 7, 8 epilogue, 9 mover, 10 doorway, 11 semaphore block, and 13 for PHASE,
which takes effect in dispatch order (R260). -/
def orderUnits (c : W128) : List Nat :=
  match tCode c with
  | 4 => [8] | 5 => [9] | 6 => [10] | 7 => [11] | 8 => [11] | 9 => [13] | _ => tEngines c

/-- The units a command occupies until it finishes: as above, with 12 + e the weight loader of engine e. -/
def busyUnits (c : W128) : List Nat :=
  match tCode c with
  | 1 => [12 + tEngine c] | 4 => [8] | 5 => [9] | 6 => [] | 7 => [11] | 8 => [] | 9 => [] | _ => tEngines c

/-- No command of an engine is under way or queued ahead. -/
def engineDone (k : Core) (pre : List W128) (e : Nat) : Bool :=
  k.running.all (fun r => r.unit != e && r.unit != 12 + e) && pre.all (fun p => !((tEngines p).contains e))

/-- The command writes memory, so that an increment waits for it (R217). -/
def writesMem (c : W128) : Bool := tCode c == 5 || tCode c == 4 || (tCode c == 3 && cf c 11 3 == 2)

/-- The unit is ready for the command. -/
def unitReady (k : Core) (pre : List W128) (c : W128) : Bool :=
  let free (u : Nat) : Bool := k.running.all (fun r => r.unit != u)
  match tCode c with
  | 1 => free (12 + tEngine c) && k.running.all (fun r => !(r.unit == tEngine c && tCode r.cmd == 2 && cf r.cmd 16 1 == cf c 11 1))
  | 2 => (tEngines c).all (fun e => k.running.all (fun r => !(r.unit == 12 + e && cf r.cmd 11 1 == cf c 16 1)))
  | 3 => engineDone k [] (tEngine c) && (cf c 11 3 != 3 || engineDone k pre (cf c 14 3))
  | 4 => free 8 && (epiEngines c).all (engineDone k pre)
  | 5 => free 9
  | 6 => decide (k.door.length < 64)
  | 8 => free 11 && !(pre.any writesMem) && !(k.running.any (fun r => writesMem r.cmd))
  | 9 => true
  | _ => free 11

/-- The LAUNCH still issues commands on its cores: none of them has faulted (R207), and the core has its clock. -/
def issuing (s : State) (core : Nat) : Bool :=
  !s.power.aClocksStopped && !(coreOf s core).clockOff &&
  (match launchOf s core with
   | some l => l.fault.isNone
   | none => false) &&
  (match (coreOf s core).st with
   | .running => true
   | .blocked => true
   | .ended => true
   | _ => false)

/-- A queued command may start, `pre` being those queued ahead of it. -/
def canStart (k : Core) (pre : List W128) (c : W128) : Bool :=
  pre.all (fun p => tCode p != 7 && !(tCode p == 6 && decide (64 ≤ k.door.length)) &&
    (orderUnits p).all (fun u => !((orderUnits c).contains u))) &&
  k.running.all (fun r => tCode r.cmd != 7) &&
  (!(tSync c) || (pre.isEmpty && k.running.isEmpty)) && unitReady k pre c

/-- The first queued command of a code that may start, with those ahead and behind. -/
def findStart (k : Core) (code : Nat) (pre : List W128) : List W128 → Option (List W128 × W128 × List W128)
  | [] => none
  | c :: rest => if tCode c = code ∧ canStart k pre c = true then some (pre, c, rest) else findStart k code (pre ++ [c]) rest

/-- A trap: the core halts and its LAUNCH fails (R262). -/
def trapCore (core cause status result : Nat) (s : State) : State :=
  haltCore core cause status (BitVec.ofNat 64 result) s

/-- The command leaves the queue; a stalled store to CMD1 takes the place it frees (R250). -/
def dequeue (core : Nat) (pre post : List W128) (s : State) : State :=
  modCore core (fun k => match k.stalled with
    | some c => { k with cmdq := pre ++ post ++ [c], stalled := none }
    | none => { k with cmdq := pre ++ post }) s

/-- What the dispatcher finds wrong with a command, `pre` being those queued ahead: trap cause and address (R252, R262). A
STREAM behind a LOADW may still find its slot loaded. -/
def dispatchTrap (s : State) (core : Nat) (pre : List W128) (c : W128) : Option (Nat × Nat) :=
  if tCode c == 2 && pre.any (fun p => tCode p == 1) then none
  else if !(tileValid s core c) then some (3, (coreOf s core).pc.toNat)
  else (tileOutside s core c).map (fun a => (2, a))

/-- The first queued command that traps at dispatch, none where a WAIT or a SEND that the doorway has no room for keeps it from
dispatch (R251). -/
def queuedTrap (s : State) (core : Nat) (pre : List W128) : List W128 → Option (Nat × Nat)
  | [] => none
  | c :: rest =>
    match dispatchTrap s core pre c with
    | some t => some t
    | none =>
      if tCode c = 7 ∨ (tCode c = 6 ∧ 64 ≤ (coreOf s core).door.length) then none else queuedTrap s core (pre ++ [c]) rest

/-- Start the first command of a code that may start: it traps, or holds for a bank, or leaves the queue and acts. None starts
past a queued command that traps at dispatch (R252). -/
def startTile (code core : Nat) (act : W128 → State → State) (s : State) : State :=
  if !(issuing s core) then s else
  match findStart (coreOf s core) code [] (coreOf s core).cmdq with
  | none => s
  | some (pre, c, post) =>
    if (queuedTrap s core [] pre).isSome then s
    else if !(tileValid s core c) then trapCore core 3 stLocalAccess (coreOf s core).pc.toNat s
    else match tileOutside s core c with
      | some a => trapCore core 2 stLocalAccess a s
      | none =>
        if !(tileBanksOn s core c) then tileWake core c s else
        match tileBad s core c with
        | some (m, a) =>
          trapCore core 8 stMemory a (memEvent (coreEventFn s core) m 0 a s)
        | none =>
          let s := dequeue core pre post s
          let s := modCore core (fun k => { k with
            running := k.running ++ (busyUnits c).map (fun u => { unit := u, cmd := c })
            enginesGated := k.enginesGated.filter (fun e => !((busyUnits c).contains e)) }) s
          act c s

end Sys2Proof.Machine
end

