-- ==== Sys2Proof/Machine/TileExec.lean ====
section
/-! DEFINITION. What each tile command does when it starts (R254 to R260, R279 to R288): LOADW, STREAM, ACC, EPILOGUE,
MOVE, SEND, WAIT, SIGNAL, PHASE. -/

namespace Sys2Proof.Machine

open Sys2Proof

/-- Bytes of a space. -/
def spaceRead (s : State) (core space off n : Nat) : List Byte :=
  memRead (spaceMem core space off).1 (spaceMem core space off).2 n s
def spaceWrite (core space off : Nat) (b : List Byte) (s : State) : State :=
  memWrite (spaceMem core space off).1 (spaceMem core space off).2 b s

def modEngine (core e : Nat) (g : Engine → Engine) (s : State) : State :=
  modCore core (fun k => { k with engines := tset k.engines e (g (tget {} k.engines e)) }) s
def accOf (s : State) (core e : Nat) : Table W32 := (tget {} (coreOf s core).engines e).acc
/-- Accumulator row `r`, column `j`. -/
def accAt (a : Table W32) (r j : Nat) : W32 := tget 0 a (r * 16 + j)

/-! ## LOADW (R254) -/

def doLoadw (core : Nat) (c : W128) (s : State) : State :=
  let w := cf c 12 4
  let sp := cf c 16 1 == 1
  let x := cf c 17 1
  let tile : WSlot :=
    { fmt := w, sparse := sp, values := spaceRead s core x (cf c 32 25) (64 * fmtBits w)
      scales := if fmtMx w then spaceRead s core x (cf c 64 25) (if sp then 32 else 16) else []
      meta_ := if sp then spaceRead s core x (cf c 96 25) 128 else [] }
  modEngine core (tEngine c) (fun g =>
    if cf c 11 1 = 0 then { g with slot0 := some tile } else { g with slot1 := some tile }) s

/-- LOADW. -/
def execLoadw (core : Nat) (s : State) : Host.Outcome State Fault Refusal := .next (startTile 1 core (doLoadw core) s)

/-! ## STREAM (R255, R279, R283) -/

/-- Stored weight row `r` of column `j`, with its scale. -/
def weightAt (w : WSlot) (v sc : Nat) (r j : Nat) : EngNum :=
  let x := ofElem w.fmt (codeAt (fmtBits w.fmt) v (r * 16 + j))
  if fmtMx w.fmt then scaled x (codeAt 8 sc ((if w.sparse then r / 16 else 0) * 16 + j)) else x

/-- The activation elements of a row, with their scales. -/
def actRow (fmt k v sc : Nat) : List EngNum :=
  (rangeFrom 0 k).map (fun i =>
    let x := ofElem fmt (codeAt (fmtBits fmt) v i)
    if fmtMx fmt then scaled x (codeAt 8 sc (i / 32)) else x)

/-- A block product of an INT8 tile is an integer, and no integer is −0 (R281). -/
def blockOf (w : WSlot) (acts ws : List EngNum) : W32 :=
  let p := blockProduct acts ws
  if w.fmt = 0 ∧ p = 0x80000000 then 0 else p

/-- The block products of one activation row with column `j` of a tile, in block order. -/
def rowProducts (w : WSlot) (acts : List EngNum) (j : Nat) : List W32 :=
  let v := leNat w.values
  let sc := leNat w.scales
  let mt := leNat w.meta_
  if w.sparse then
    [0, 1].map (fun b =>
      blockOf w ((rangeFrom (16 * b) 16).map (fun r => (acts.drop (4 * (r / 2) + codeAt 2 mt (16 * r + j))).headD .nan))
        ((rangeFrom (16 * b) 16).map (fun r => weightAt w v sc r j)))
  else [blockOf w acts ((rangeFrom 0 32).map (fun r => weightAt w v sc r j))]

/-- The accumulator value after a row's block products. -/
def accumulate (add : Bool) (old : W32) (ps : List W32) : W32 :=
  match ps with
  | [] => old
  | p :: rest => rest.foldl fpAdd (if add then fpAdd old p else p)

/-- One engine's accumulator after the rows of a STREAM. -/
def streamEngine (c : W128) (w : WSlot) (rows : List (Nat × List EngNum)) (a : Table W32) : Table W32 :=
  rows.foldl (fun a row =>
    (rangeFrom 0 16).foldl (fun a j =>
      let k := (cf c 80 8 + row.1) * 16 + j
      tset a k (accumulate (cf c 17 1 == 1) (tget 0 a k) (rowProducts w row.2 j))) a) a

def doStream (core : Nat) (c : W128) (s : State) : State :=
  let k := streamK s core c
  let x := cf c 22 1
  let fmt := cf c 18 4
  let rows := (rangeFrom 0 (tRows c)).map (fun i =>
    let v := leNat (spaceRead s core x (cf c 32 25 + i * streamStep s core c) (streamRow s core c))
    let sc := if fmtMx fmt then leNat (spaceRead s core x (cf c 96 25 + i * (k / 32)) (k / 32)) else 0
    (i, actRow fmt k v sc))
  foldS (fun e t =>
    match slotOf t core e (cf c 16 1) with
    | some w => modEngine core e (fun g => { g with acc := streamEngine c w rows g.acc }) t
    | none => t) (tEngines c) s

/-- STREAM. -/
def execStream (core : Nat) (s : State) : Host.Outcome State Fault Refusal := .next (startTile 2 core (doStream core) s)

/-! ## ACC (R256, R282) -/

/-- Set accumulator rows from `base`, `R` of them, each value by row and column. -/
def setRows (base n : Nat) (f : Nat → Nat → W32) (a : Table W32) : Table W32 :=
  (rangeFrom 0 n).foldl (fun a i => (rangeFrom 0 16).foldl (fun a j => tset a ((base + i) * 16 + j) (f i j)) a) a

/-- The bytes of accumulator rows. -/
def rowsBytes (a : Table W32) (base n : Nat) : List Byte :=
  ((rangeFrom 0 n).map (fun i => ((rangeFrom 0 16).map (fun j => leBytes 4 (accAt a (base + i) j).toNat)).flatten)).flatten

def doAcc (core : Nat) (c : W128) (s : State) : State :=
  let e := tEngine c
  let base := cf c 32 8
  let n := tRows c
  let x := cf c 17 1
  match cf c 11 3 with
  | 0 => modEngine core e (fun g => { g with acc := setRows base n (fun _ _ => 0) g.acc }) s
  | 1 =>
    let v := leNat (spaceRead s core x (cf c 64 25) (64 * n))
    modEngine core e (fun g => { g with acc := setRows base n (fun i j => BitVec.ofNat 32 (codeAt 32 v (16 * i + j))) g.acc }) s
  | 2 => spaceWrite core x (cf c 64 25) (rowsBytes (accOf s core e) base n) s
  | _ =>
    let o := accOf s core (cf c 14 3)
    let sum (a : Table W32) : Table W32 := setRows base n (fun i j => fpAdd (accAt a (base + i) j) (accAt o (base + i) j)) a
    modEngine core e (fun g => { g with acc := sum g.acc }) s

/-- ACC. -/
def execAcc (core : Nat) (s : State) : Host.Outcome State Fault Refusal := .next (startTile 3 core (doAcc core) s)

/-! ## EPILOGUE (R257, R284 to R288) -/

/-- Scale, bias and function of one accumulator value of column `j`. -/
def epiValue (c : W128) (vec : Nat) (j : Nat) (x : W32) : W32 :=
  let x := if cf c 19 1 = 1 then fpMul x (BitVec.ofNat 32 (codeAt 32 vec (j % 16))) else x
  let x := if cf c 20 1 = 1 then fpAdd x (BitVec.ofNat 32 (codeAt 32 vec (16 + j % 16))) else x
  epiFunc (cf c 11 3) x

/-- The values of an output row. -/
def epiValues (s : State) (core : Nat) (c : W128) (vec i : Nat) : List W32 :=
  ((epiEngines c).map (fun e =>
    (rangeFrom 0 16).map (fun j => epiValue c vec j (accAt (accOf s core e) (cf c 32 8 + i) j)))).flatten

/-- The rounding of the element that is draw `d` of a seeded generator: to nearest even, or by the generator (R288). -/
def epiShift (c : W128) (seed : BitVec 64) (d : Nat) : Nat → Nat → Nat :=
  if cf c 18 1 = 1 then stochShift (Config.roundDraw seed d).toNat else rneShift

/-- The code of one value in a format that is no MX format. -/
def epiCode (fmt : Nat) (sh : Nat → Nat → Nat) (x : W32) : Nat :=
  match fmt with
  | 0 => toTwos 8 (toSigned sh 8 (ofFp32 x))
  | 1 => toBf16 sh (ofFp32 x)
  | _ => x.toNat

def doEpilogue (core : Nat) (c : W128) (s : State) : State :=
  let fmt := cf c 14 4
  let mx := epiMx c
  let w := if mx then 32 else 16
  let vec := leNat (spaceRead s core 0 (cf c 96 25) 128)
  let rows := (rangeFrom 0 (tRows c)).map (fun i =>
    let xs := epiValues s core c vec i
    let shs := (rangeFrom 0 w).map (fun j => epiShift c (coreOf s core).rngSeed ((coreOf s core).rngDraws + i * w + j))
    if mx then mxQuantise fmt (xs.map ofFp32) shs
    else (0, List.zipWith (fun x sh => epiCode fmt sh x) xs shs))
  let s := if cf c 18 1 = 1 then modCore core (fun k => { k with rngDraws := k.rngDraws + tRows c * w }) s else s
  let s := foldS (fun (p : Nat × (Nat × List Nat)) t =>
      spaceWrite core (cf c 21 1) (cf c 64 25 + p.1 * epiStep c) (leBytes (epiRow c) (packCodes (fmtBits fmt) p.2.2)) t)
    (List.zip (rangeFrom 0 (tRows c)) rows) s
  if mx then
    spaceWrite core (cf c 21 1) (cf c 64 25 + tRows c * epiStep c) (rows.map (fun r => BitVec.ofNat 8 r.1)) s
  else s

/-- EPILOGUE. -/
def execEpilogue (core : Nat) (s : State) : Host.Outcome State Fault Refusal := .next (startTile 4 core (doEpilogue core) s)

/-! ## MOVE (R258, R262, R302, R303) -/

/-- Where one side of a MOVE lies, or why it cannot go on: cause, status and faulting address. -/
inductive MoveEnd where
  | mem (m : MemId) (addr : Nat)
  | seg (fn seg off : Nat)
  | absent (fn seg va : Nat) (pages : List Nat)
  | trap (cause status addr : Nat)
deriving DecidableEq, Repr

/-- The trap cause of a translation's status (R273). -/
def moveCause (st : Nat) : Nat :=
  if st = stTranslation then 7 else if st = stMemory then 8 else if st = stHostLost then 9 else 2

def moveEnd (s : State) (core a n : Nat) (wr : Bool) : MoveEnd :=
  let off := a % 2 ^ 44
  match mvSpace a with
  | 2 =>
    let fn := (coreFn s core).getD 0
    let seg := off / 2 ^ 40
    let o := off % 2 ^ 40
    let g := segOf s fn seg
    if !(segLive g) then .trap 2 stLocalAccess a
    else if segBytes g < o + n then .trap 2 stLocalAccess (segBase g + max o (segBytes g))
    else match xlateSeg s fn seg o n (segBase g + o) wr with
      | .fault st x => .trap (moveCause st) st x
      | .absent _ ps => .absent fn seg (segBase g + o) ps
      | .ok => .seg fn seg o
  | 3 =>
    let k := off / 2 ^ 22
    if (coreFn s core).isNone || coreFn s k != coreFn s core || decide (2 ^ 22 < off % 2 ^ 22 + n) then .trap 2 stLocalAccess a
    else .mem .scratch (scratchBase k + off % 2 ^ 22)
  | x => .mem (spaceMem core x off).1 (spaceMem core x off).2

/-- The bytes of a source, or the first uncorrectable byte of it: memory and address. -/
def moveRead (s : State) (e : MoveEnd) (a n : Nat) : Except (Nat × Nat) (List Byte) :=
  match e with
  | .mem m x => (match badIn m x n s with
    | some b => .error (memCode m, a + (b - x))
    | none => .ok (memRead m x n s))
  | .seg fn g o => (match segBadAt s fn g o n with
    | some (m, x) => .error (m, segBase (segOf s fn g) + x)
    | none => .ok (segRead s fn g o n))
  | _ => .ok []

def moveWrite (e : MoveEnd) (b : List Byte) (s : State) : State :=
  match e with
  | .mem m x => memWrite m x b s
  | .seg fn g o => segWrite fn g o b s
  | _ => s

/-- The pages of a segment side become held, or are let go at the MOVE's end. -/
def moveHold (s : State) (core a n : Nat) (up : Bool) : State :=
  if mvSpace a = 2 then
    let fn := (coreFn s core).getD 0
    let seg := a % 2 ^ 44 / 2 ^ 40
    if (segOf s fn seg).migratory then
      foldS (fun p t => modPage fn seg p (fun x => { x with held := if up then x.held + 1 else x.held - 1 }) t)
        (pagesOf (a % 2 ^ 40) n) s
    else s
  else s

/-- Stamps and cached translations of a segment side (R304, R306). -/
def moveTouch (core : Nat) (e : MoveEnd) (n : Nat) (s : State) : State :=
  match e with
  | .seg fn g o => touchSeg core fn g o n s
  | _ => s

def moveWaits (core : Nat) (w : Bool) (s : State) : State :=
  modCore core (fun k => { k with running := k.running.map (fun r => if r.unit = 9 then { r with waiting := w } else r) }) s

/-- Start or reissue a MOVE, whole: a trap, a wait for pages, or the copy. Its misses go to the walkers of the Keystone that its
cluster's parity names (DESIGN CHOICE, assumption 82). -/
def doMove (core : Nat) (c : W128) (s : State) : State :=
  let n := mvLen c
  let src := moveEnd s core (mvSrc c) n false
  let dst := moveEnd s core (mvDst c) n true
  let ask (e : MoveEnd) (t : State) : State :=
    match e with
    | .absent fn g va ps => askPages (coreCluster core % 2) 1 fn g va ps (.move core) t
    | _ => t
  match src, dst with
  | .trap cause st a, _ => trapCore core cause st a s
  | _, .trap cause st a => trapCore core cause st a s
  | .absent _ _ _ _, _ => ask dst (ask src (moveWaits core true s))
  | _, .absent _ _ _ _ => ask dst (moveWaits core true s)
  | src, dst =>
    match moveRead s src (mvSrc c) n with
    | .error (m, a) => trapCore core 8 stMemory a (memEvent ((coreFn s core).getD 0) m 0 a s)
    | .ok b =>
      let s := moveTouch core dst n (moveTouch core src n (moveWaits core false s))
      let s := moveHold (moveHold s core (mvSrc c) n true) core (mvDst c) n true
      moveWrite dst b s

/-- Both sides of a MOVE in another core's scratchpad need its banks on; the MOVE wakes them (R438). -/
def moveFar (s : State) (c : W128) : List (Nat × Nat) :=
  ([mvSrc c, mvDst c].filter (fun a => mvSpace a == 3)).map (fun a => (a % 2 ^ 44 / 2 ^ 22, a % 2 ^ 22)) |>.filter
    (fun p => !(rangeOn s p.1 p.2 (min (mvLen c) (2 ^ 22 - p.2))))

/-- A MOVE that traps at its addresses (R258, R262). -/
def moveTraps (s : State) (core : Nat) (c : W128) : Bool :=
  let bad (e : MoveEnd) : Bool :=
    match e with
    | .trap _ _ _ => true
    | _ => false
  bad (moveEnd s core (mvSrc c) (mvLen c) false) || bad (moveEnd s core (mvDst c) (mvLen c) true)

/-- MOVE: its addresses are checked first; then it holds for another core's banks that are not on, which it wakes. -/
def execMove (core : Nat) (s : State) : Host.Outcome State Fault Refusal :=
  .next (
    let far := match findStart (coreOf s core) 5 [] (coreOf s core).cmdq with
      | some (pre, c, _) =>
        if tileValid s core c && (tileOutside s core c).isNone && (queuedTrap s core [] pre).isNone && !(moveTraps s core c) then
          (moveFar s c).map (fun p => (p.1, p.2, mvLen c)) else []
      | none => []
    if !(issuing s core) || far.isEmpty then startTile 5 core (doMove core) s
    else foldS (fun p t => wakeRange p.1 p.2.1 (min p.2.2 (2 ^ 22 - p.2.1)) t) far s)

/-! ## SEND (R259, R270, R216) -/

def doDoorway (core : Nat) (c : W128) (s : State) : State :=
  let k := coreOf s core
  let r := routeOf s core (cf c 8 6)
  let m : DoorMsg := { n := k.doorNext, dest := routeDest r, done := if routeDoneEn r then some (routeDoneSem r) else none,
                       fenced := cf c 17 1 == 1 && k.door.any (fun x => x.dest == routeDest r), cmd := c, route := r }
  let s := modCore core (fun k => { k with door := k.door ++ [m], doorNext := k.doorNext + 1 }) s
  if m.fenced then s else sendDoor core m.n s

/-- SEND: one message passes to the doorway. -/
def execDoorwaySend (core : Nat) (s : State) : Host.Outcome State Fault Refusal := .next (startTile 6 core (doDoorway core) s)

/-! ## WAIT, SIGNAL and PHASE (R204 to R208, R217, R260) -/

/-- A take below zero (R207): not applied; the core halts, the event is raised and counted. -/
def semUnderflow (core sem : Nat) (s : State) : State :=
  let pc := (coreOf s core).pc.toNat
  let qp := semEventQp s core
  let s := haltCore core 1 stUnderflow 0 s
  raiseEvent (coreEventFn s core) 0x21 0x51 (ownId s) qp (core + sem * 65536) pc (bump 0x9060 1 1 s)

/-- The semaphore block has finished with a command. -/
def semFree (core : Nat) (s : State) : State :=
  modCore core (fun k => { k with running := k.running.filter (fun r => r.unit != 11) }) s

def doWait (core : Nat) (c : W128) (s : State) : State :=
  let sem := cf c 16 6
  let n := cf c 32 16
  if n ≤ semOf s core sem then semFree core (setSem core sem (semOf s core sem - n) s)
  else if cf c 8 1 = 1 then semUnderflow core sem s
  else modCore core (fun k => { k with st := if k.st = .running then .blocked else k.st, waitSem := sem, waitAt := s.now }) s

/-- WAIT: takes, blocks, or underflows. -/
def execWait (core : Nat) (s : State) : Host.Outcome State Fault Refusal := .next (startTile 7 core (doWait core) s)

/-- A blocked WAIT takes its count and the core goes on; a deadlock may be reported again (R205, R215). -/
def execWaitSatisfied (core : Nat) (s : State) : Host.Outcome State Fault Refusal :=
  .next (
    match ((coreOf s core).running.filter (fun r => r.unit == 11 && tCode r.cmd == 7)).head? with
    | none => s
    | some r =>
      let sem := cf r.cmd 16 6
      let n := cf r.cmd 32 16
      if semOf s core sem < n || s.power.aClocksStopped || (coreOf s core).clockOff then s else
      let s := semFree core (setSem core sem (semOf s core sem - n) s)
      let s := modCore core (fun k => { k with st := if k.st = .blocked then .running else k.st, waitAt := s.now }) s
      match (coreOf s core).launch with
      | some id => modLaunch id (fun l => { l with deadlockReported := false }) s
      | none => s)

def doSignal (core : Nat) (c : W128) (s : State) : State :=
  let n := cf c 48 16
  let fn := (coreFn s core).getD 0
  if cf c 8 2 = 1 then counterAdd fn (cf c 16 12) n s
  else
    let t := cf c 32 9
    if t < coresFitted s.part ∧ coreFn s t = coreFn s core ∧ (coreFn s core).isSome = true then semAdd t (cf c 16 12) n s
    else trapCore core 5 stLocalAccess (coreOf s core).pc.toNat (bump 0x9060 5 1 s)

/-- SIGNAL: an increment behind the core's earlier writes. -/
def execSignal (core : Nat) (s : State) : Host.Outcome State Fault Refusal := .next (startTile 8 core (doSignal core) s)

def doPhase (core : Nat) (c : W128) (s : State) : State := modCore core (fun k => { k with phase := cf c 16 16 }) s

/-- PHASE: the core enters the named phase (R424). -/
def execPhase (core : Nat) (s : State) : Host.Outcome State Fault Refusal := .next (startTile 9 core (doPhase core) s)

end Sys2Proof.Machine
end

