-- ==== Sys2Proof/Machine/Launch.lean ====
section
/-! DEFINITION. LAUNCH and the control unit (R250, R262, R266, R268, R272 to R274, R213 to R215), and the register by
which a core's program counter is read. -/

namespace Sys2Proof.Machine

open Sys2Proof

/-! ## LAUNCH -/

def launchCores (e : Entry) : List Nat := rangeFrom (eFirstCore e) (eCoreCount e)

/-- The first named core that the function does not hold. -/
def ungranted (s : State) (fn : Nat) (e : Entry) : Option Nat :=
  ((launchCores e).filter (fun c => coreFn s c != some fn)).head?

/-- A core whose die or cluster is off. -/
def coreAsleep (s : State) (c : Nat) : Bool := coreDark s c || s.power.clustersOff.contains (coreCluster c)

/-- A LAUNCH waits at its queue's head for busy cores and for cores that are off (R272, R438). -/
def launchHold (s : State) (q : QRef) (e : Entry) : Hold :=
  if (ungranted s (queueFn q) e).isSome then .none
  else if (launchCores e).any (fun c => (coreOf s c).launch.isSome || coreAsleep s c) then .head
  else .none

/-- The image's header is one the table of R272 allows. -/
def headerOk (h : List Byte) : Bool :=
  df h 0 4 == 0x4E494D54 && df h 4 2 == 1 && df h 6 2 == 0 && decide (4 ≤ df h 8 4) && decide (df h 8 4 ≤ 65536) &&
  df h 8 4 % 4 == 0 && decide (df h 12 4 < df h 8 4) && (h.drop 16).all (fun b => b == 0)

/-- The range lies in a resident segment of the HBM or LPDDR5X tier with the read right. -/
def imageIn (s : State) (fn va len : Nat) : Bool :=
  match segHolding s fn va len with
  | some i => let g := segOf s fn i
    decide (g.tier < 2) && !g.migratory && g.read
  | none => false

/-- One core starts (R273 steps 1 to 5); the Quoin engine seeds its epilogue unit's generator (R288). -/
def startCore (l : Launch) (code args : List Byte) (entry core : Nat) (s : State) : State :=
  let s := memWrite .istore (istoreBase core) code s
  let s := if args.isEmpty then s else
    memWrite .scratch (scratchBase core + 0x3F0000) args (if bankState s core 15 = 0 then s else bankOn core 15 s)
  drawn <| modCore core (fun k => { k with
    rngSeed := drawOf s, rngDraws := 0
    st := .running, cause := 0, pc := BitVec.ofNat 64 entry
    regs := [(10, BitVec.ofNat 64 (core - l.first)), (11, 0x103F0000), (12, BitVec.ofNat 64 l.count), (13, BitVec.ofNat 64 l.length)]
    reservation := none, cmdq := [], stalled := none, running := [], routes := [], snapshot := k.sems, launch := some l.id
    phase := 0, door := [], clockOff := false }) s

/-- The LAUNCH of an entry whose cores are claimed and not started. -/
def loadingOf (s : State) (q : QRef) (idx : Nat) : Option Launch := ((launchesOf s q idx).filter (fun l => l.loading)).head?

/-- A LAUNCH that is taken claims its cores, with the settings of that moment (R215, R272). -/
def claimLaunch (q : QRef) (idx : Nat) (e : Entry) (s : State) : State :=
  if (loadingOf s q idx).isSome then s else
  let l : Launch :=
    { id := s.compute.nextLaunch, q := q, idx := idx, fn := queueFn q, first := eFirstCore e, count := eCoreCount e
      length := eLength e, loading := true, balance := ledN s 0x5120 1 == 1, mask := BitVec.ofNat 64 (ledN s 0x5120 2)
      window := ledN s 0x5120 3 }
  foldS (fun c t => modCore c (fun k => { k with st := .loading, cause := 0, launch := some l.id }) t) (launchCores e)
    { s with compute := { s.compute with launches := s.compute.launches ++ [l], nextLaunch := l.id + 1 } }

/-- LAUNCH once taken. -/
def startLaunch (q : QRef) (idx : Nat) (e : Entry) (s : State) : State :=
  let fn := queueFn q
  let va := eImm e * 4096
  let n := eLength e
  match ungranted s fn e with
  | some c => complete q idx stLocalAccess (BitVec.ofNat 64 c) 0 s
  | none =>
    let bad := complete q idx stLocalAccess (BitVec.ofNat 64 va) 0 s
    if !(imageIn s fn va 64) then bad else
    match getVa s fn va 64 with
    | .fault st a => complete q idx st (BitVec.ofNat 64 a) 0 (badEvent fn va 64 s)
    | .absent _ _ => bad
    | .ok h =>
      let size := df h 8 4
      if !(headerOk h && imageIn s fn va (64 + size)) then bad else
      match getVa s fn (va + 64) size, getVa s fn (eLocal e) n with
      | .fault st a, _ => complete q idx st (BitVec.ofNat 64 a) 0 (badEvent fn (va + 64) size s)
      | _, .fault st a => complete q idx st (BitVec.ofNat 64 a) 0 (badEvent fn (eLocal e) n s)
      | .absent _ _, _ => bad
      | _, .absent g ps => askPages (queueKs s q) 0 fn g (eLocal e) ps (.entry q idx) (claimLaunch q idx e s)
      | .ok code, .ok args =>
        let s := claimLaunch q idx e (vtouch (ksAgent (queueKs s q)) fn (eLocal e) n (vtouch (ksAgent (queueKs s q)) fn va (64 + size) s))
        match loadingOf s q idx with
        | none => s
        | some l =>
          foldS (startCore l code args (df h 12 4)) (launchCores e) (modLaunch l.id (fun x => { x with loading := false }) s)

/-- Counted when it is taken (R275). -/
def takeLaunch (q : QRef) (idx : Nat) (e : Entry) (s : State) : State := startLaunch q idx e (bump 0x9061 3 1 s)

/-- LAUNCH (R272, R273). One held for a die or cluster that is off has asked for its wake (R438). -/
def execLaunch (q : QRef) (e : Entry) (s : State) : Host.Outcome State Fault Refusal :=
  .next (
    if eOp e ≠ 0x20 then s else
    let s := offer launchHold takeLaunch q e s
    if (queueOf s q).hold = .head ∧ (queueOf s q).heldEntry = some e then
      foldS (fun c t => if coreAsleep t c then wakeCore c t else t) (launchCores e) s
    else s)

/-! ## The control unit's stores, traps and end (R250, R262, R266, R268) -/

/-- The program of a core still runs. -/
def programOn (s : State) (core : Nat) : Bool :=
  issuing s core && (match (coreOf s core).st with
    | .ended => false
    | _ => true)

/-- A store to CMD1 issues a command, or stalls while the queue is full (R250, R251). -/
def issueCmd (core : Nat) (lo hi : W64) (s : State) : State :=
  modCore core (fun k =>
    let c : W128 := hi ++ lo
    if k.cmdq.length < 32 then { k with cmd0 := lo, cmdq := k.cmdq ++ [c] } else { k with cmd0 := lo, stalled := some c }) s

/-- CMD1_WRITE, with the store to CMD0 that may have come before it. -/
def execCmd1Write (core : Nat) (cmd0 : Option W64) (cmd1 : W64) (s : State) : Host.Outcome State Fault Refusal :=
  .next (
    if !(programOn s core) || (coreOf s core).stalled.isSome then s
    else issueCmd core (cmd0.getD (coreOf s core).cmd0) cmd1 s)

/-- A load of the control unit that reads uncorrectable traps (R262, R314). -/
def loadTrap (core addr : Nat) (s : State) : State :=
  trapCore core 8 stMemory addr (memEvent (coreEventFn s core) (if addr < 0x20000000 then 2 else 3) 0 addr s)

/-- A trap of the control unit, or a command that the dispatcher finds invalid or out of its space (R252, R262, R314): 2 address
or alignment, 3 invalid tile command, 4 illegal instruction, 8 uncorrectable read. Other causes arise in commands of their
own. -/
def execCoreTrap (core : Nat) (cause : Nat) (addr : W64) (s : State) : Host.Outcome State Fault Refusal :=
  .next (
    let k := coreOf s core
    let met := if issuing s core && k.running.all (fun r => tCode r.cmd != 7) then queuedTrap s core [] k.cmdq else none
    match cause with
    | 2 =>
      if met = some (2, addr.toNat) ∨ programOn s core = true then trapCore core 2 stLocalAccess addr.toNat s else s
    | 3 => (match met with
      | some (3, a) => trapCore core 3 stLocalAccess a s
      | _ => s)
    | 4 => if programOn s core then trapCore core 4 stLocalAccess k.pc.toNat s else s
    | 8 => if programOn s core then loadTrap core addr.toNat s else s
    | _ => s)

/-- The balance check of a core at its program's end (R214). -/
def balanceCheck (l : Launch) (core : Nat) (s : State) : State :=
  let k := coreOf s core
  let bits := ((rangeFrom 0 64).filter (fun i =>
    bitOf l.mask.toNat i && tget 0 k.sems i != tget 0 k.snapshot i)).foldl (fun v i => v + 2 ^ i) 0
  if !l.balance || bits == 0 then s
  else raiseEvent l.fn 0x22 0 (ownId s) (semEventQp s core) core bits (bump 0x9060 3 1 s)

/-- The ECALL at `pc`: with a7 = 0 the program ends, with another a7 it traps (R268). -/
def ecallAt (core : Nat) (a7 a0 pc : W64) (s : State) : State :=
  let s := modCore core (fun k => { k with pc := pc }) s
  if a7 ≠ 0 then trapCore core 4 stLocalAccess pc.toNat s else
  let s := modCore core (fun k => { k with
    st := .ended, exit := a0.setWidth 32, waitAt := if isBlocked k then k.waitAt else s.now }) s
  match launchOf s core with
  | some l => balanceCheck l core s
  | none => s

/-- ECALL. -/
def execEcall (core : Nat) (a7 a0 pc : W64) (s : State) : Host.Outcome State Fault Refusal :=
  .next (if !(programOn s core) || (coreOf s core).stalled.isSome then s else ecallAt core a7 a0 pc s)

/-! ## A command's finish, and the LAUNCH's (R251, R207, R273) -/

/-- A delivery waits for a bank: an admitted packet not written, or another core's MOVE that writes it. -/
def deliveryWanted (s : State) (core b : Nat) : Bool :=
  s.enpin.adms.any (fun a => !a.written && (match a.tgt with
    | .tier 2 x => padCore x == core && (banksIn (padOff x) a.data.length).contains b
    | _ => false)) ||
  s.compute.cores.any (fun p => (p.2.running.map (fun r => r.cmd) ++ p.2.cmdq).any (fun c =>
    tCode c == 5 && mvSpace (mvDst c) == 3 && mvDst c % 2 ^ 44 / 2 ^ 22 == core &&
    coreFn s p.1 == coreFn s core && (coreFn s core).isSome && (banksIn (mvDst c % 2 ^ 22) (mvLen c)).contains b))

/-- The core's own mover waits for a bank: a MOVE not finished. -/
def moverWanted (s : State) (core b : Nat) : Bool :=
  ((coreOf s core).running.map (fun r => r.cmd) ++ (coreOf s core).cmdq).any (fun c =>
    tCode c == 5 && (tileReads s core c ++ tileWrites c).any (fun r => r.1 == 0 && (banksIn r.2.1 r.2.2).contains b))

/-- A request waits for a bank (R265). -/
def bankWanted (s : State) (core b : Nat) : Bool := deliveryWanted s core b || moverWanted s core b

/-- Starvation episodes whose bank has granted every waiting request are over (R265). -/
def endStarving (core : Nat) (s : State) : State :=
  modCore core (fun k => { k with starving := k.starving.filter (bankWanted s core) }) s

/-- A tile command finishes on its unit (R251): 0 to 7 an engine's rows, 8 epilogue, 9 mover, 12 + e the weight loader of
engine e. A WAIT finishes by WAIT_SATISFIED, and a MOVE that waits for pages does not finish. -/
def execTileCommandFinish (core : Nat) (unit : Nat) (s : State) : Host.Outcome State Fault Refusal :=
  .next (
    if s.power.aClocksStopped then s else
    match ((coreOf s core).running.filter (fun r => r.unit == unit && !r.waiting && unit != 11)).head? with
    | none => s
    | some r =>
      let s := modCore core (fun k => { k with running := dropFirst r k.running }) s
      if unit = 9 then
        endStarving core <| touchCore core (moveHold (moveHold s core (mvSrc r.cmd) (mvLen r.cmd) false) core (mvDst r.cmd) (mvLen r.cmd) false)
      else s)

/-- Everything that R207 lets run to its end has ended on a core. -/
def coreQuiet (s : State) (c : Nat) : Bool :=
  (coreOf s c).door.isEmpty && (coreOf s c).running.all (fun r => r.unit != 9 || r.waiting)

/-- A core has ended and finished every command. -/
def coreFinished (s : State) (c : Nat) : Bool :=
  let k := coreOf s c
  (match k.st with
   | .ended => true
   | _ => false) && k.running.isEmpty && k.cmdq.isEmpty && k.stalled.isNone && k.door.isEmpty

/-- The LAUNCH is over: its cores are free. A core that halted keeps its state and cause. -/
def freeLaunch (l : Launch) (s : State) : State :=
  let s := { s with compute := { s.compute with launches := s.compute.launches.filter (fun x => x.id != l.id) } }
  foldS (fun c t =>
    if (coreOf t c).launch = some l.id then
      modCore c (fun k => { k with
        st := if k.cause = 0 then .idle else .halted, launch := none, running := [], cmdq := [], stalled := none }) t
    else t) (rangeFrom l.first l.count) s

/-- LAUNCH_COMPLETE: OK when every core has ended and finished, or with the first fault's status once transfers and
messages have ended (R273, R262). -/
def execLaunchComplete (launch : Nat) (s : State) : Host.Outcome State Fault Refusal :=
  .next (
    match (s.compute.launches.filter (fun l => l.id == launch)).head? with
    | none => s
    | some l =>
      let cs := rangeFrom l.first l.count
      match l.fault with
      | some (st, r, p) =>
        if !(cs.all (coreQuiet s)) then s
        else if l.gone then freeLaunch l s else complete l.q l.idx st r p (freeLaunch l s)
      | none =>
        if !(cs.all (coreFinished s)) then s
        else if l.gone then freeLaunch l s else completeOk l.q l.idx (freeLaunch l s))

/-! ## The deadlock detector (R213, R215) -/

/-- A core's awaited semaphore is one that a stream or cut-path binding names. -/
def waitBound (s : State) (c : Nat) : Bool :=
  let k := coreOf s c
  s.cut.rules.any (fun p => p.2.enable && cutCore p.2.desc == c && cutSem p.2.desc == k.waitSem) ||
  s.fns.any (fun f => f.2.bindings.any (fun p => p.2.enable && p.2.core == c && p.2.sem == k.waitSem))

/-- Something that could still reach a core is in progress: a message or transfer of its own, an open message for it, or a
request that the cutter has not signalled yet. -/
def coreReached (s : State) (c : Nat) : Bool :=
  let k := coreOf s c
  !k.door.isEmpty || k.running.any (fun r => r.unit == 9) ||
  s.enpin.trackers.any (fun t => (trackerCores t).contains c) ||
  s.cut.rules.any (fun p => p.2.enable && cutCore p.2.desc == c && p.2.reqs.any (fun q => !(isPending q)))

/-- The detector's conditions hold now. -/
def deadlocked (s : State) (l : Launch) : Bool :=
  let cs := rangeFrom l.first l.count
  l.fault.isNone && cs.any (fun c => isBlocked (coreOf s c)) &&
  cs.all (fun c =>
    (match (coreOf s c).st with
     | .ended => true
     | _ => isBlocked (coreOf s c)) &&
    !(isBlocked (coreOf s c) && waitBound s c) && !(coreReached s c))

/-- DEADLOCK_WINDOW_EXPIRY: one record for each 64-core group of the LAUNCH. -/
def execDeadlockWindowExpiry (launch : Nat) (s : State) : Host.Outcome State Fault Refusal :=
  .next (
    match (s.compute.launches.filter (fun l => l.id == launch)).head? with
    | none => s
    | some l =>
      if l.window = 0 || l.deadlockReported || !(deadlocked s l) then s else
      let cs := rangeFrom l.first l.count
      let since := (cs.map (fun c => max (coreOf s c).waitAt (coreOf s c).busyAt)).foldl max 0
      let s := advanceTo (since + l.window) s
      let s := bump 0x9060 4 1 (modLaunch l.id (fun l => { l with deadlockReported := true }) s)
      let g0 := l.first / 64
      let n := (l.first + l.count - 1) / 64 + 1 - g0
      foldS (fun i t =>
        let first := (g0 + i) * 64
        let bits := (cs.filter (fun c => c / 64 == g0 + i && isBlocked (coreOf t c))).foldl (fun v c => v + 2 ^ (c - first)) 0
        raiseEvent l.fn 0x23 (i + (n - 1) * 16) (ownId t) (semEventQp t l.first) first bits t) (rangeFrom 0 n) s)

/-! ## Banks (R265, R266) -/

/-- A write of `BANK_PWR`: each bank's field is requested on its own. -/
def bankPwrWrite (core : Nat) (value : W32) (s : State) : State :=
  foldS (fun b t => askBank core b (bankBits value b) t) (rangeFrom 0 16) s

/-- BANK_PWR_WRITE. -/
def execBankPwrWrite (core : Nat) (value : W32) (s : State) : Host.Outcome State Fault Refusal :=
  .next (if coresFitted s.part ≤ core then s else bankPwrWrite core value s)

/-- A doorway message reads a bank: some of its packets have been built, and not all (R266). -/
def doorReads (s : State) (core b : Nat) : Bool :=
  s.enpin.ctxs.any (fun c => c.2.msgs.any (fun m => decide (0 < m.next) && decide (m.next < m.pktCount) && (match m.src with
    | .scratch a => padCore (a + m.start) == core && (banksIn (padOff (a + m.start)) m.len).contains b
    | _ => false)))

/-- A command under way uses a bank. -/
def bankInUse (s : State) (core b : Nat) : Bool :=
  (coreOf s core).running.any (fun r => (tileReads s core r.cmd ++ tileWrites r.cmd).any (fun x =>
    x.1 == 0 && (banksIn x.2.1 x.2.2).contains b)) ||
  doorReads s core b || s.compute.cores.any (fun p => p.2.running.any (fun r => tCode r.cmd == 5 &&
    [mvSrc r.cmd, mvDst r.cmd].any (fun a => mvSpace a == 3 && a % 2 ^ 44 / 2 ^ 22 == core &&
      (banksIn (a % 2 ^ 22) (mvLen r.cmd)).contains b)))

/-- BANK_STATE_CHANGE: the bank enters the state its field asks for, once the uses in progress have ended. A bank that goes
from off to retention is cleared. -/
def execBankStateChange (core bank : Nat) (s : State) : Host.Outcome State Fault Refusal :=
  .next (
    let k := coreOf s core
    let want := bankBits k.bankReq bank
    if want = 0 || want = bankBits k.bankSt bank || k.waking.contains bank || bankInUse s core bank then s else
    let s := if bankBits k.bankSt bank = 2 then memZero .scratch (scratchBase core + bank * bankBytes) bankBytes s else s
    modCore core (fun k => { k with bankSt := setBankBits k.bankSt bank want }) s)

/-- BANK_WAKE_COMPLETE: the bank is on; held accesses may proceed. -/
def execBankWakeComplete (core bank : Nat) (s : State) : Host.Outcome State Fault Refusal :=
  .next (if (coreOf s core).waking.contains bank && !(coreAsleep s core) then bankOn core bank s else s)

/-- BANK_STARVATION: once per episode, by the limit that held when the wait began. -/
def execBankStarvation (core bank : Nat) (mover : Bool) (waited : Nat) (s : State) : Host.Outcome State Fault Refusal :=
  .next (
    let s := endStarving core s
    if (coreOf s core).starving.contains bank || !(if mover then moverWanted s core bank else deliveryWanted s core bank) ||
      decide (waited < ledAt s 0x5110 1 0 (s.now - waited)) then s else
    let s := modCore core (fun k => { k with starving := k.starving ++ [bank] }) s
    raiseEvent (coreEventFn s core) 0x24 (b2n mover) (ownId s) 0 (core + bank * 65536) waited (bump 0x9061 1 1 s))

/-! ## The core registers (R273) -/

/-- The core that a function's CORE_SEL selects, none when it is not fitted or not the function's. -/
def selCore (s : State) (fn : Nat) : Option Nat :=
  let c := (fnOf s fn).coreSel
  if coresFitted s.part ≤ c then none
  else if fn = 0 || coreFn s c == some fn then some c else none

/-- CORE_PC_READ: the low half is read, the high half latched. -/
def execCorePcRead (fn : Nat) (s : State) : Host.Outcome State Fault Refusal :=
  .next (
    if !(barOpen s fn) then outEmit (.regRead 0) s else
    let pc := match selCore s fn with
      | some c => (coreOf s c).pc
      | none => 0
    outEmit (.regRead (pc.setWidth 32)) (modFn fn (fun f => { f with pcHi := BitVec.ofNat 32 (pc.toNat / 2 ^ 32) }) s))

end Sys2Proof.Machine
end

