-- ==== Sys2Proof/Machine/Segments.lean ====
section
/-! DEFINITION. Segments: enabling, zeroing, disabling, flushing (R300, R301, R305, R308), and the stamps (R306). -/

namespace Sys2Proof.Machine

open Sys2Proof

/-! ## Configuration -/

/-- The segment that a function's SEG_SEL selects. -/
def selSeg (s : State) (fn : Nat) : Nat := (fnOf s fn).segSel % 16

/-- The other fields of a SEG_CFG write, taken while the segment is not enabled (R300). -/
def segFields (v : Nat) (g : Segment) : Segment :=
  if g.enable || g.disabling then g else { g with tier := v % 4, read := bitOf v 2, write := bitOf v 3, migratory := bitOf v 4 }

/-- A tier is fitted (R1, R6). -/
def tierFitted (p : Part) (tier : Nat) : Bool :=
  match tier with
  | 0 => decide (0 < diesFitted p)
  | 1 => true
  | 2 => true
  | _ => false

/-- Pages that residency maps cover now. -/
def mapPages (s : State) : Nat :=
  ((s.fns.map (fun f => ((f.2.segs.filter (fun g => g.2.migratory && (g.2.enable || g.2.disabling))).map
    (fun g => g.2.pages)).foldl (· + ·) 0))).foldl (· + ·) 0

/-- The range overlaps another enabled segment of the function. -/
def segOverlap (s : State) (fn i : Nat) (g : Segment) : Bool :=
  (rangeFrom 0 16).any (fun j => j != i && (segOf s fn j).enable &&
    decide (segBase g < segBase (segOf s fn j) + segBytes (segOf s fn j)) &&
    decide (segBase (segOf s fn j) < segBase g + segBytes g))

/-- A write of `enable` = 1 is refused (R301). -/
def segRefused (s : State) (fn i : Nat) (g : Segment) : Bool :=
  g.pages == 0 || decide (524288 < g.pages) || decide (2 ^ 64 < segBase g + segBytes g) || segOverlap s fn i g ||
  !(tierFitted s.part g.tier) || (!g.read && !g.write) || (g.migratory && g.tier == 2) ||
  ((g.tier == 2 || g.migratory) && segHostBase g == 0) ||
  (if g.tier != 2 && !g.migratory then
     decide (quotaOf s fn g.tier < framesUsed s fn g.tier + g.pages) || (freeRun s g.tier g.pages).isNone
   else false) ||
  (g.migratory && !(Config.mapFits (mapPages s + g.pages)))

/-- The segment is enabled: its range is allocated, or its map placed, and zeroing starts; a host segment translates at
once. -/
def enableSeg (fn i : Nat) (g : Segment) (s : State) : State :=
  if g.tier = 2 then modSeg fn i (fun _ => { g with enable := true, valid := true }) s
  else if g.migratory then modSeg fn i (fun _ => { g with
    enable := true, zeroing := true, tierBase := Config.mapAt (fn * 16 + i), migrationsFail := false }) s
  else match freeRun s g.tier g.pages with
    | some a =>
      let s := { s with mig := { s.mig with allocs := s.mig.allocs ++ [(g.tier, a, g.pages, fn)] } }
      modSeg fn i (fun _ => { g with enable := true, zeroing := true, tierBase := a * pageBytes }) s
    | none => s

/-- A flush is accepted: the caches forget the segment (R305, R308). -/
def startFlush (fn i : Nat) (s : State) : State :=
  let g := segOf s fn i
  if g.valid && g.migratory && !g.flushing && !g.disabling then
    modSeg fn i (fun g => { g with flushing := true }) (uncacheSeg fn i s)
  else s

/-- The pages of a segment that are resident. -/
def residentOf (s : State) (fn i : Nat) : List (Nat × Page) :=
  ((fnOf s fn).pages.filter (fun p => p.1 / 2 ^ 20 == i && p.2.resident)).map (fun p => (p.1 % 2 ^ 20, p.2))

/-- Write back what is dirty; pages neither pinned nor held leave the device (R308). -/
def flushPass (fn i : Nat) (s : State) : State :=
  foldS (fun p t =>
    let t := if p.2.dirty && p.2.held == 0 && !p.2.migrating then writeBack fn i p.1 t else t
    if p.2.pins == 0 && p.2.held == 0 && !p.2.migrating then dropPage fn i p.1 t else t) (residentOf s fn i) s

/-- A flush's work can reach the host. -/
def flushable (s : State) (fn i : Nat) : Bool := hostOk s && !(segOf s fn i).migrationsFail

/-- A SEG_CFG write with `flush`. -/
def doFlush (fn i : Nat) (s : State) : State :=
  let s := startFlush fn i s
  if (segOf s fn i).flushing && flushable s fn i then flushPass fn i s else s

/-- A write of SEG_CFG with `enable` = 1 (R301). -/
def segEnable (fn v : Nat) (s : State) : State :=
  let i := selSeg s fn
  let g := { segFields v (segOf s fn i) with cfgError := false }
  let s := if (segOf s fn i).enable then modSeg fn i (fun g => { g with cfgError := false }) s
    else if g.disabling || segRefused s fn i g then modSeg fn i (fun _ => { g with cfgError := true }) s
    else enableSeg fn i g s
  if bitOf v 7 then doFlush fn i s else s

/-- SEGMENT_ENABLE. -/
def execSegmentEnable (fn : Nat) (value : W32) (s : State) : Host.Outcome State Fault Refusal :=
  .next (if barOpen s fn && bitOf value.toNat 5 then segEnable fn value.toNat s else s)

/-- SEGMENT_ZEROING_END: the range is zeros, or the map is clear, and the segment translates (R295, R301). -/
def execSegmentZeroingEnd (fn seg : Nat) (s : State) : Host.Outcome State Fault Refusal :=
  .next (
    let g := segOf s fn seg
    if !g.zeroing then s else
    let s := if g.migratory then modFn fn (fun f => { f with pages := f.pages.filter (fun p => p.1 / 2 ^ 20 != seg) }) s
      else memZero (tierMem g.tier) g.tierBase (segBytes g) s
    modSeg fn seg (fun g => { g with zeroing := false, valid := true }) s)

/-! ## Disabling (R301) -/

/-- A `valid` or `revoking` key entry lies in a segment. -/
def segKeyed (s : State) (fn i : Nat) : Bool :=
  let g := segOf s fn i
  s.keys.table.any (fun p => (p.2.valid || p.2.revoking) && p.2.owner == fn && p.2.tier == g.tier && g.tier != 2 &&
    (if g.migratory then (match p.2.pinned with
      | some (j, _, _) => j == i
      | none => false)
     else p.2.pinned.isNone && decide (g.tierBase ≤ p.2.base) && decide (p.2.base < g.tierBase + segBytes g)))

/-- A function's range meets a segment. -/
def meetsSeg (s : State) (fn i va len : Nat) : Bool :=
  let g := segOf s fn i
  decide (va < segBase g + segBytes g) && decide (segBase g < va + len)

/-- An access in progress uses a segment: a MOVE, a READ or atomic whose answer is awaited, a response not written, a request
with a walker, a page that is held or migrating. -/
def segBusy (s : State) (fn i : Nat) : Bool :=
  s.compute.cores.any (fun p => coreFn s p.1 == some fn && p.2.running.any (fun r => tCode r.cmd == 5 &&
    [mvSrc r.cmd, mvDst r.cmd].any (fun a => mvSpace a == 2 && a % 2 ^ 44 / 2 ^ 40 == i))) ||
  s.enpin.ctxs.any (fun c => c.2.reqs.any (fun r => r.fn == fn && meetsSeg s fn i r.localVa.toNat r.length)) ||
  s.enpin.adms.any (fun a => !a.written && (match a.tgt with
    | .va f b => f == fn && meetsSeg s fn i b.toNat a.data.length
    | _ => false)) ||
  (s.mig.walkers0 ++ s.mig.walkers1).any (fun w => w.2.fn == fn && w.2.seg == i) ||
  (fnOf s fn).pages.any (fun p => p.1 / 2 ^ 20 == i && (decide (0 < p.2.held) || p.2.migrating))

/-- The frames go back to the quota, and the segment is gone. -/
def dropSeg (fn i : Nat) (s : State) : State :=
  let g := segOf s fn i
  let s := uncacheSeg fn i s
  let left := if g.migratory || g.tier == 2 then s.mig.allocs
    else s.mig.allocs.filter (fun a => !(a.1 == g.tier && a.2.1 * pageBytes == g.tierBase && a.2.2.2 == fn))
  let s := { s with mig := { s.mig with allocs := left } }
  let s := modFn fn (fun f => { f with pages := f.pages.filter (fun p => p.1 / 2 ^ 20 != i) }) s
  modSeg fn i (fun g => { g with enable := false, valid := false, zeroing := false, flushing := false, disabling := false,
                                 tierBase := 0, migrationsFail := false }) s

/-- A write of SEG_CFG with `enable` = 0 (R301). -/
def segDisable (fn v : Nat) (s : State) : State :=
  let i := selSeg s fn
  let g := segOf s fn i
  if !g.enable then
    let s := modSeg fn i (fun g => { segFields v g with cfgError := false }) s
    if bitOf v 7 then doFlush fn i s else s
  else if segKeyed s fn i then modSeg fn i (fun g => { g with cfgError := true }) s
  else modSeg fn i (fun g => { g with enable := false, disabling := true, zeroing := false, cfgError := false }) (uncacheSeg fn i s)

/-- SEGMENT_DISABLE. -/
def execSegmentDisable (fn : Nat) (value : W32) (s : State) : Host.Outcome State Fault Refusal :=
  .next (if barOpen s fn && !(bitOf value.toNat 5) then segDisable fn value.toNat s else s)

/-- SEGMENT_DISABLE_END: the accesses in progress have ended; dirty pages are written back and the frames return. A
migratory segment waits for the host link. -/
def execSegmentDisableEnd (fn seg : Nat) (s : State) : Host.Outcome State Fault Refusal :=
  .next (
    let g := segOf s fn seg
    if !g.disabling || segBusy s fn seg || (g.migratory && !(hostOk s)) then s else
    let s := if g.migratory && !g.migrationsFail then
        foldS (fun p t => if p.2.dirty then writeBack fn seg p.1 t else t) (residentOf s fn seg) s
      else s
    dropSeg fn seg s)

/-- A segment is disabled at once, without write-back: an FLR, a reset, a destroy (R301). Faults under way on it end. -/
def cutSeg (fn i : Nat) (s : State) : State :=
  let mine (r : FaultRec) : Bool := r.fn == fn && r.seg == i
  let s := setRecs 0 ((recsOf s 0).filter (fun r => !(mine r.2))) s
  let s := setRecs 1 ((recsOf s 1).filter (fun r => !(mine r.2))) s
  let s := setWalkers 0 ((walkersOf s 0).filter (fun w => !(w.2.fn == fn && w.2.seg == i))) s
  let s := setWalkers 1 ((walkersOf s 1).filter (fun w => !(w.2.fn == fn && w.2.seg == i))) s
  dropSeg fn i s

/-! ## Flushing (R308) -/

/-- SEGMENT_FLUSH: a write of 1 to SEG_CFG `flush`. -/
def execSegmentFlush (fn : Nat) (value : W32) (s : State) : Host.Outcome State Fault Refusal :=
  .next (if barOpen s fn && bitOf value.toNat 7 then doFlush fn (selSeg s fn) s else s)

/-- SEGMENT_FLUSH_END: the last holds, and the last write-backs of victims, have ended. -/
def execSegmentFlushEnd (fn seg : Nat) (s : State) : Host.Outcome State Fault Refusal :=
  .next (
    let g := segOf s fn seg
    if !g.flushing || !(flushable s fn seg) || (residentOf s fn seg).any (fun p => decide (0 < p.2.held) || p.2.migrating) then s else
    let s := flushPass fn seg s
    let pinned := (residentOf s fn seg).any (fun p => decide (0 < p.2.pins))
    modSeg fn seg (fun g => { g with flushing := false, flushPinned := g.flushPinned || pinned }) s)

/-! ## Stamps (R306) -/

/-- STAMP_REPORT: every 50 µs the caches renew the stamps of the pages they hold. -/
def execStampReport (s : State) : Host.Outcome State Fault Refusal :=
  .next (
    let s := advanceTo ((s.now / 50000 + 1) * 50000) s
    foldS (fun k t =>
      let i := k.2.2 / 2 ^ 20
      let p := k.2.2 % 2 ^ 20
      if (pageOf t k.2.1 i p).resident then modPage k.2.1 i p (fun x => { x with stamp := stampNow t }) t else t) s.mig.cached s)

/-- RESIDENCY_STAMP_PASS: once a second, no stamp lies more than 2^27 units back. -/
def execResidencyStampPass (s : State) : Host.Outcome State Fault Refusal :=
  .next (
    let s := advanceTo ((s.now / 1000000000 + 1) * 1000000000) s
    let n := stampNow s
    let old (v : Nat) : Bool := decide (2 ^ 27 < (n + 2 ^ 28 - v % 2 ^ 28) % 2 ^ 28)
    { s with fns := s.fns.map (fun f => (f.1, { f.2 with pages := f.2.pages.map (fun p =>
      if p.2.resident && old p.2.stamp then (p.1, { p.2 with stamp := (n + 2 ^ 27) % 2 ^ 28 }) else p) })) })

end Sys2Proof.Machine
end

