-- ==== Sys2Proof/Machine/Vdev.lean ====
section
/-! DEFINITION. Virtual devices: pools, creation, reset, destruction, FLR, freezing (R77, R383, R386 to R394, R494). -/

namespace Sys2Proof.Machine

open Sys2Proof

/-! ## Pools (R386) -/

/-- Every grant that is out of the pools, and whose. -/
def grantsOut (s : State) : List Grant :=
  (s.fns.map (fun f => f.2.grant.toList ++ f.2.retiring.toList)).flatten

def sumGrants (s : State) (g : Grant → Nat) : Nat := ((grantsOut s).map g).foldl (· + ·) 0

/-- Clusters granted or on their way back. -/
def clusterTaken (s : State) (c : Nat) : Bool :=
  (grantsOut s).any (fun g => bitOf g.clusters.toNat c) || s.pools.returning.contains c

/-- The totals of the pools, in the order of the table. -/
def poolTotal (p : Part) (sub : Nat) : Nat :=
  match sub with
  | 1 => 0xFFE00
  | 2 => coresFitted p / 16
  | 3 => 49151
  | 4 => 16384
  | 5 => tierFrames p 0
  | 6 => tierFrames p 1 - 1024
  | _ => 4096

/-- Units of a pool that are granted. -/
def poolUsed (s : State) (sub : Nat) : Nat :=
  match sub with
  | 1 => sumGrants s (fun g => g.queues)
  | 2 => ((rangeFrom 0 32).filter (clusterTaken s)).length
  | 3 => sumGrants s (fun g => g.regionKeys)
  | 4 => sumGrants s (fun g => g.windowKeys)
  | 5 => sumGrants s (fun g => g.hbmFrames)
  | 6 => sumGrants s (fun g => g.lpddrFrames)
  | 7 => sumGrants s (fun g => g.mortarSlots)
  | 8 => sumGrants s (fun g => g.mortarSlots)
  | _ => sumGrants s (fun g => g.sramQueues)

/-- A contiguous range of QPs that no grant meets. -/
def qpFree (s : State) (a n : Nat) : Bool :=
  decide (a + n ≤ 0xFFE00) && (grantsOut s).all (fun g => g.queues == 0 || decide (a + n ≤ g.qpBase) || decide (g.qpBase + g.queues ≤ a))

/-- The lowest free range of `n` QPs. -/
def freeQps (s : State) (n : Nat) : Option Nat :=
  ((0 :: (grantsOut s).map (fun g => g.qpBase + g.queues)).filter (fun a => qpFree s a n)).foldl (fun m a => match m with
    | none => some a
    | some b => some (min a b)) none

/-! ## The grant descriptor (R392) -/

def grantOfDesc (d : List Byte) (base : Nat) : Grant :=
  { queues := df d 0 2, qpBase := base, cqCount := df d 2 1, secure := bitOf (df d 3 1) 0, clusters := BitVec.ofNat 32 (df d 4 4)
    regionKeys := df d 8 4, windowKeys := df d 12 4, hbmFrames := df d 16 4, lpddrFrames := df d 20 4
    mortarSlots := df d 24 2, sramQueues := df d 26 2 }

/-- The descriptor's bytes of a grant. -/
def descOfGrant (g : Grant) : List Byte :=
  leBytes 2 g.queues ++ leBytes 1 g.cqCount ++ leBytes 1 (b2n g.secure) ++ leBytes 4 g.clusters.toNat ++ leBytes 4 g.regionKeys ++
  leBytes 4 g.windowKeys ++ leBytes 4 g.hbmFrames ++ leBytes 4 g.lpddrFrames ++ leBytes 2 g.mortarSlots ++ leBytes 2 g.sramQueues ++
  List.replicate 36 0

def descOk (p : Part) (d : List Byte) : Bool :=
  decide (df d 0 2 ≤ 6144) && decide (1 ≤ df d 2 1) && decide (df d 2 1 ≤ 64) && decide (df d 3 1 ≤ 1) &&
  decide (df d 4 4 < 2 ^ (coresFitted p / 16)) && decide (df d 8 4 ≤ 49151) && decide (df d 12 4 ≤ 16384) &&
  !(df d 16 4 != 0 && diesFitted p == 0) && decide (df d 24 2 ≤ 4096) && decide (df d 26 2 ≤ 4096) &&
  (d.drop 28).all (fun b => b == 0)

/-- Causes of R390 that apply to a creation, in rising order. -/
def createCauses (s : State) (v : Nat) (d : List Byte) : List Nat :=
  let excess (c sub n : Nat) : List Nat := if poolTotal s.part sub < poolUsed s sub + n then [c] else []
  (if (fnOf s v).grant.isSome then [1] else []) ++
  (if (freeQps s (df d 0 2)).isNone then [3] else []) ++
  (if (bitsOf (df d 4 4) 32).any (clusterTaken s) then [4] else []) ++
  excess 5 3 (df d 8 4) ++ excess 6 4 (df d 12 4) ++ excess 7 5 (df d 16 4) ++ excess 8 6 (df d 20 4) ++ excess 9 7 (df d 24 2) ++
  excess 10 9 (df d 26 2) ++ (if descOk s.part d then [] else [16])

/-! ## The result block (R389) -/

def resultBlock (cause qpBase clusters keys value : Nat) : List Byte :=
  leBytes 1 cause ++ leBytes 3 0 ++ leBytes 4 qpBase ++ leBytes 4 clusters ++ leBytes 4 keys ++ leBytes 8 value ++ leBytes 8 0

/-- Write the result block and complete; a block that cannot be written leaves the operation done (R495). -/
def putVdev (q : QRef) (idx : Nat) (va : Nat) (b : List Byte) (s : State) : State :=
  if rangeReach s (queueFn q) va 32 then completeOk q idx (writeAny (queueFn q) va b s) else complete q idx stHostLost 0 0 s

/-- The operation ends with a cause and has changed nothing. -/
def vdevCause (q : QRef) (idx : Nat) (va cause : Nat) (s : State) : State := putVdev q idx va (resultBlock cause 0 0 0 0) s

/-! ## Ending a virtual device's work (R50, R77, R383) -/

/-- A cut rule no longer matches; its pending requests are discarded (R341). PD23 goes off with the last rule (R20). -/
def cutOff (n : Nat) (s : State) : State :=
  let s := touchCore (cutCore (cutRuleOf s n).desc) s
  let s := modCut n (fun r => { r with enable := false, active := false, reqs := [], reads := 0, nextSeq := 0 }) s
  if s.cut.rules.any (fun p => p.2.enable) then s else { s with cut := { s.cut with pd23 := false } }

/-- Every enabled rule that names a function. -/
def cutRulesOf (s : State) (fn : Nat) : List Nat :=
  (s.cut.rules.filter (fun p => p.2.enable && cutFn p.2.desc == fn)).map Prod.fst

/-- The doorway messages of a core are aborted, and it holds none any more. -/
def dropDoors (status core : Nat) (s : State) : State :=
  let s := foldS (fun m t => abortOwner (.doorway core m.n) status t) (coreOf s core).door s
  modCore core (fun k => { k with door := [] }) s

/-- The LAUNCHes of a function end at once, their entries by `fin` (R273, R394). -/
def killLaunches (fin : QRef → Nat → State → State) (fn : Nat) (s : State) : State :=
  foldS (fun l t =>
    let t := foldS (dropDoors stManager) (rangeFrom l.first l.count) t
    let t := foldS (fun c u => modCore c (fun k => { k with st := .idle, launch := none, running := [], cmdq := [], stalled := none }) u)
      ((rangeFrom l.first l.count).filter (fun c => (coreOf t c).launch == some l.id)) t
    let t := { t with compute := { t.compute with launches := t.compute.launches.filter (fun x => x.id != l.id) } }
    if l.gone then t else fin l.q l.idx t)
    (s.compute.launches.filter (fun l => l.fn == fn)) s

/-- Cores of a function. -/
def coresOf (s : State) (fn : Nat) : List Nat :=
  match grantOf s fn with
  | some g => ((bitsOf g.clusters.toNat 32).map (fun c => rangeFrom (c * 16) 16)).flatten
  | none => []

/-- Every key of a function is revoked (R77). -/
def revokeAll (fn : Nat) (s : State) : State :=
  foldS (fun i t => revokeKey i t) ((s.keys.table.filter (fun p => p.2.valid && p.2.owner == fn)).map Prod.fst) s

/-- No key of a function is still draining. -/
def keysDrained (s : State) (fn : Nat) : Bool := s.keys.table.all (fun p => !(p.2.revoking && p.2.owner == fn))

/-- Indices with nothing in progress are freed. -/
def endDrains (fn : Nat) (s : State) : State :=
  foldS (fun i t => endDrain i t) ((s.keys.table.filter (fun p => p.2.revoking && p.2.owner == fn)).map Prod.fst) s

def groupsOf (s : State) (fn : Nat) : List W32 :=
  (s.coll.groups.filter (fun p => p.2.vdev == fn)).map (fun p => p.2.handle)

/-- The QP contexts of a function leave the chip. -/
def dropQps (fn : Nat) (s : State) : State :=
  match grantOf s fn with
  | some g =>
    let mine (qp : Nat) : Bool := decide (g.qpBase ≤ qp) && decide (qp < g.qpBase + g.queues)
    { s with enpin := { s.enpin with qpOnChip := s.enpin.qpOnChip.filter (fun q => !(mine q)) } }
  | none => s

/-- The cores' semaphores read 0 (R204). -/
def zeroSems (cores : List Nat) (s : State) : State := foldS (fun c t => modCore c (fun k => { k with sems := [] }) t) cores s

/-- The pooled work of a function ends with MANAGER_ABORT: send queues, LAUNCHes, keys, collectives, bindings, cut rules and
semaphores. -/
def endPooled (fn : Nat) (queues : List QRef) (destroy : Bool) (s : State) : State :=
  let s := killLaunches (fun _ _ t => t) fn s
  let s := foldS (endQueue stManager) queues s
  let s := foldS (fun h t => if destroy then destroyGroup h t else abortGroup h t) (groupsOf s fn) s
  let s := revokeAll fn s
  let s := foldS cutOff (cutRulesOf s fn) s
  let s := dropQps fn s
  let s := zeroSems (coresOf s fn) s
  modFn fn (fun f => { f with bindings := [], sends := [] }) s

/-- A function's associations and `SEC_CFG` go; `TENANT_TAG` stays (R399). -/
def emptySecurity (fn : Nat) (s : State) : State :=
  let s := modFn fn (fun f => { f with keyPage := { f.keyPage with
    txState := .empty, txPeerSa := 0, txKey := 0, txSalt := 0, txCtr := 0, rxRequired := false } }) s
  { s with sec := { s.sec with rxSas := s.sec.rxSas.filter (fun p => p.2.owner != fn) } }

/-- The entries of a function in the learning tables are cleared (R426). -/
def forgetPhases (fn : Nat) (s : State) : State :=
  { s with power := { s.power with
      dies := s.power.dies.map (fun d => (d.1, { d.2 with learn := d.2.learn.filter (fun p => p.1 / 2 ^ 16 != fn) })) } }

/-- A VF's reset (R50, R77, R383): everything but its grants. -/
def resetFn (fn : Nat) (destroy : Bool) (s : State) : State :=
  let s := forgetPhases fn (emptySecurity fn (endPooled fn (queuesOf s fn) destroy s))
  let s := foldS (cutSeg fn) (rangeFrom 0 16) s
  modFn fn (fun f => { f with
    vstate := .active, haltStatus := 0, eventOverflow := false, eventsDropped := 0, qselRefused := [], control := {}, cqs := []
    eq := {}
    counters := [], telem := {}, segs := [], pages := [], xw := {}, msixUnmasked := [], msixTable := [], msixPending := [] }) s

/-- What VDEV_RESET of virtual device 0 touches (R494): the grant's work, and the segments in device memory. -/
def resetPfGrant (destroy : Bool) (s : State) : State :=
  let sends := (queuesOf s 0).filter (fun q => match q.kind with
    | .send => true
    | _ => false)
  let s := forgetPhases 0 (emptySecurity 0 (endPooled 0 sends destroy s))
  let s := foldS (cutSeg 0) ((rangeFrom 0 16).filter (fun i => (segOf s 0 i).tier < 2)) s
  modFn 0 (fun f => { f with vstate := .active, haltStatus := 0 }) s

def resetVdev (v : Nat) (destroy : Bool) (s : State) : State :=
  endDrains v (if v = 0 then resetPfGrant destroy s else resetFn v destroy s)

/-- A later operation that an accepted one takes the place of ends: a SAVE or FREEZE under way meets an FLR only by R391. -/
def setVop (v : Nat) (o : Option VOp) (s : State) : State := modFn v (fun f => { f with vop := o }) s

/-! ## VDEV_CREATE -/

def doCreate (q : QRef) (idx : Nat) (e : Entry) (s : State) : State :=
  let v := eVdev e
  if !(rangeReach s (queueFn q) (eLocal e) 64) then
    vdevCause q idx (eResult e) (if (fnOf s v).grant.isSome then 1 else 15) s
  else
    let d := readAny s (queueFn q) (eLocal e) 64
    match createCauses s v d, freeQps s (df d 0 2) with
    | c :: _, _ => vdevCause q idx (eResult e) c s
    | [], none => s
    | [], some base =>
      let g := grantOfDesc d base
      let s := modFn v (fun f => { f with
        grant := some g, vstate := .active, haltStatus := 0, sends := [], counters := if v = 0 then f.counters else [] }) s
      let s := zeroSems (coresOf s v) s
      putVdev q idx (eResult e) (resultBlock 0 base g.clusters.toNat 0 0) s

/-- VDEV_CREATE once taken: both ranges are translated before anything changes (R495). -/
def startCreate (q : QRef) (idx : Nat) (e : Entry) (s : State) : State :=
  withRange q idx (eLocal e) 64 false (withRange q idx (eResult e) 32 true (doCreate q idx e)) s

/-- VDEV_CREATE (R392). -/
def execVdevCreate (q : QRef) (e : Entry) (s : State) : Host.Outcome State Fault Refusal :=
  .next (if eOp e = 0x80 then offer vdevHold startCreate q e s else s)

/-! ## VDEV_DESTROY and VDEV_RESET -/

/-- The clusters of a grant wait to be zeroed (R388). -/
def retireGrant (v : Nat) (s : State) : State :=
  match grantOf s v with
  | some g =>
    let s := modFn v (fun f => { f with grant := none, retiring := some { g with clusters := 0 }, vstate := .none }) s
    { s with pools := { s.pools with returning := s.pools.returning ++ bitsOf g.clusters.toNat 32 } }
  | none => s

def doDestroy (q : QRef) (idx : Nat) (e : Entry) (s : State) : State :=
  let v := eVdev e
  if (grantOf s v).isNone then vdevCause q idx (eResult e) 1 s else
  setVop v (some (.destroy q idx (BitVec.ofNat 64 (eResult e)))) (retireGrant v (resetVdev v true s))

def startDestroy (q : QRef) (idx : Nat) (e : Entry) (s : State) : State :=
  withRange q idx (eResult e) 32 true (doDestroy q idx e) s

/-- VDEV_DESTROY (R393). -/
def execVdevDestroy (q : QRef) (e : Entry) (s : State) : Host.Outcome State Fault Refusal :=
  .next (if eOp e = 0x81 then offer vdevHold startDestroy q e s else s)

def doReset (q : QRef) (idx : Nat) (e : Entry) (s : State) : State :=
  let v := eVdev e
  if (grantOf s v).isNone then vdevCause q idx (eResult e) 1 s
  else match (fnOf s v).vstate with
    | .frozen => vdevCause q idx (eResult e) 2 s
    | _ => setVop v (some (.reset q idx (BitVec.ofNat 64 (eResult e)))) (resetVdev v false s)

def startReset (q : QRef) (idx : Nat) (e : Entry) (s : State) : State :=
  withRange q idx (eResult e) 32 true (doReset q idx e) s

/-- VDEV_RESET (R50, R77). -/
def execVdevReset (q : QRef) (e : Entry) (s : State) : Host.Outcome State Fault Refusal :=
  .next (if eOp e = 0x85 then offer vdevHold startReset q e s else s)

/-- VDEV_DRAIN_END: the drains of a reset or destroy have ended, and the operation completes. -/
def execVdevDrainEnd (vdev : Nat) (s : State) : Host.Outcome State Fault Refusal :=
  .next (
    let s := endDrains vdev s
    if !(keysDrained s vdev) then s else
    match (fnOf s vdev).vop with
    | some (.reset q idx va) => putVdev q idx va.toNat (resultBlock 0 0 0 0 0) (setVop vdev none s)
    | some (.destroy q idx va) =>
      putVdev q idx va.toNat (resultBlock 0 0 0 0 0) (modFn vdev (fun f => { f with vop := none, retiring := none }) s)
    | _ => s)

/-- CLUSTER_RETURN: scratchpads and store are zeros, semaphores 0, banks on; the cluster is in the pool again (R388). -/
def execClusterReturn (cluster : Nat) (s : State) : Host.Outcome State Fault Refusal :=
  .next (
    if !(s.pools.returning.contains cluster) then s else
    let cs := rangeFrom (cluster * 16) 16
    let s := foldS (fun c t => memZero .scratch (scratchBase c) (2 ^ 22) t) cs s
    let s := memZero .cluster (clusterBase cluster) (2 ^ 25) s
    let s := foldS (fun c t => modCore c (fun k => { k with sems := [], bankReq := 0, bankSt := 0, waking := [] }) t) cs s
    { s with pools := { s.pools with returning := s.pools.returning.filter (fun c => c != cluster) } })

/-! ## FLR (R383, R391) -/

/-- VF_FLR: the effects of a reset; a FROZEN device keeps its state. The BAR is closed until the drains end. -/
def execVfFlr (fn : Nat) (s : State) : Host.Outcome State Fault Refusal :=
  .next (
    if fn = 0 then s else
    match (fnOf s fn).vstate with
    | .none => modFn fn (fun f => { f with
        telem := {}, xw := {}, bindings := [], msixUnmasked := [], msixTable := [], msixPending := [] }) s
    | .frozen => modFn fn (fun f => { f with msixUnmasked := [], msixTable := [], msixPending := [] }) s
    | _ => endDrains fn (modFn fn (fun f => { f with flrDraining := true }) (resetFn fn false s)))

/-- FLR_DRAIN_END: the drains have ended; the BAR answers again. -/
def execFlrDrainEnd (fn : Nat) (s : State) : Host.Outcome State Fault Refusal :=
  .next (
    let s := endDrains fn s
    if (fnOf s fn).flrDraining && keysDrained s fn then modFn fn (fun f => { f with flrDraining := false }) s else s)

/-! ## VDEV_FREEZE (R394) -/

def freezeCauses (s : State) (v : Nat) : List Nat :=
  (if (grantOf s v).isNone then [1] else []) ++
  (if v = 0 then [2] else match (fnOf s v).vstate with
    | .active => []
    | _ => [2]) ++
  (if (cutRulesOf s v).isEmpty then [] else [14])

def doFreeze (q : QRef) (idx : Nat) (e : Entry) (s : State) : State :=
  let v := eVdev e
  match freezeCauses s v with
  | c :: _ => vdevCause q idx (eResult e) c s
  | [] =>
    let s := modFn v (fun f => { f with vstate := .frozen }) s
    let s := foldS (fun p t => modQueue p (fun x => { x with rescanAt := none }) t) (queuesOf s v) s
    let s := killLaunches (fun r i t => completeAside r i stManager t) v s
    let s := foldS (abortGroupBy (fun r i t => completeAside r i stManager t)) (groupsOf s v) s
    setVop v (some (.freeze q idx (BitVec.ofNat 64 (eResult e)))) s

def startFreeze (q : QRef) (idx : Nat) (e : Entry) (s : State) : State :=
  withRange q idx (eResult e) 32 true (doFreeze q idx e) s

/-- VDEV_FREEZE: accepted when it is taken; the drain follows. -/
def execVdevFreeze (q : QRef) (e : Entry) (s : State) : Host.Outcome State Fault Refusal :=
  .next (if eOp e = 0x82 then offer vdevHold startFreeze q e s else s)

/-- Steps 3 and 4 of the drain have ended: no taken entry is in progress, no admitted access. -/
def freezeQuiet (s : State) (v : Nat) : Bool :=
  (queuesOf s v).all (fun q => (queueOf s q).taken.all (fun t => t.status.isSome)) &&
  s.enpin.adms.all (fun a => a.vdev != v)

/-- Dirty pages of a function, but for those whose write-backs fail since a fresh attach (R380). -/
def dirtyPages (s : State) (v : Nat) : List Nat :=
  ((fnOf s v).pages.filter (fun p => p.2.resident && p.2.dirty && !(segOf s v (p.1 / 2 ^ 20)).migrationsFail)).map Prod.fst

/-- A QP context of a ring in host memory is on chip and goes back to the exchange window. -/
def contextsToWrite (s : State) (v : Nat) : Bool :=
  (fnOf s v).xw.enable && (queuesOf s v).any (fun q => q.kind == .send && !(ringSram (queueOf s q).size) && s.enpin.qpOnChip.contains (globalQp s q))

/-- VDEV_FREEZE_DRAIN_END: write-backs, contexts and held records; while one of them needs the host link and it is down,
the drain goes on. -/
def execVdevFreezeDrainEnd (vdev : Nat) (s : State) : Host.Outcome State Fault Refusal :=
  .next (
    match (fnOf s vdev).vop with
    | some (.freeze q idx va) =>
      if !(freezeQuiet s vdev) || (!(hostOk s) && (!(dirtyPages s vdev).isEmpty || contextsToWrite s vdev)) then s else
      let s := foldS (fun p t => writeBack vdev (p / 2 ^ 20) (p % 2 ^ 20) t) (dirtyPages s vdev) s
      let s := dropQps vdev s
      let s := foldS (fun r t => releaseHeld vdev r ((cqOf t vdev r).held.length + 1) t) ((fnOf s vdev).cqs.map Prod.fst) s
      if (fnOf s vdev).cqs.any (fun r => !r.2.held.isEmpty) then s
      else putVdev q idx va.toNat (resultBlock 0 0 0 0 0) (setVop vdev none s)
    | _ => s)

end Sys2Proof.Machine
end

