-- ==== Sys2Proof/Machine/Cut.lean ====
section
/-! DEFINITION. The cut path: rules, matching and cutting, the stamp and its answers (R330 to R342). -/

namespace Sys2Proof.Machine

open Sys2Proof

/-! ## The descriptor (R331 to R333, R339) -/

def cutPort (n : Nat) : Nat := n / 16
def cutMin (d : List Byte) : Nat := df d 4 2
def cutMax (d : List Byte) : Nat := df d 6 2
def cutSlots (d : List Byte) : Nat := df d 11 1
def cutSlotBase (d : List Byte) : Nat := df d 12 4
def cutSlotSize (d : List Byte) : Nat := df d 16 4
def cutAnsBase (d : List Byte) : Nat := df d 24 4
def cutStride (d : List Byte) : Nat := df d 28 2
def cutAnsLen (d : List Byte) : Nat := df d 30 2
def cutTplLen (d : List Byte) : Nat := df d 36 2

/-- `ans_timeout` in ns. -/
def cutTimeout (d : List Byte) : Nat := (if df d 32 4 = 0 then 100 else df d 32 4) * 1000

/-- A step or a patch: operation, signed parameter, and its three 16-bit fields. -/
structure CutOp where
  op : Nat
  param : Int
  a : Nat
  b : Nat
  count : Nat
deriving DecidableEq, Repr

/-- `n` operations from an offset, up to the first whose `op` is 0. -/
def cutOps (d : List Byte) : Nat → Nat → List CutOp
  | _, 0 => []
  | off, n + 1 =>
    if df d off 1 = 0 then []
    else { op := df d off 1, param := signedOf 8 (df d (off + 1) 1), a := df d (off + 2) 2, b := df d (off + 4) 2,
           count := df d (off + 6) 2 } :: cutOps d (off + 8) n

/-- Cut steps: `a` is `src`, `b` is `dst`. -/
def cutSteps (d : List Byte) : List CutOp := cutOps d 136 (df d 38 1)
/-- Patches: `a` is `tpl_off`, `b` is `src`. -/
def cutPatches (d : List Byte) : List CutOp := cutOps d 264 (df d 39 1)

/-- Bytes an element of a step reads, and writes. -/
def stepIn (op : Nat) : Nat :=
  match op with
  | 1 => 1 | 2 => 2 | 3 => 4 | 4 => 8 | 5 => 4 | 6 => 4 | 7 => 4 | _ => 0
def stepOut (op : Nat) : Nat :=
  match op with
  | 1 => 1 | 2 => 2 | 3 => 4 | 4 => 4 | 5 => 2 | 6 => 1 | 7 => 2 | _ => 1

/-- A step breaks R333. -/
def stepBad (d : List Byte) (o : CutOp) : Bool :=
  decide (8 < o.op) || decide (o.param < -64) || decide (63 < o.param) ||
  decide (cutMin d < o.a + stepIn o.op * o.count) || decide (cutSlotSize d - 16 < o.b + stepOut o.op * o.count) ||
  (o.op == 8 && (o.a != 0 || o.param != 0))

/-- A patch breaks R339. -/
def patchBad (d : List Byte) (o : CutOp) : Bool :=
  let tpl (n : Nat) : Bool := decide (cutTplLen d < o.a + n)
  match o.op with
  | 1 => decide (128 < o.b + o.count) || tpl o.count
  | 2 => decide (cutAnsLen d < o.b + o.count) || tpl o.count
  | 3 => decide (cutAnsLen d < o.b + 4 * o.count) || tpl (4 * o.count)
  | 4 => decide (cutAnsLen d < o.b + 4 * o.count) || tpl (8 * o.count)
  | 5 => tpl 4
  | 6 => tpl 8
  | 7 => tpl 20
  | 8 => decide (cutTplLen d < o.b + 40) || tpl 8
  | _ => true

/-- Match field i breaks R332. -/
def matchBad (d : List Byte) (i : Nat) : Bool :=
  let at_ := 40 + 24 * i
  decide (504 < df d at_ 2) || df d (at_ + 2) 6 != 0 || (df d (at_ + 16) 8 != 0 && decide (cutMin d < df d at_ 2 + 8))

/-- A core is fitted and granted to the function. -/
def cutCoreBad (s : State) (d : List Byte) (core : Nat) : Bool :=
  decide (coresFitted s.part ≤ core) || coreFn s core != some (cutFn d)

/-- The enable of a rule is refused (R337). -/
def cutRefused (s : State) (n : Nat) (d : List Byte) : Bool :=
  df d 0 1 != cutPort n || decide (1 < df d 1 1) || decide (1024 < cutFn d) || decide (cutMin d < 64) || decide (512 < cutMin d) ||
  decide (cutMax d < cutMin d) || decide (512 < cutMax d) || decide (63 < cutSem d) || cutSlots d == 0 || decide (16 < cutSlots d) ||
  decide (2 ^ 22 ≤ cutSlotBase d) || cutSlotBase d % 256 != 0 || decide (cutSlotSize d < 256) || decide (16384 < cutSlotSize d) ||
  cutSlotSize d % 256 != 0 || decide (4095 < cutCounter d) || decide (2 ^ 22 ≤ cutAnsBase d) || cutAnsBase d % 64 != 0 ||
  cutStride d % 64 != 0 || decide (cutStride d < cutAnsLen d + 4) || decide (256 < cutAnsLen d) || decide (10000 < df d 32 4) ||
  decide (cutTplLen d < 60) || decide (256 < cutTplLen d) || df d 38 1 == 0 || decide (16 < df d 38 1) || decide (16 < df d 39 1) ||
  !((d.drop 648).all (fun b => b == 0)) ||
  !((portsFitted s).contains (cutPort n)) || cutCoreBad s d (cutCore d) || cutCoreBad s d (cutOutCore d) ||
  decide (2 ^ 22 < cutSlotBase d + cutSlots d * cutSlotSize d) ||
  decide (2 ^ 22 < cutAnsBase d + (cutSlots d - 1) * cutStride d + cutAnsLen d + 4) ||
  (rangeFrom 0 4).any (matchBad d) || (cutSteps d).any (stepBad d) || (cutPatches d).any (patchBad d) ||
  decide (ledN s 0x5110 2 < cutReserved s (coreCluster (cutCore d) % 2) (cutCore d) + cutSlotSize d)

/-! ## Enabling (R337, R341) -/

/-- A write of `CUT_CTRL` with `enable` = 1. -/
def cutEnable (s : State) : State :=
  let n := s.cut.sel % 64
  if !(cutFitted s.part) then s
  else if (cutRuleOf s n).enable then modCut n (fun r => { r with cfgError := false }) s
  else
    let d := ledBytes s 0x3300 (n + 1)
    if cutRefused s n d then modCut n (fun r => { r with cfgError := true }) s
    else modCut n (fun _ => { desc := d, enable := true, active := s.cut.pd23 }) s

/-- A write of `CUT_CTRL` with `enable` = 0. -/
def cutDisable (s : State) : State :=
  let n := s.cut.sel % 64
  if !(cutFitted s.part) then s
  else
    let s := modCut n (fun r => { r with cfgError := false }) s
    if (cutRuleOf s n).enable then cutOff n s else s

/-- CUT_RULE_ENABLE. -/
def execCutRuleEnable (value : W32) (s : State) : Host.Outcome State Fault Refusal :=
  .next (if bitOf value.toNat 0 then cutEnable s else s)

/-- CUT_RULE_DISABLE. -/
def execCutRuleDisable (value : W32) (s : State) : Host.Outcome State Fault Refusal :=
  .next (if bitOf value.toNat 0 then s else cutDisable s)

/-- PD23_POWER_ON: the domain is on while a rule is enabled, and its rules become active (R20, R337). -/
def execPd23PowerOn (s : State) : Host.Outcome State Fault Refusal :=
  .next (
    if s.cut.rules.any (fun p => p.2.enable) then
      { s with cut := { s.cut with
          pd23 := true, rules := s.cut.rules.map (fun p => (p.1, { p.2 with active := p.2.enable })) } }
    else s)

/-! ## Matching and cutting (R332 to R335) -/

/-- A match field passes on a frame's bytes. -/
def matchPasses (d b : List Byte) (i : Nat) : Bool :=
  let at_ := 40 + 24 * i
  let mask := df d (at_ + 16) 8
  mask == 0 || (beNat ((b.drop (df d at_ 2)).take 8) &&& mask) == df d (at_ + 8) 8

/-- The first rule of a port that an express frame matches. -/
def cutMatch (s : State) (port : Nat) (b : List Byte) : Option Nat :=
  ((rangeFrom (16 * port) 16).filter (fun n =>
    let r := cutRuleOf s n
    r.enable && r.active && decide (cutMin r.desc ≤ b.length) && decide (b.length ≤ cutMax r.desc) &&
    (rangeFrom 0 4).all (matchPasses r.desc b))).head?

/-- One element of a cut step. -/
def stepElem (op : Nat) (shift : Int) (b : List Byte) : List Byte :=
  let v := beNat b
  match op with
  | 1 => b
  | 2 => leBytes 2 (toBf16 rneShift (intShift (signedOf 16 v) shift))
  | 3 => leBytes 4 (toFp32 (intShift (signedOf 32 v) shift)).toNat
  | 4 => leBytes 4 (toFp32 (intShift (signedOf 64 v) shift)).toNat
  | 5 => leBytes 2 (toBf16 rneShift (intShift (signedOf 32 v) shift))
  | 6 => leBytes 1 (toTwos 8 (toSigned rneShift 8 (intShift (signedOf 32 v) shift)))
  | 7 => leBytes 2 (toBf16 rneShift (ofFp32 (BitVec.ofNat 32 v)))
  | _ => [0]

/-- What a step writes. -/
def stepBytes (b : List Byte) (o : CutOp) : List Byte :=
  ((rangeFrom 0 o.count).map (fun i =>
    stepElem o.op o.param ((b.drop (o.a + stepIn o.op * i)).take (stepIn o.op)))).flatten

/-- The slot header. -/
def slotHeader (s : State) (n seq port len : Nat) : List Byte :=
  leBytes 4 (seq % 2 ^ 24) ++ leBytes 2 len ++ leBytes 1 port ++ leBytes 1 n ++ leBytes 8 s.now

/-- Everything the cutter writes for a frame, as offset in the slot and bytes. -/
def cutWrites (s : State) (n port : Nat) (b : List Byte) : List (Nat × List Byte) :=
  let r := cutRuleOf s n
  (0, slotHeader s n r.nextSeq port b.length) :: (cutSteps r.desc).map (fun o => (16 + o.b, stepBytes b o))

/-- The lowest-numbered free slot. -/
def freeSlot (r : CutRule) : Option Nat :=
  ((rangeFrom 0 (cutSlots r.desc)).filter (fun k => !(r.reqs.any (fun q => q.slot == k)))).head?

def slotAddr (d : List Byte) (k : Nat) : Nat := scratchBase (cutCore d) + cutSlotBase d + k * cutSlotSize d

/-- What the cutter makes of a frame that matched a rule. -/
inductive CutEnd where
  /-- Cut: the ordinary path gets a copy if the mirror bit is set. -/
  | cut (mirror : Bool)
  /-- Not cut: the ordinary path takes it. -/
  | missed
deriving DecidableEq, Repr

/-- The cutter takes a slot and writes it; `good` tells whether the frame ends well. A request that does not is not
signalled, and how much of it was written before its end is not known (R335). -/
def cutFrame (n port : Nat) (good : Bool) (b : List Byte) (s : State) : CutEnd × State :=
  let r := cutRuleOf s n
  if coreDark s (cutCore r.desc) then (.missed, askWake (coreDie (cutCore r.desc)) (bump 0x9044 3 1 s))
  else match freeSlot r with
    | none => (.missed, bump 0x9044 2 1 s)
    | some k =>
      let a := slotAddr r.desc k
      if good then
        let s := foldS (fun w t => memWrite .scratch (a + w.1) w.2 t) (cutWrites s n port b) s
        let q : CutReq := { slot := k, st := .filling r.nextSeq, header := b.take 128, arrival := s.now }
        (.cut (bitOf (df r.desc 1 1) 0), modCut n (fun r => { r with
          reqs := r.reqs ++ [q], nextSeq := (r.nextSeq + 1) % 2 ^ 24 }) s)
      else
        let list := ((cutWrites s n port b).map (fun w => (rangeFrom 0 w.2.length).zip w.2 |>.map (fun p => (w.1 + p.1, p.2)))).flatten
        let done := list.take ((drawOf s).toNat % (list.length + 1))
        (.missed, bump 0x9044 4 1 (drawn (foldS (fun w t => memWrite .scratch (a + w.1) [w.2] t) done s)))

/-- The request in a slot. -/
def reqAt (r : CutRule) (slot : Nat) : Option CutReq := (r.reqs.filter (fun q => q.slot == slot)).head?

/-- CUTTER_INCREMENT: the FCS was good and every write is written; the bound semaphore advances (R334). -/
def execCutterIncrement (rule slot : Nat) (s : State) : Host.Outcome State Fault Refusal :=
  .next (
    let r := cutRuleOf s rule
    match reqAt r slot with
    | some q => (match q.st with
      | .filling seq =>
        let s := modCut rule (fun r => { r with reqs := r.reqs.map (fun x =>
          if x.slot = slot then { x with st := .pending seq s.now } else x) }) s
        semAdd (cutCore r.desc) (cutSem r.desc) 1 (bump 0x9044 1 1 s)
      | .pending _ _ => s)
    | none => s)

/-! ## Answers (R338 to R341) -/

/-- Bytes put over a frame at an offset. -/
def putAt (f : List Byte) (off : Nat) (b : List Byte) : List Byte := f.take off ++ b ++ f.drop (off + b.length)

/-- The UDP checksum over IPv6: the header at `ip`, the datagram from `udp` to the frame's end. -/
def udp6Sum (f : List Byte) (ip udp : Nat) : Nat :=
  let g := putAt f (udp + 6) [0, 0]
  let d := g.drop udp
  let sum := inetSum ((g.drop (ip + 8)).take 32 ++ beBytes 4 d.length ++ beBytes 4 17 ++ d)
  if sum = 0 then 0xFFFF else sum

/-- One patch: `header` the request header, `ans` the answer bytes. -/
def patchFrame (seq arrival : Nat) (header ans f : List Byte) (o : CutOp) : List Byte :=
  let value (w i : Nat) : List Byte :=
    beBytes (w / 8) (toTwos w (toSigned rneShift w
      (numShift (ofFp32 (BitVec.ofNat 32 (df ans (o.b + 4 * i) 4))) o.param)))
  match o.op with
  | 1 => putAt f o.a (((header ++ List.replicate 128 0).drop o.b).take o.count)
  | 2 => putAt f o.a ((ans.drop o.b).take o.count)
  | 3 => putAt f o.a ((rangeFrom 0 o.count).map (value 32)).flatten
  | 4 => putAt f o.a ((rangeFrom 0 o.count).map (value 64)).flatten
  | 5 => putAt f o.a (beBytes 4 seq)
  | 6 => putAt f o.a (beBytes 8 arrival)
  | 7 => putAt f (o.a + 10) (beBytes 2 (inetSum ((putAt f (o.a + 10) [0, 0]).drop o.a |>.take 20)))
  | 8 => putAt f (o.a + 6) (beBytes 2 (udp6Sum f o.b o.a))
  | _ => f

/-- The answer frame, without its FCS. -/
def answerFrame (d : List Byte) (seq arrival : Nat) (header ans : List Byte) : List Byte :=
  (cutPatches d).foldl (patchFrame seq arrival header ans) ((d.drop 392).take (cutTplLen d))

/-- A slot is released. -/
def releaseSlot (rule slot : Nat) (s : State) : State :=
  modCut rule (fun r => { r with reqs := r.reqs.filter (fun q => q.slot != slot) }) s

/-- The stamp hands a frame to the express MAC (R340); a port that is down takes none (R347). -/
def pushExpress (port : Nat) (f : TxFrame) (s : State) : State :=
  if (portOf s port).linkUp then modPort port (fun x => { x with express := x.express ++ [f] }) s else s

/-- The stamp reads the answer area of the oldest pending request. -/
def stampRead (rule : Nat) (s : State) : State :=
  let r := cutRuleOf s rule
  match (r.reqs.filter isPending).head? with
  | none => bump 0x9044 9 1 s
  | some q =>
    let d := r.desc
    let seq := match q.st with
      | .pending n _ => n
      | .filling n => n
    let a := scratchBase (cutOutCore d) + cutAnsBase d + q.slot * cutStride d
    match badIn .scratch a (4 + cutAnsLen d) s with
    | some x => bump 0x9044 8 1 (memEvent (cutFn d) 2 0 x s)
    | none =>
      let b := memRead .scratch a (4 + cutAnsLen d) s
      if df b 0 3 ≠ seq then bump 0x9044 8 1 s
      else if bitOf (df b 3 1) 7 then releaseSlot rule q.slot (bump 0x9044 6 1 s)
      else
        let f : TxFrame := { bytes := answerFrame d seq q.arrival q.header (b.drop 4), express := true, cls := 0, at_ := s.now }
        releaseSlot rule q.slot (pushExpress (cutPort rule) f (bump 0x9044 5 1 s))

/-- STAMP_READ_COMPLETE: one advance of the rule's counter is served. -/
def execStampReadComplete (rule : Nat) (s : State) : Host.Outcome State Fault Refusal :=
  .next (
    let r := cutRuleOf s rule
    if !r.enable || r.reads == 0 then s
    else stampRead rule (modCut rule (fun r => { r with reads := r.reads - 1 }) s))

/-- ANSWER_TIMEOUT (R341). -/
def execAnswerTimeout (rule slot : Nat) (s : State) : Host.Outcome State Fault Refusal :=
  .next (
    let r := cutRuleOf s rule
    match reqAt r slot with
    | some q => (match q.st with
      | .pending _ t => releaseSlot rule slot (bump 0x9044 7 1 (advanceTo (t + cutTimeout r.desc) s))
      | .filling _ => s)
    | none => s)

end Sys2Proof.Machine
end

