-- ==== Sys2Proof/Machine/Multicast.lean ====
section
/-! DEFINITION. MULTICAST_WRITE and line contexts on the sending side (R198 to R201), and entries that wait for a context
(R117). -/

namespace Sys2Proof.Machine

open Sys2Proof

/-! ## MULTICAST_WRITE -/

/-- The message of a MULTICAST_WRITE joins its line's context, which opens first where it is not open (R200). -/
def sendMulticast (q : QRef) (idx : Nat) (e : Entry) (s : State) : State :=
  let peer := lineId s (eAxis e)
  let waits (b : Bool) (t : State) : State :=
    modQueue q (fun x => { x with taken := x.taken.map (fun k =>
      if k.idx = idx ∧ k.status.isNone = true then { k with waitsContext := b, info := eBitmap e } else k) }) t
  if (linePositions s (eAxis e)).isEmpty then completeWith q idx stPartial 0 0 0 2 s else
  match allocCtx peer s with
  | (false, s) => waits true s
  | (true, s) =>
    let p := entryProto s q idx e .data
      (.multicast (eKey e) (BitVec.ofNat 64 (eOffset e)) (globalQp s q) (eAxis e) (eBitmap e))
      (.va (queueFn q) (BitVec.ofNat 64 (eLocal e)))
    queueMsgs peer p (eLength e) (waits false s)

/-- Segment and right of the whole source are checked when the entry is taken (R303); a module without a position reaches no other
(R183). -/
def startMulticast (q : QRef) (idx : Nat) (e : Entry) (s : State) : State :=
  if s.wall.pos.isNone then complete q idx stFenced 0 0 s else
  match xlateRights s (queueFn q) (eLocal e) (eLength e) false with
  | .fault st a => complete q idx st (BitVec.ofNat 64 a) 0 s
  | _ => sendMulticast q idx e s

/-- MULTICAST_WRITE (R198 to R201). -/
def execMulticastWrite (q : QRef) (e : Entry) (s : State) : Host.Outcome State Fault Refusal :=
  .next (if eOp e = 0x07 then offer noHold startMulticast q e s else s)

/-- LINE_CONTEXT_REOPEN (R200): a live, unfenced position is not a member, and no packet is outstanding. -/
def execLineContextReopen (axis : Nat) (s : State) : Host.Outcome State Fault Refusal :=
  .next (
    let peer := lineId s (axis % 2)
    match ctxOf s peer with
    | some c =>
      if c.st = .opened && c.outs.isEmpty && (linePositions s (axis % 2)).any (fun n => !(bitOf c.members.toNat n)) then
        openLine peer (bump 0x9041 0x0E 1 s)
      else s
    | none => s)

/-- The wall map has changed: members that it shows fenced or unreachable leave this module's lines (R201). -/
def lineWallCheck (s : State) : State :=
  foldS (fun axis t =>
    let peer := lineId t axis
    match ctxOf t peer with
    | some c =>
      let live := bitmapOf (linePositions t axis)
      let waiting := c.memberAcks.foldl (fun b p => b ||| p.2) c.members
      if c.st != .unopened && (waiting &&& ~~~live) != 0 then dropMembers peer (waiting &&& ~~~live) t else t
    | none => t) [0, 1] s

/-! ## Waiting for a context (R117) -/

/-- TALLY_CONTEXT_AVAILABLE: an entry that waits for a free context gets one, if one is free or can be reclaimed. -/
def execTallyContextAvailable (q : QRef) (idx : Nat) (s : State) : Host.Outcome State Fault Refusal :=
  .next (match takenAt? s q idx with
    | some t =>
      if !t.waitsContext then s
      else if eOp t.entry = 0x07 then sendMulticast q idx t.entry s else sendEntry q idx t.entry s
    | none => s)

/-- No packet of an entry has left, and a message of it waits in an Ethernet-form context while no local port is usable (R109). -/
def portWaits (s : State) (q : QRef) (t : Taken) : Bool :=
  !t.sent && (usablePorts s).isEmpty &&
  s.enpin.ctxs.any (fun p => p.2.ethForm && p.2.msgs.any (fun m => decide (m.owner = .entry q t.idx)))

/-- CONTEXT_WAIT_GIVE_UP: no context came free, or no port usable, before the entry's give-up time. -/
def execContextWaitGiveUp (q : QRef) (idx : Nat) (s : State) : Host.Outcome State Fault Refusal :=
  .next (match takenAt? s q idx with
    | some t =>
      if t.waitsContext || portWaits s q t then complete q idx stTimeout 0 0 (advanceTo (t.takenAt + timerN s 2 t.takenAt) s) else s
    | none => s)

end Sys2Proof.Machine
end

