-- ==== Sys2Proof/Machine/Receive.lean ====
section
/-! DEFINITION. The commands of a sequenced packet's arrival by type (R83, R71, R120, R241), and of a context that has been
fetched (R142). -/

namespace Sys2Proof.Machine

open Sys2Proof

/-- Admission and execution of every sequenced type. -/
def rxOps : RxOps :=
  { judge := fun rx p s => if p.ptype = .collective then ringAdmit p s else dataAdmit rx p s
    exec := fun rx p s => if p.ptype = .collective then ringExec p s else dataExec rx p s }

/-- A packet of one type arrives and is handled as a packet of an open context. -/
def receiveType (t : PType) (rx : RxInfo) (p : Packet) (s : State) : State :=
  if p.ptype = t ∧ p.epoch ≠ 0 ∧ isSequenced p = true then receiveSeq rxOps rx p s else s

/-- DATA_RECEIVE (R71). -/
def execDataReceive (rx : RxInfo) (p : Packet) (s : State) : Host.Outcome State Fault Refusal := .next (receiveType .data rx p s)

/-- READ_REQUEST_RECEIVE (R89). -/
def execReadRequestReceive (rx : RxInfo) (p : Packet) (s : State) : Host.Outcome State Fault Refusal :=
  .next (receiveType .readRequest rx p s)

/-- READ_RESPONSE_RECEIVE (R89). -/
def execReadResponseReceive (rx : RxInfo) (p : Packet) (s : State) : Host.Outcome State Fault Refusal :=
  .next (receiveType .readResponse rx p s)

/-- ATOMIC_RECEIVE (R90). -/
def execAtomicReceive (rx : RxInfo) (p : Packet) (s : State) : Host.Outcome State Fault Refusal :=
  .next (receiveType .atomic rx p s)

/-- ATOMIC_RESPONSE_RECEIVE (R90). -/
def execAtomicResponseReceive (rx : RxInfo) (p : Packet) (s : State) : Host.Outcome State Fault Refusal :=
  .next (receiveType .atomicResponse rx p s)

/-- ABORT_RECEIVE (R107). -/
def execAbortReceive (rx : RxInfo) (p : Packet) (s : State) : Host.Outcome State Fault Refusal :=
  .next (receiveType .abort rx p s)

/-- FALLBACK_RING_RECEIVE (R241). -/
def execFallbackRingReceive (rx : RxInfo) (p : Packet) (s : State) : Host.Outcome State Fault Refusal :=
  .next (receiveType .collective rx p s)

/-- OPENING_RECEIVE (R120): a sequenced packet with epoch 0. -/
def execOpeningReceive (rx : RxInfo) (p : Packet) (s : State) : Host.Outcome State Fault Refusal :=
  .next (if p.epoch = 0 ∧ isSequenced p = true then receiveSeq rxOps rx p s else s)

/-- CONTEXT_FETCH_COMPLETE (R142): a tally context, or a QP context, is on chip. -/
def execContextFetchComplete (ks : Nat) (peer : W32) (qp : Option Nat) (result : ScrubResult) (s : State) :
    Host.Outcome State Fault Refusal := .next (fetchDone rxOps ks peer qp result s)

end Sys2Proof.Machine
end

