-- ==== Sys2Proof/Machine/Wall.lean ====
section
/-! DEFINITION. The wall's links, frames and map: link state and idle flits (R177 to R179, R182, R183), announcements (R184),
frames arriving and leaving (R176, R186 to R189, R199), circuits (R191 to R196), module fences (R197). -/

namespace Sys2Proof.Machine

open Sys2Proof

/-! ## Circuits at this router (R191, R196) -/

/-- The hops of a circuit's path are all whole in the wall map. -/
def pathOpen (s : State) (k : Circuit) : Bool :=
  let a := frameDest k.source
  let b := frameDest k.dest
  let n := max 1 s.wall.sizeX
  let m := max 1 s.wall.sizeY
  let hx := if k.dx = 0 then ringUp a.1 b.1 n else ringDown a.1 b.1 n
  let hy := if k.dy = 3 then ringUp a.2 b.2 m else ringDown a.2 b.2 m
  legOpen s k.dx hx a && legOpen s k.dy hy (b.1, a.2)

/-- A frame of a circuit that waits here. -/
def circuitFrame (k : Circuit) (r : RFrame) : Bool :=
  r.f.vc == 4 && r.f.aux.toNat % 65536 == k.handle.toNat % 65536 && r.inLink == k.inLink && r.out == k.outLink && r.f.aux.toNat / 65536 % 8 == k.outQueue

/-- Free the input buffers of frames that are dropped. -/
def dropFrames (l : List RFrame) (s : State) : State :=
  foldS (fun r t =>
    let t := { t with wall := { t.wall with frames := dropFirst r t.wall.frames } }
    match r.inLink with
    | some i => freeBuffers i r.inClass (flitsOf r.bytes) t
    | none => t) l s

/-- A circuit whose path is broken ends here; at its source the course stays allocated until it is lifted. -/
def breakCircuit (k : Circuit) (s : State) : State :=
  let s := dropFrames (s.wall.frames.filter (circuitFrame k)) s
  let s := { s with wall := { s.wall with circuits := s.wall.circuits.filter (fun x => !(decide (x = k))) } }
  let s := bump 0x9039 4 1 s
  if k.inLink.isSome then s
  else match (s.wall.courses.filter (fun c => c.handle == k.handle)).head? with
    | none => s
    | some c =>
      let setC (f : Course → Course) (t : State) : State :=
        { t with wall := { t.wall with courses := modFirst (fun x => x.handle == c.handle) f t.wall.courses } }
      let gone (t : State) : State := { t with wall := { t.wall with courses := t.wall.courses.filter (fun x => x.handle != c.handle) } }
      match c.waiter with
      | some (q, idx, va) =>
        if c.laid then completeOk q idx (gone s)
        else putResult q idx va (leBytes 4 0 ++ [3]) (gone s)
      | none => setC (fun x => { x with broken := true, bound := false }) s

/-- R196: every circuit across this router whose path the wall map shows broken. -/
def circuitCheck (s : State) : State :=
  foldS (fun k t => if k.passed || pathOpen t k then t else breakCircuit k t) s.wall.circuits s

/-- The wall map has changed: lines, collectives and circuits act on it. -/
def wallChanged (s : State) : State := circuitCheck (lineWallCheck (collWallCheck s))

/-! ## Link state (R179) -/

/-- Fence entries complete once this module's announcements have left (R197). -/
def fencesDone (s : State) : State :=
  let mine := s.wall.frames.any (fun r => match r.f.content with
    | .announce a => a.origin == ownId s
    | _ => false)
  if mine then s
  else foldS (fun w t => completeOk w.1 w.2 t) s.wall.fenceWaits { s with wall := { s.wall with fenceWaits := [] } }

/-- A link goes down: frames queued to it are dropped, the event is raised, the change announced. -/
def bondDown (link : Nat) (s : State) : State :=
  let was := match (linkOf s link).st with
    | .up => true
    | .goingDown => true
    | _ => false
  let s := modLink link (fun l => { l with st := .down }) s
  if !was then s
  else
    let s := dropFrames (s.wall.frames.filter (fun r => r.out == some link)) s
    let s := logFault 4 0x62 link 0 (raiseEvent 0 0x62 0 (ownId s) 0 link 0 (bump (0x9031 + link) 7 1 s))
    fencesDone (wallChanged (announceNow s))

/-- A link comes up. -/
def bondUp (link : Nat) (s : State) : State :=
  wallChanged (announceNow (modLink link (fun l => { l with st := .up }) s))

/-- A link is held down and counted (R182, R183). -/
def holdLink (link : Nat) (s : State) : State :=
  bondDown link (modLink link (fun l => { l with held := true }) (bump (0x9031 + link) 8 1 s))

/-- The link index that the far end of a link must report (R182). -/
def partnerLink (link : Nat) : Nat := 2 * oppositeDir (linkDir link) + link % 2

/-- The axis of a link has size 1: its links are unused (R183). -/
def linkUnused (s : State) (link : Nat) : Bool :=
  s.wall.pos.isSome && (if link < 4 then s.wall.sizeX == 1 else s.wall.sizeY == 1)

/-- What a neighbour reports agrees with this module's position. -/
def flitAgrees (s : State) (link : Nat) (i : IdleFlit) : Bool :=
  i.link == partnerLink link &&
  (match s.wall.pos with
   | some p => !i.posValid || (i.module == idAt s (stepPos s (linkDir link) p) && i.sizeX == s.wall.sizeX && i.sizeY == s.wall.sizeY)
   | none => true)

/-- The module holds a position from now on: its other links are checked, those of an axis of size 1 go out of use, and it
announces itself (R183, R184). -/
def takePosition (x y wall sx sy : Nat) (s : State) : State :=
  let s := { s with wall := { s.wall with pos := some (x, y), wallNumber := wall, sizeX := sx, sizeY := sy } }
  let s := foldS (fun l t =>
    match (linkOf t l).last with
    | some i => if (linkOf t l).st = .down then t else if !(flitAgrees t l i) then holdLink l t
      else if linkUnused t l then bondDown l t else t
    | none => t) (rangeFrom 0 8) s
  wallChanged (announceNow s)

/-- The position that a neighbour's flit gives (R183). -/
def positionFrom (link : Nat) (i : IdleFlit) : Nat × Nat :=
  let nx := max 1 i.sizeX
  let ny := max 1 i.sizeY
  let x := idX i.module
  let y := idY i.module
  match linkDir link with
  | 0 => ((x + nx - 1) % nx, y)
  | 1 => ((x + 1) % nx, y)
  | 2 => (x, (y + 1) % ny)
  | _ => (x, (y + ny - 1) % ny)

/-- A module in discovery mode without a position takes it from a neighbour. -/
def discover (link : Nat) (i : IdleFlit) (s : State) : State :=
  if s.wall.pos.isNone && i.posValid && ledN s 0x3200 5 == 0 && !s.wall.origin && decide (1 ≤ i.sizeX) && decide (1 ≤ i.sizeY) then
    takePosition (positionFrom link i).1 (positionFrom link i).2 (idWall i.module) i.sizeX i.sizeY s
  else s

/-- The freed counts of an idle flit that lie ahead are taken (R178). -/
def takeCredits (i : IdleFlit) (l : Link) : Link :=
  { l with freed := (rangeFrom 0 15).map (fun c =>
      let f := nthD (nthD 0 l.freed c) i.freed c
      if ahead16 f (nthD 0 l.freed c) then f else nthD 0 l.freed c) }

/-- An idle flit arrives (R178, R179, R182, R183). -/
def idleIn (link : Nat) (i : IdleFlit) (s : State) : State :=
  let note (t : State) : State := modLink link (fun l => { takeCredits i l with last := some i, lastIdleAt := t.now }) t
  match (linkOf s link).st with
  | .down => s
  | .training n =>
    if i.link ≠ partnerLink link then holdLink link s
    else
      let s := discover link i (note s)
      if !(flitAgrees s link i) then holdLink link s
      else if i.goingDown then modLink link (fun l => { l with st := .training 0 }) s
      else if linkUnused s link then s
      else if n + 1 < 8 then modLink link (fun l => { l with st := .training (n + 1) }) s
      else bondUp link s
  | _ =>
    let s := discover link i (note s)
    if i.goingDown then bondDown link s
    else if !(flitAgrees s link i) then (if (linkOf s link).st = .down then s else holdLink link s) else s

/-- IDLE_FLIT_RECEIVE, its 320 bytes read as R177 lays them out. -/
def execIdleFlitReceive (link : Nat) (bytes : List Byte) (s : State) : Host.Outcome State Fault Refusal :=
  .next (idleIn link (parseIdle bytes) s)

/-- The idle flit of a link (R177). -/
def idleOf (s : State) (link : Nat) (down : Bool) : IdleFlit :=
  { module := ownId s, link := link, origin := s.wall.origin, posValid := s.wall.pos.isSome, goingDown := down,
    sizeX := if s.wall.pos.isSome then s.wall.sizeX else 0, sizeY := if s.wall.pos.isSome then s.wall.sizeY else 0,
    freed := (linkOf s link).ours }

/-- IDLE_FLIT_SEND (R177): a trained link sends its idle flit, whose counts return every buffer freed so far (R178). -/
def execIdleFlitSend (link : Nat) (s : State) : Host.Outcome State Fault Refusal :=
  .next (match (linkOf s link).st with
    | .down => s
    | st => outEmit (.idle link (idleBytes (idleOf s link (st == .goingDown))))
        (modLink link (fun l => { l with owed := List.replicate 15 0 }) s))

/-- BOND_IDLE_TIMEOUT (R179). -/
def execBondIdleTimeout (link : Nat) (s : State) : Host.Outcome State Fault Refusal :=
  .next (match (linkOf s link).st with
    | .down => s
    | _ => bondDown link (advanceTo ((linkOf s link).lastIdleAt + 768) s))

/-- BOND_FEC_ERROR_LIMIT (R179): the ninth uncorrectable codeword within 1 µs. Codewords of frames are counted with their frames,
the others here (R203). -/
def execBondFecErrorLimit (loss : LinkLoss) (s : State) : Host.Outcome State Fault Refusal :=
  .next (match (linkOf s loss.link).st with
    | .down => s
    | _ => bondDown loss.link (bump (0x9031 + loss.link) 6 loss.uncounted s))

/-- BOND_LINK_TRAINED (R179): codeword lock is held; eight good idle flits are awaited. -/
def execBondLinkTrained (link : Nat) (s : State) : Host.Outcome State Fault Refusal :=
  .next (match (linkOf s link).st with
    | .down =>
      if ledN s 0x3201 (link + 1) = 1 && s.board.clk156 && s.board.supply then
        modLink link (fun l => { l with
          st := .training 0, held := false, last := none, sent := List.replicate 15 0, freed := List.replicate 15 0
          ours := List.replicate 15 0, owed := List.replicate 15 0, recent := [], lastIdleAt := s.now }) s
      else s
    | _ => s)

/-- BOND_GOING_DOWN_EXPIRY (R179). -/
def execBondGoingDownExpiry (link : Nat) (s : State) : Host.Outcome State Fault Refusal :=
  .next (match (linkOf s link).st with
    | .goingDown => bondDown link s
    | _ => s)

/-- `bond_enable` takes effect. -/
def bondEnable (link value : Nat) (s : State) : State :=
  if value ≠ 0 then s
  else match (linkOf s link).st with
    | .up => wallChanged (modLink link (fun l => { l with st := .goingDown }) s)
    | .training _ => bondDown link s
    | _ => s

/-- BOND_ENABLE_WRITE (R179). -/
def execBondEnableWrite (link value : Nat) (s : State) : Host.Outcome State Fault Refusal :=
  .next (bondEnable link (value % 2) (ledCommit 0x3201 (link + 1) [BitVec.ofNat 8 (value % 2)] s))

/-! ## Announcements (R184) -/

/-- A link that carries frames: up, or in its 2 µs of going down. -/
def linkLive (s : State) (link : Nat) : Bool :=
  match (linkOf s link).st with
  | .up => true
  | .goingDown => true
  | _ => false

/-- An announcement arrives. -/
def announceIn (link : Nat) (a : Announce) (s : State) : State :=
  if a.origin = ownId s || !(linkLive s link) then s
  else
    let newer := match tfind s.wall.anns a.origin.toNat with
      | some h => h.a.nonce != a.nonce || ahead16 a.aseq h.a.aseq
      | none => true
    if !newer then s
    else
      let s := { s with wall := { s.wall with anns := tset s.wall.anns a.origin.toNat { a := a, at_ := s.now } } }
      wallChanged (flood a (some link) s)

/-- ANNOUNCEMENT_RECEIVE (R184). -/
def execAnnouncementReceive (link : Nat) (bytes : List Byte) (s : State) : Host.Outcome State Fault Refusal :=
  .next (announceIn link (parseAnnounce bytes) s)

/-- ANNOUNCE_PERIODIC (R184). -/
def execAnnouncePeriodic (s : State) : Host.Outcome State Fault Refusal := .next (announceNow s)

/-- ANNOUNCEMENT_STALE (R184): past 300 ms the module counts as fenced. -/
def execAnnouncementStale (peer : W32) (s : State) : Host.Outcome State Fault Refusal :=
  .next (match tfind s.wall.anns peer.toNat with
    | some h => wallChanged (advanceTo (h.at_ + 300000001) s)
    | none => s)

/-! ## Laying a circuit (R191 to R193) -/

/-- Slots reserved on an output. -/
def slotsUsed (s : State) (link : Nat) : Nat :=
  ((s.wall.circuits.filter (fun k => k.outLink == some link && !k.passed)).map (fun k => k.slots)).foldl (· + ·) 0

/-- Slots of an output's cycle that circuits hold (R191). -/
def slotsHeld (s : State) (link : Nat) : List Nat :=
  ((s.wall.circuits.filter (fun k => k.outLink == some link && !k.passed)).map (fun k => k.places)).flatten

/-- The next free slot of the cycle of 256 from a slot on. -/
def circuitSlot (held : List Nat) : Nat → Nat → Nat
  | 0, i => i % 256
  | n + 1, i => if held.contains (i % 256) then circuitSlot held n (i + 1) else i % 256

/-- A circuit's slots: ⌊i × 256 / k⌋ for i from 0, each moved to the next free slot when taken (R191). -/
def placeSlots (k : Nat) : Nat → List Nat → List Nat
  | 0, _ => []
  | n + 1, held =>
    let p := circuitSlot held 256 ((k - (n + 1)) * 256 / k)
    p :: placeSlots k n (p :: held)

/-- A VC4 queue of the next input that no circuit on an output uses. -/
def freeVcQueue (s : State) (link : Nat) : Option Nat :=
  ((rangeFrom 0 8).filter (fun n => !(s.wall.circuits.any (fun k => k.outLink == some link && k.outQueue == n && !k.passed)))).head?

/-- The output of a circuit at this router, x before y in the given directions. -/
def circuitOut (s : State) (dest : W32) (dx dy : Nat) : Option Nat :=
  match s.wall.pos with
  | some here =>
    let d := frameDest dest
    if here.1 ≠ d.1 then plumbLink s dx d else if here.2 ≠ d.2 then plumbLink s dy d else none
  | none => none

/-- Reserve an output and the next input's queue, and pass the lay on; or the cause for which it is refused. -/
def reserveCircuit (c : CircuitCtl) (inLink : Option Nat) (s : State) : Nat × State :=
  match circuitOut s c.dest c.dx c.dy with
  | none => (3, s)
  | some l =>
    if ledN s 0x3210 3 < slotsUsed s l + c.slots then (1, s)
    else match freeVcQueue s l with
      | none => (2, s)
      | some n =>
        let k : Circuit := { handle := c.handle, source := c.source, dest := c.dest, slots := c.slots, inLink := inLink,
                             outLink := some l, queue := c.queue, outQueue := n, dx := c.dx, dy := c.dy
                             places := placeSlots c.slots c.slots (slotsHeld s l) }
        if !(pathOpen s k) then (3, s)
        else
          let s := { s with wall := { s.wall with circuits := s.wall.circuits ++ [k] } }
          (0, pushHop { vc := 1, src := ownId s, dst := ownId s, content := .circuit { c with queue := n } } l s)

/-- A circuit-control frame on a link. -/
def sendCircuit (c : CircuitCtl) (link : Nat) (s : State) : State :=
  pushHop { vc := 1, src := ownId s, dst := ownId s, content := .circuit c } link s

/-- The result block of a lay (R193). -/
def layBlock (handle : W32) (cause : Nat) (at_ : W32) : List Byte :=
  leBytes 4 handle.toNat ++ [BitVec.ofNat 8 cause, 0, 0, 0] ++ leBytes 4 at_.toNat

/-- CIRCUIT_LAY once taken. -/
def startCircuitLay (q : QRef) (idx : Nat) (e : Entry) (s : State) : State :=
  let va := BitVec.ofNat 64 (eLocal e)
  withRange q idx (eLocal e) 16 true (fun s =>
    let dest := eDest e
    let qp := eDestQp e
    match s.wall.pos with
    | none => putResult q idx va (layBlock 0 3 0) s
    | some here =>
      let d := frameDest dest
      let dx := if here.1 = d.1 then some 0 else plumbLeg s true here (d.1, here.2)
      let dy := if here.2 = d.2 then some 3 else plumbLeg s false (d.1, here.2) d
      if (tfind s.wall.anns dest.toNat).isNone then putResult q idx va (layBlock 0 3 0) s
      else if s.wall.courses.any (fun c => c.bound && c.qp == qp && c.dest == dest) then putResult q idx va (layBlock 0 4 0) s
      else match dx, dy with
        | some dx, some dy =>
          let h := BitVec.ofNat 32 s.wall.nextHandle
          let c : CircuitCtl := { handle := h, source := ownId s, dest := dest, slots := ef e 44 1, phase := .lay, dx := dx, dy := dy }
          match reserveCircuit c none s with
          | (0, s) =>
            { s with wall := { s.wall with
                nextHandle := s.wall.nextHandle + 1
                courses := s.wall.courses ++ [{ handle := h, dest := dest, qp := qp, slots := ef e 44 1, waiter := some (q, idx, va) }] } }
          | (cause, s) => putResult q idx va (layBlock 0 cause (if cause = 3 then 0 else ownId s)) s
        | _, _ => putResult q idx va (layBlock 0 3 0) s) s

/-- CIRCUIT_LAY (R192, R193). -/
def execCircuitLay (q : QRef) (e : Entry) (s : State) : Host.Outcome State Fault Refusal :=
  .next (if eOp e = 0x92 then offer noHold startCircuitLay q e s else s)

/-- The entry of a circuit of a source. -/
def circuitAt (s : State) (c : CircuitCtl) : Option Circuit :=
  (s.wall.circuits.filter (fun k => k.handle == c.handle && k.source == c.source)).head?

def modCircuit (k : Circuit) (f : Circuit → Circuit) (s : State) : State :=
  { s with wall := { s.wall with circuits := modFirst (fun x => x.handle == k.handle && x.source == k.source) f s.wall.circuits } }

def delCircuit (k : Circuit) (s : State) : State :=
  { s with wall := { s.wall with circuits := s.wall.circuits.filter (fun x => !(x.handle == k.handle && x.source == k.source)) } }

/-- A lift goes on once the router's frames of the circuit have left (R195). -/
def liftOn (k : Circuit) (s : State) : State :=
  if k.passed || !k.lifting || s.wall.frames.any (circuitFrame k) then s
  else
    let c : CircuitCtl := { handle := k.handle, source := k.source, dest := k.dest, slots := k.slots, phase := .lift, dx := k.dx, dy := k.dy }
    match k.outLink with
    | some l => sendCircuit c l (modCircuit k (fun x => { x with passed := true }) s)
    | none => s

/-- The source hears how its lay ended. -/
def layAnswer (c : CircuitCtl) (s : State) : State :=
  match (s.wall.courses.filter (fun x => x.handle == c.handle)).head? with
  | none => s
  | some x =>
    match x.waiter, c.phase with
    | some (q, idx, va), .laid =>
      if x.laid then s else
      let set (y : Course) : Course := { y with laid := true, bound := true, waiter := none }
      let s := { s with wall := { s.wall with courses := modFirst (fun y => y.handle == c.handle) set s.wall.courses } }
      putResult q idx va (layBlock c.handle 0 0) s
    | some (q, idx, va), .refused cause =>
      if x.laid then s else
      let s := { s with wall := { s.wall with
        courses := s.wall.courses.filter (fun y => y.handle != c.handle)
        circuits := s.wall.circuits.filter (fun k => !(k.handle == c.handle && k.source == ownId s)) } }
      putResult q idx va (layBlock 0 cause c.refusedAt) s
    | _, _ => s

/-- The source hears that its lift has reached the far end. -/
def liftAnswer (c : CircuitCtl) (s : State) : State :=
  match c.phase, (s.wall.courses.filter (fun x => x.handle == c.handle && x.laid)).head? with
  | .lifted, some x =>
    let s := { s with wall := { s.wall with
      courses := s.wall.courses.filter (fun y => y.handle != c.handle)
      circuits := s.wall.circuits.filter (fun k => !(k.handle == c.handle && k.source == ownId s)) } }
    match x.waiter with
    | some (q, idx, _) => completeOk q idx s
    | none => s
  | _, _ => s

/-- A circuit-control frame at a router that is not the answer's end. -/
def circuitIn (link : Nat) (c : CircuitCtl) (s : State) : State :=
  if !(linkUp s link) then s else
  match c.phase with
  | .lay =>
    if (circuitAt s c).isSome then s
    else if c.dest = ownId s then
      let k : Circuit := { handle := c.handle, source := c.source, dest := c.dest, slots := c.slots, inLink := some link,
                           outLink := none, queue := c.queue, outQueue := 0, dx := c.dx, dy := c.dy }
      sendCircuit { c with phase := .laid } link { s with wall := { s.wall with circuits := s.wall.circuits ++ [k] } }
    else (match reserveCircuit c (some link) s with
      | (0, s) => s
      | (cause, s) => sendCircuit { c with phase := .refused cause, refusedAt := ownId s } link s)
  | .lift =>
    (match circuitAt s c with
     | none => s
     | some k =>
       if k.outLink.isNone then sendCircuit { c with phase := .lifted } link (delCircuit k s)
       else
         let s := modCircuit k (fun x => { x with lifting := true }) s
         liftOn { k with lifting := true } s)
  | .laid =>
    (match circuitAt s c with
     | some k => (match k.inLink with
       | some l => sendCircuit c l s
       | none => s)
     | none => s)
  | .refused _ =>
    (match circuitAt s c with
     | some k => (match k.inLink with
       | some l => sendCircuit c l (delCircuit k s)
       | none => s)
     | none => s)
  | .lifted =>
    (match circuitAt s c with
     | some k => (match k.inLink with
       | some l => sendCircuit c l (delCircuit k s)
       | none => s)
     | none => s)

/-- CIRCUIT_CONTROL_RECEIVE (R193, R195). -/
def execCircuitControlReceive (link : Nat) (c : CircuitCtl) (s : State) : Host.Outcome State Fault Refusal := .next (circuitIn link c s)

/-- CIRCUIT_LAY_ANSWER (R193). -/
def execCircuitLayAnswer (link : Nat) (c : CircuitCtl) (s : State) : Host.Outcome State Fault Refusal :=
  .next (if linkUp s link ∧ c.source = ownId s then layAnswer c s else s)

/-- CIRCUIT_LIFT once taken (R195, R196). -/
def startCircuitLift (q : QRef) (idx : Nat) (e : Entry) (s : State) : State :=
  match (s.wall.courses.filter (fun x => x.handle == eKey e && x.laid && x.waiter.isNone)).head? with
  | none => completeOk q idx s
  | some x =>
    if x.broken then completeOk q idx { s with wall := { s.wall with courses := s.wall.courses.filter (fun y => y.handle != x.handle) } }
    else
      let set (y : Course) : Course := { y with bound := false, waiter := some (q, idx, 0) }
      let s := { s with wall := { s.wall with courses := modFirst (fun y => y.handle == x.handle) set s.wall.courses } }
      match circuitOf s x.handle with
      | some k => liftOn { k with lifting := true } (modCircuit k (fun y => { y with lifting := true }) s)
      | none => s

/-- CIRCUIT_LIFT (R195). -/
def execCircuitLift (q : QRef) (e : Entry) (s : State) : Host.Outcome State Fault Refusal :=
  .next (if eOp e = 0x93 then offer noHold startCircuitLift q e s else s)

/-- CIRCUIT_LIFT_ANSWER (R195). -/
def execCircuitLiftAnswer (link : Nat) (c : CircuitCtl) (s : State) : Host.Outcome State Fault Refusal :=
  .next (if linkUp s link ∧ c.source = ownId s then liftAnswer c s else s)

/-! ## Module fences (R197) -/

def startModuleFence (on : Bool) (q : QRef) (idx : Nat) (_ : Entry) (s : State) : State :=
  let s := { s with wall := { s.wall with fenced := on, fenceWaits := s.wall.fenceWaits ++ [(q, idx)] } }
  fencesDone (wallChanged (announceNow s))

/-- FENCE_MODULE (R197). -/
def execFenceModule (q : QRef) (e : Entry) (s : State) : Host.Outcome State Fault Refusal :=
  .next (if eOp e = 0x94 then offer noHold (startModuleFence true) q e s else s)

/-- UNFENCE_MODULE (R197). -/
def execUnfenceModule (q : QRef) (e : Entry) (s : State) : Host.Outcome State Fault Refusal :=
  .next (if eOp e = 0x95 then offer noHold (startModuleFence false) q e s else s)

/-! ## Frames arrive (R176, R189, R199) -/

/-- Hand a packet to the internal port of the Keystone that received it. -/
def toInternal (link : Nat) (mark : Bool) (p : Packet) (s : State) : State :=
  { s with eth := { s.eth with internal := s.eth.internal ++ [({ ks := linkKs link, link := some link, marked := mark }, p)] } }

/-- A packet that travels one hop: the tie lane and the mortar units consume it. -/
def oneHop (f : BondFrame) (p : Packet) : Bool := f.vc == 0 || (p.ptype == .collective && !(isSequenced p))

/-- A branching router (R199): the copy goes inward, and on until the last position of its half. -/
def branchIn (link : Nat) (f : BondFrame) (deliver : State → State) (seq : Bool) (bytes cls : Nat) (s : State) : State :=
  match s.wall.pos with
  | none =>
    pushFrame { f := f, inLink := some link, at_ := s.now, inClass := cls, sequenced := seq, bytes := bytes } s
  | some here =>
    let s := if s.wall.fenced then bump 0x9039 3 1 s else deliver s
    let dir := oppositeDir (linkDir link)
    let src := frameDest f.src
    let alongX := decide (dir < 2)
    let n := if alongX then s.wall.sizeX else s.wall.sizeY
    let a := if alongX then src.1 else src.2
    let b := if alongX then here.1 else here.2
    let up := decide (dir = 0 ∨ dir = 3)
    let d := if up then ringUp a b n else ringDown a b n
    let last := if up then n / 2 else n - 1 - n / 2
    if d < last && !(hopBroken s here dir) && (lineLink s dir).isSome then
      pushFrame { f := f, inLink := some link, at_ := s.now, out := lineLink s dir, inClass := cls, sequenced := seq,
                  bytes := bytes } s
    else freeBuffers link cls (flitsOf bytes) s

/-- A good frame with Enpin content: here it is delivered, `hop` marking one that goes no further, else it goes on. A module
without a position keeps it until it knows where it stands (R183; DESIGN CHOICE, assumption 77). -/
def carryIn (link : Nat) (f : BondFrame) (deliver : State → State) (hop seq : Bool) (s : State) : State :=
  let bytes := frameBytes f
  let cls := creditClass f.vc (if f.vc = 3 then f.lane else f.aux.toNat / 65536)
  let free (t : State) : State := freeBuffers link cls (flitsOf bytes) t
  if f.multicast then branchIn link f deliver seq bytes cls s
  else if hop then free (deliver s)
  else if f.vc = 4 then
    match (s.wall.circuits.filter (fun k => !k.passed && k.inLink == some link && k.queue == f.aux.toNat / 65536 % 8)).head? with
    | none => free (bump 0x9039 1 1 s)
    | some k =>
      match k.outLink with
      | none => free (deliver s)
      | some l =>
        pushFrame { f := { f with aux := BitVec.ofNat 32 (k.handle.toNat % 65536 + k.outQueue * 65536) }, inLink := some link,
                    at_ := s.now, out := some l, fixed := true, inClass := cls, sequenced := seq, bytes := bytes } s
  else if s.wall.pos.isNone then
    pushFrame { f := f, inLink := some link, at_ := s.now, inClass := cls, sequenced := seq, bytes := bytes } s
  else if !(inWall s f.dst) then free (bump 0x9039 1 1 s)
  else if s.wall.pos = some (frameDest f.dst) then free (deliver s)
  else if destDown s f.dst then free (bump 0x9039 2 1 s)
  else
    let yx := decide (2 ≤ f.lane)
    let out := if f.vc = 3 then
        (match s.wall.pos with
         | some here => (plumbDir s yx here (frameDest f.dst)).bind (fun d => plumbLink s d (frameDest f.dst))
         | none => none)
      else preferredOut s f.vc (flitsOf bytes) f.dst
    pushFrame { f := f, inLink := some link, at_ := s.now, yx := yx, out := out, inClass := cls, sequenced := seq,
                bytes := bytes } s

/-- A good frame with a packet. -/
def packetIn (link : Nat) (f : BondFrame) (p : Packet) (s : State) : State :=
  carryIn link f (toInternal link f.mark p) (oneHop f p) (isSequenced p) s

/-- The counter of a wire check (R101): the subindex of 0x9040. -/
def wireSub (e : WireErr) : Nat :=
  match e with
  | .badType => 3 | .badLength => 5

/-- The class whose buffers a frame holds at its input. -/
def frameClass (f : BondFrame) : Nat := creditClass f.vc (if f.vc = 3 then f.lane else f.aux.toNat / 65536)

/-- A good frame arrives. -/
def goodIn (link : Nat) (f : BondFrame) (s : State) : State :=
  let free (t : State) : State := freeBuffers link (frameClass f) (flitsOf (frameBytes f)) t
  match f.content with
  | .reservedKind => free (bump (0x9031 + link) 3 1 s)
  | .announce a => announceIn link a (free s)
  | .circuit c =>
    let s := free s
    if c.source = ownId s then
      (match c.phase with
       | .laid => layAnswer c s
       | .refused _ => layAnswer c s
       | .lifted => liftAnswer c s
       | _ => s)
    else circuitIn link c s
  | .packet p => packetIn link f p s
  | .malformed e _ => carryIn link f (bump 0x9040 (wireSub e) 1) (f.vc == 0) false s

/-! ## Frames leave (R181, R186 to R191) -/

/-- What becomes of a queued frame when an output offers a VC. -/
inductive Offer where
  | stay
  | go (f : BondFrame) (escape : Bool)
  /-- Dropped, with the module counter's subindex. -/
  | drop (sub : Nat)
  /-- It was kept until the module had a position, and ends here. -/
  | home
deriving DecidableEq, Repr

/-- A plumb hop of a frame on VC3: its link, lane and the frame that leaves. -/
def plumbOffer (s : State) (link : Nat) (r : RFrame) (yx : Bool) (lane : Nat) (inLink : Option Nat) (escape : Bool) (here : Nat × Nat) : Offer :=
  let dest := frameDest r.f.dst
  match plumbDir s yx here dest with
  | none => .drop 1
  | some d => match plumbLink s d dest with
    | none => .drop 1
    | some l =>
      let ln := plumbLane s yx lane inLink d here
      if l ≠ link ∨ creditFree (linkOf s l) (creditClass 3 ln) < flitsOf r.bytes then .stay
      else .go { r.f with vc := 3, lane := ln } escape

/-- A frame queued to a link in its 2 µs of going down leaves on it in its VC (R179). -/
def offerLast (s : State) (link vc : Nat) (r : RFrame) (here : Nat × Nat) : Offer :=
  let ln := if r.f.vc = 3 && !r.fixed then
      (if r.f.multicast then (if crossesDateline s (linkDir link) here then 1 else r.f.lane)
       else plumbLane s r.yx r.f.lane r.inLink (linkDir link) here)
    else r.f.lane
  let sub := if r.f.vc = 3 then ln else r.f.aux.toNat / 65536
  if r.out = some link ∧ r.f.vc = vc ∧ flitsOf r.bytes ≤ creditFree (linkOf s link) (creditClass vc sub) then .go { r.f with lane := ln } false
  else .stay

/-- Decide a frame for an output and a VC. -/
def offerFrame (s : State) (link vc : Nat) (r : RFrame) : Offer :=
  let flits := flitsOf r.bytes
  let sub := if r.f.vc = 3 then r.f.lane else r.f.aux.toNat / 65536
  if r.fixed then
    (if r.f.vc = vc ∧ r.out = some link ∧ flits ≤ creditFree (linkOf s link) (creditClass vc sub) then .go r.f false else .stay)
  else match s.wall.pos with
    | none => .stay
    | some here =>
      if !(linkUp s link) then offerLast s link vc r here
      else if r.f.multicast then
        (match r.out with
         | none => .home
         | some o =>
           let d := linkDir o
           if hopBroken s here d then .drop 0
           else
             let ln := if crossesDateline s d here then 1 else r.f.lane
             if vc = 3 ∧ lineLink s d = some link ∧ flits ≤ creditFree (linkOf s link) (creditClass 3 ln) then .go { r.f with lane := ln } false
             else .stay)
      else if !(inWall s r.f.dst) then .drop 1
      else if here = frameDest r.f.dst then .home
      else if destDown s r.f.dst then .drop 2
      else if r.f.vc = 3 then (if vc = 3 then plumbOffer s link r r.yx r.f.lane r.inLink false here else .stay)
      else match adaptiveLink s r.f.vc flits here (frameDest r.f.dst) with
        | some l => if l = link ∧ r.f.vc = vc then .go r.f false else .stay
        | none =>
          if vc ≠ 3 then .stay
          else if orderOpen s false here (frameDest r.f.dst) then plumbOffer s link r false 0 none true here
          else if orderOpen s true here (frameDest r.f.dst) then plumbOffer s link r true 2 none true here
          else .drop 1

/-- A frame that leaves by another output or VC than the one it was queued for meets that one's threshold (R149). -/
def markLeaving (link : Nat) (r : RFrame) (f : BondFrame) (s : State) : BondFrame × State :=
  if f.vc = r.f.vc ∧ r.out = some link then (f, s)
  else
    let m := markFrame { r with f := f, out := some link } s
    (m.1.f, m.2)

/-- A frame leaves on a link: credit is spent, its input buffers are freed and its flits return what is owed (R174, R178); a stomped
one ends with the inverse of its CRC (R176). -/
def leaveFrame (link : Nat) (r : RFrame) (f : BondFrame) (escape stomp : Bool) (s : State) : State :=
  let flits := flitsOf r.bytes
  let s := { s with wall := { s.wall with frames := dropFirst r s.wall.frames } }
  let m := markLeaving link r f s
  let f := m.1
  let s := spendCredit link (frameClass f) flits m.2
  let s := match r.inLink with
    | some i => freeBuffers i r.inClass flits s
    | none => s
  let s := if escape then bump 0x9039 5 1 s else s
  let ctl := frameCtl f.vc (lastBytes r.bytes) true flits (linkOf s link).owed
  let s := modLink link (fun l => { l with owed := ctl.2, recent := (List.replicate flits f.vc ++ l.recent).take 63 }) s
  let s := outEmit (.bond link ctl.1 (if stomp then stompedBytes f else bondBytes f)) (bump (0x9031 + link) 2 1 s)
  let s := foldS (fun k t => liftOn k t) s.wall.circuits s
  fencesDone s

/-- A frame kept for want of a position is looked at as if it came now. -/
def homeFrame (r : RFrame) (s : State) : State :=
  match r.inLink, r.f.content with
  | some l, .packet p => packetIn l r.f p { s with wall := { s.wall with frames := dropFirst r s.wall.frames } }
  | _, _ => dropFrames [r] s

/-- The oldest frame that may go on an output's VC goes; frames that can no longer reach their end are dropped. -/
def sendScan (link vc : Nat) : List RFrame → State → State
  | [], s => s
  | r :: rest, s =>
    match offerFrame s link vc r with
    | .stay => sendScan link vc rest s
    | .drop sub => sendScan link vc rest (dropFrames [r] (if sub = 0 then s else bump 0x9039 sub 1 s))
    | .home => sendScan link vc rest (homeFrame r s)
    | .go f escape => leaveFrame link r f escape false s

/-- The order in which an output looks at the frames: oldest first, at one time the lower link index first, the internal ports last
(R181). -/
def sendOrder (s : State) : List RFrame := sortBy (fun r => r.at_ * 16 + r.inLink.getD 8) s.wall.frames

/-- A VC has a frame that can go on an output now. -/
def vcReady (s : State) (link vc : Nat) : Bool :=
  s.wall.frames.any (fun r => match offerFrame s link vc r with
    | .go _ _ => true
    | _ => false)

/-- VC1's share of the flits of a 64-flit window lets one more go, or neither VC2 nor VC3 has one that waits (R181). -/
def vc1Shares (s : State) (link : Nat) : Bool :=
  let l := linkOf s link
  decide (100 * ((l.recent.filter (fun v => v == 1)).length + 1) ≤ 64 * ledN s 0x3210 2) || !(vcReady s link 2 || vcReady s link 3)

/-- The grant order (R181): VC0, VC1 while its share allows, VC3, VC2. VC4 goes in its circuits' own slots beside them (slot timing
is out of the model, assumption 77). -/
def granted (s : State) (link vc : Nat) : Bool :=
  match vc with
  | 0 => true
  | 4 => !(vcReady s link 0)
  | 1 => vc1Shares s link && !(vcReady s link 0)
  | 3 => !(vcReady s link 0) && !(vcReady s link 1 && vc1Shares s link)
  | _ => !(vcReady s link 0) && !(vcReady s link 1 && vc1Shares s link) && !(vcReady s link 3)

/-- BOND_FRAME_SEND (R186): the oldest frame of the VC leaves when the output grants it. -/
def execBondFrameSend (link vc : Nat) (s : State) : Host.Outcome State Fault Refusal :=
  .next (if linkLive s link && granted s link vc then sendScan link vc (sendOrder s) s else s)

/-! ## Frames that fail on their way in (R176) -/

/-- The output on which a queued frame may go now, with its VC: the first in link and VC order. -/
def outputNow (s : State) (r : RFrame) : Option (Nat × BondFrame × Bool) :=
  ((((rangeFrom 0 8).map (fun l => (rangeFrom 0 5).map (fun v => (l, v)))).flatten).filterMap (fun k =>
    match linkUp s k.1, offerFrame s k.1 k.2 r with
    | true, .go f escape => some (k.1, f, escape)
    | _, _ => none)).head?

/-- A frame that fails after part of it has been sent onward: its copy leaves, ended with the inverse of its CRC. Nothing goes on
where it has no output. -/
def stompOn (link : Nat) (f : BondFrame) (s : State) : Option State :=
  let hop := f.vc == 0 || (match f.content with
    | .packet p => oneHop f p
    | .malformed _ _ => false
    | _ => true)
  let seq := match f.content with
    | .packet p => isSequenced p
    | _ => false
  let t := carryIn link f (fun u => u) hop seq s
  match t.wall.frames.drop s.wall.frames.length with
  | r :: _ => (outputNow t r).map (fun o => leaveFrame o.1 r o.2.1 o.2.2 true t)
  | [] => none

/-- A frame that fails its checks: dropped and counted by `sub`, unless part of it has left. -/
def failIn (link : Nat) (f : BondFrame) (begun stomped : Bool) (s : State) : State :=
  let s := if stomped then bump (0x9031 + link) 4 1 s else s
  match (if begun then stompOn link f s else none) with
  | some t => t
  | none => freeBuffers link (frameClass f) (flitsOf (frameBytes f)) (if stomped then s else bump (0x9031 + link) 3 1 s)

/-- A bond frame arrives. -/
def frameIn (link : Nat) (f : BondFrame) (fate : FrameFate) (begun : Bool) (s : State) : State :=
  if !(linkLive s link) then s else
  let s := bump (0x9031 + link) 1 1 s
  match fate with
  | .bad => failIn link f begun false s
  | .stomped => failIn link f begun true s
  | .good => goodIn link f s

/-- BOND_FRAME_RECEIVE (R174 to R176): the codewords and the credit that its flits carry count, then the frame is read. -/
def execBondFrameReceive (link : Nat) (f : WireFrame) (way : Transit) (s : State) : Host.Outcome State Fault Refusal :=
  .next (if !(linkLive s link) then s else
    let s := bump (0x9031 + link) 5 way.corrected (bump (0x9031 + link) 6 way.lost s)
    let s := modLink link (fun l => f.ctl.foldl (fun x c => takeReturn c x) l) s
    frameIn link (parseBond f.bytes) (frameFate f.ctl way.lost f.bytes) way.begun s)

end Sys2Proof.Machine
end

