-- ==== Sys2Proof/Machine/Shaping.lean ====
section
/-! DEFINITION. The class shapers' tick (R163, R165) and the telemetry sample (R167 to R170). -/

namespace Sys2Proof.Machine

open Sys2Proof

/-! ## Shapers -/

/-- A class held by PAUSE or PFC at a port: it counts as active (R163). -/
def classPaused (s : State) (cls : Nat) : Bool :=
  (portsFitted s).any (fun p =>
    ((portOf s p).paused.isSome || (tfind (portOf s p).pfc cls).isSome) && !(tget [] (portOf s p).classes cls).isEmpty)

/-- A packet or an entry of a shaper's function and class waits for its credit. -/
def shaperHeld (s : State) (ks fn cls : Nat) : Bool :=
  decide ((shaperOf s ks fn cls).credit < 0) &&
  (s.enpin.ctxs.any (fun p => match nextMsg s (BitVec.ofNat 32 p.1) p.2 with
    | some m => m.fn == fn && m.tc == cls && ownerShaper s m.owner (BitVec.ofNat 32 p.1) == some ks
    | none => false) ||
   (queuesOf s fn).any (fun q => (queueOf s q).hold == Hold.gate && queueKs s q == ks && (match (queueOf s q).heldEntry with
    | some e => entryClass s e == some cls
    | none => false)))

/-- The credit after a tick (the code of R163), in bits. -/
def creditTick (active : Bool) (hi : Nat) (slope : Nat) (c : Int) : Int :=
  if active then min (Int.ofNat (8 * hi)) (c + Int.ofNat slope)
  else if 0 < c then 0 else min 0 (c + Int.ofNat slope)

/-- Written values are loaded (R165). -/
def loadShaper (h : Shaper) : Shaper :=
  let c := if h.slope = 0 ∧ h.wSlope ≠ 0 then 0
    else max (-(Int.ofNat (8 * h.wLo))) (min (Int.ofNat (8 * h.wHi)) h.credit)
  { h with slope := h.wSlope, hi := h.wHi, lo := h.wLo, credit := c }

/-- One shaper at a tick: load, refill, and what `SHAPER_STAT` reports. -/
def tickShaper (s : State) (key : Nat) (h : Shaper) : Shaper :=
  let cls := key % 8
  let fn := key / 8 % 2048
  let ks := key / 8 / 2048
  let active := h.active || shaperHeld s ks fn cls || classPaused s cls
  let h := loadShaper h
  if h.slope = 0 then { h with active := false, stat := h.credit }
  else
    let c := creditTick active h.hi h.slope h.credit
    { h with credit := c, active := false, stat := c }

/-- SHAPER_TICK: the next whole microsecond, on all shapers at once. -/
def execShaperTick (s : State) : Host.Outcome State Fault Refusal :=
  .next (
    let s := advanceTo ((s.now / 1000 + 1) * 1000) s
    { s with shapers := s.shapers.map (fun p => (p.1, tickShaper s p.1 p.2)) })

/-! ## Telemetry -/

/-- The queue on whose behalf a message goes: its entry's, or that of the COLLECTIVE whose ring packet it is (R231). -/
def ownerQueue (s : State) (o : Owner) : Option QRef :=
  match o with
  | .entry q _ => some q
  | .ring h n => (instAt s h n).bind (fun i => i.posted)
  | _ => none

/-- The message belongs to an entry: its own, or a ring packet of the instance that the entry posted. -/
def entryOwns (s : State) (q : QRef) (idx : Nat) (o : Owner) : Bool :=
  match o with
  | .entry r i => decide (r = q ∧ i = idx)
  | .ring h n => decide (((instAt s h n).bind (fun i => i.entry)) = some (q, idx))
  | _ => false

/-- The parts of a COLLECTIVE's contribution that have not entered the tree, or the ring, at this member: their bytes. -/
def collOwed (s : State) (q : QRef) (idx : Nat) : List Nat :=
  match instOfEntry s q idx with
  | none => []
  | some (h, n) => match groupAt s h, instAt s h n with
    | some g, some i => (match i.own with
      | none => []
      | some x =>
        let me := myMember s g
        let bytes (c : Nat) : Nat := if readsContribution me x then chunkBytes x c else 0
        if i.done || i.aborted.isSome then []
        else if i.mode = .ring then
          (ringPieces g me x).filterMap (fun pc =>
            let starts := ringStarts x (setSize g) (rankOf g me) pc.2.2
            let key := if starts then 2 ^ 42 + pc.1 else ringKey false pc.1
            if (starts || decide (x.op ≤ 1) || x.op == 4) && !(i.ringWritten.contains key) then
              some (if readsContribution me x then collBytes x.dtype pc.2.1 else 0) else none)
        else (rangeFrom 0 (chunkCount g x)).filterMap (fun c =>
          if contributes g me x c && !((tget {} i.chunks c).from_.contains me) && !((tget {} i.chunks c).ended) then some (bytes c) else none))
    | _, _ => []

/-- Bytes of an entry not yet sent once: of its messages, of one that waits for a context, of a contribution (R168). -/
def unsentBytes (s : State) (q : QRef) (t : Taken) : Nat :=
  ((s.enpin.ctxs.map (fun p => ((p.2.msgs.filter (fun m => entryOwns s q t.idx m.owner)).map
    (fun m => m.len - m.next * m.segment)).foldl (· + ·) 0))).foldl (· + ·) 0 +
  (if t.waitsContext && (eOp t.entry == 0x01 || eOp t.entry == 0x02 || eOp t.entry == 0x06 || eOp t.entry == 0x07) then eLength t.entry else 0) +
  (collOwed s q t.idx).foldl (· + ·) 0

/-- An entry waits for pages before its request or its message is made (R304). -/
def entryPaged (s : State) (q : QRef) (idx : Nat) : Bool :=
  let w := Waiter.entry q idx
  (s.mig.recs0 ++ s.mig.recs1).any (fun r => r.2.waiters.any (fun x => decide (x.1 = w))) ||
  (s.mig.walkers0 ++ s.mig.walkers1).any (fun k => decide (k.2.waiter = w))

/-- An entry is not yet fully sent: it waits for a context or for pages, a message of it has packets left, or part of its contribution
has not gone (R169). -/
def notSent (s : State) (q : QRef) (t : Taken) : Bool :=
  t.status.isNone && (t.waitsContext || !(collOwed s q t.idx).isEmpty ||
    ((eOp t.entry == 0x03 || eOp t.entry == 0x04 || eOp t.entry == 0x05) && entryPaged s q t.idx) ||
    s.enpin.ctxs.any (fun p => p.2.msgs.any (fun m => entryOwns s q t.idx m.owner && decide (m.next < m.pktCount))))

/-- The head-of-line delay of a queue (R169). -/
def holDelay (s : State) (q : QRef) : Nat :=
  let x := queueOf s q
  let a := match (x.taken.filter (notSent s q)).head? with
    | some t => s.now - t.takenAt
    | none => 0
  let b := match x.headSince with
    | some t => s.now - t
    | none => 0
  min 0xFFFFFFFF (max a b)

/-- A queue state's code in `QSTAT`. -/
def qstateCode (x : QState) : Nat :=
  match x with
  | .reset => 0 | .active => 1 | .error => 2

/-- `QSTAT.held`. -/
def headHeld (x : Queue) : Bool :=
  match x.hold with
  | .waitCount => true
  | .fence => true
  | .fenceFlag => true
  | _ => false

/-- The record of a send queue. -/
def queueSample (s : State) (q : QRef) (skipped : Nat) : Rec :=
  let x := queueOf s q
  let fn := q.fn
  let ks := queueKs s q
  let headCls := x.heldEntry.bind (entryClass s)
  let credit : Int := match headCls with
    | some c => (shaperOf s ks fn c).credit / 8
    | none => 0
  let rateWait := s.enpin.ctxs.any (fun p => decide (p.2.cc.tokens < 0) && p.2.msgs.any (fun m =>
    decide (ownerQueue s m.owner = some q) && decide (m.next < m.pktCount)))
  let shaped := (x.hold == Hold.gate && (match headCls with
    | some c => !(shaperOpen s ks fn c)
    | none => false))
  let depth := (x.taken.map (fun t => if t.status.isNone then unsentBytes s q t else 0)).foldl (· + ·) 0
  mkRec [(0, 1, 0),
    (1, 1, b2n (headHeld x) + 2 * b2n shaped + 4 * b2n rateWait + 8 * b2n (decide (0 < skipped)) + 16 * qstateCode x.st),
    (2, 2, min skipped 0xFFFF), (4, 4, q.index), (8, 4, inProgress x), (12, 4, min depth 0xFFFFFFFF),
    (16, 4, holDelay s q), (20, 4, (credit % 2 ^ 32).toNat), (24, 6, s.now)]

/-- The record of a port's class or a link's VC. -/
def depthSample (s : State) (kind queue frames bytes : Nat) (head : Option Nat) (skipped : Nat) : Rec :=
  let age := match head with
    | some t => s.now - t
    | none => 0
  mkRec [(0, 1, kind), (1, 1, 8 * b2n (decide (0 < skipped))), (2, 2, min skipped 0xFFFF), (4, 4, queue), (8, 4, frames),
    (12, 4, min bytes 0xFFFFFFFF), (16, 4, min age 0xFFFFFFFF), (24, 6, s.now)]

/-- The queues, classes and VCs that a sample covers: kind and number, in the order of their records. -/
def sampled (s : State) (fn : Nat) : List (Nat × Nat) :=
  let t := (fnOf s fn).telem
  (rangeFrom t.first t.count).map (fun q => (0, q)) ++
  (if t.ports && fn == 0 then
    ((portsFitted s).map (fun p => (rangeFrom 0 8).map (fun c => (1, p + 4 * c)))).flatten ++
    ((rangeFrom 0 8).map (fun l => (rangeFrom 0 5).map (fun v => (2, l + 8 * v)))).flatten
   else [])

def sampleRec (s : State) (fn kind n skipped : Nat) : Rec :=
  match kind with
  | 0 => queueSample s { fn := fn, kind := .send, index := n } skipped
  | 1 =>
    let l := tget [] (portOf s (n % 4)).classes (n / 4)
    depthSample s 1 n l.length (classBytes l) (l.head?.map (fun f => f.at_)) skipped
  | _ =>
    let l := s.wall.frames.filter (fun r => r.out == some (n % 8) && r.f.vc == n / 8)
    depthSample s 2 n l.length ((l.map (fun r => r.bytes)).foldl (· + ·) 0) (l.head?.map (fun r => r.at_)) skipped

/-- The telemetry ring can take a record. -/
def telemRoom (s : State) (fn : Nat) : Bool :=
  let r := (fnOf s fn).telem.ring
  !r.full && (hostOk s || !r.inHost)

/-- One record is written, or lost and counted. -/
def sampleOne (fn : Nat) (skip : Bool) (k : Nat × Nat) (s : State) : State :=
  let key := k.1 * 2 ^ 20 + k.2
  let t := (fnOf s fn).telem
  let lost := tget 0 t.skipped key
  if skip || !(telemRoom s fn) then
    modFn fn (fun f => { f with telem := { f.telem with skipped := tset f.telem.skipped key (lost + 1) } }) (bump 0x9042 5 1 s)
  else
    let s := ringStore 0 t.ring (sampleRec s fn k.1 k.2 lost) s
    modFn fn (fun f => { f with telem := { f.telem with ring := t.ring.pushed, skipped := tdel f.telem.skipped key } }) s

/-- A function's interval in ns. -/
def telemInterval (s : State) (fn : Nat) : Nat := ((fnOf s fn).telem.intervalM1 + 1) * 10000

/-- Records that a function's ring takes now. -/
def telemFree (s : State) (fn : Nat) : Nat :=
  let r := (fnOf s fn).telem.ring
  if hostOk s || !r.inHost then 2 ^ ringLog2 r.size - 1 - r.used else 0

/-- The budget of one instant in bytes (R170). -/
def telemBudget (s : State) : Nat := ledN s 0x9050 1 * 10

/-- The bytes that a function writes at an instant, `ahead` bytes having been written before it: what it wrote, or would write. -/
def telemWrites (s : State) (f t ahead : Nat) : Nat :=
  let x := (fnOf s f).telem
  if x.lastAt = t then x.lastWrote
  else
    let n := (sampled s f).length
    if telemBudget s < ahead + 32 * n then 0 else 32 * min n (telemFree s f)

/-- Bytes that the functions ahead of this one write at an instant: function order starts one later at each instant
(R170). Records that are skipped or lost write nothing. -/
def telemAhead (s : State) (fn t : Nat) : Nat :=
  let start := t / 10000 % 1025
  let place (f : Nat) : Nat := (f + 1025 - start) % 1025
  let ahead := ((s.fns.filter (fun p => p.2.telem.enable && decide (place p.1 < place fn) && t % telemInterval s p.1 == 0)).map
    Prod.fst)
  (sortBy place ahead).foldl (fun b f => b + telemWrites s f t b) 0

/-- TELEMETRY_SAMPLE: the function's next sample instant. -/
def execTelemetrySample (fn : Nat) (s : State) : Host.Outcome State Fault Refusal :=
  .next (
    let t := (fnOf s fn).telem
    if !t.enable then s else
    let i := telemInterval s fn
    let s := advanceTo ((s.now / i + 1) * i) s
    let list := sampled s fn
    let skip := decide (telemBudget s < telemAhead s fn s.now + 32 * list.length)
    let wrote := if skip then 0 else 32 * min list.length (telemFree s fn)
    foldS (sampleOne fn skip) list (modFn fn (fun f => { f with telem := { f.telem with lastAt := s.now, lastWrote := wrote } }) s))

end Sys2Proof.Machine
end

