-- ==== Sys2Proof/Machine/VdevImage.lean ====
section
/-! DEFINITION. The saved-state image: VDEV_SAVE and VDEV_RESTORE (R395 to R397). The order of the fields inside a section
is the device's own where R396 gives none (DESIGN CHOICE, assumption 60). -/

namespace Sys2Proof.Machine

open Sys2Proof

/-! ## Words -/

def wordsLe (ws : List Nat) : List Byte := (ws.map (fun w => leBytes 4 w)).flatten

/-- The `i`-th word of a section. -/
def iw (b : List Byte) (i : Nat) : Nat := df b (4 * i) 4
def iw32 (b : List Byte) (i : Nat) : W32 := BitVec.ofNat 32 (iw b i)

/-! ## The sections (R396) -/

def qstateOf (n : Nat) : QState :=
  match n with
  | 1 => .active
  | 2 => .error
  | _ => .reset

/-- A queue's registers, state, head and phase, and its receive area: 12 words. -/
def queueWords (i : Nat) (x : Queue) : List Nat :=
  [i, x.baseLo.toNat, x.baseHi.toNat, x.size.toNat,
   b2n x.enable + 2 * b2n x.cfgError + 4 * x.cq + 256 * x.weight + 65536 * x.burstM1, x.head,
   qstateCode x.st + 4 * b2n x.phase, x.recvKey.toNat, x.recvLog2Size + 256 * x.recvLog2Slots, x.recvNext, x.recvFree,
   b2n x.returnError]

/-- An output ring: 10 words. -/
def ringWords (i : Nat) (r : OutRing) : List Nat :=
  [i, r.baseLo.toNat, r.baseHi.toNat, r.size.toNat, b2n r.enable + 2 * b2n r.cfgError, r.prod, b2n r.phase, r.cons, b2n r.armed,
   r.lastStatus]

def telemWords (t : Telem) : List Nat :=
  ringWords 0 t.ring ++ [b2n t.enable + 2 * b2n t.ports, t.intervalM1, t.first, t.count]

def xwWords (x : Xw) : List Nat := [x.baseLo.toNat, x.baseHi.toNat, x.pages, b2n x.enable]

/-- Section 2. -/
def secQueues (f : Fn) : List Byte :=
  wordsLe ([f.sends.length, f.cqs.length] ++ (f.sends.map (fun p => queueWords p.1 p.2)).flatten ++ queueWords 0 f.control ++
    (f.cqs.map (fun p => ringWords p.1 p.2)).flatten ++ ringWords 0 f.eq ++ telemWords f.telem ++ xwWords f.xw)

/-- Section 3: 4,096 counters. -/
def secCounters (f : Fn) : List Byte :=
  ((rangeFrom 0 4096).map (fun i => leBytes 8 (tget 0 f.counters i).toNat)).flatten

/-- A descriptor of R299. -/
def segBlock (g : Segment) (tierBase : Nat) : List Byte :=
  leBytes 8 (segBase g) ++ leBytes 4 g.pages ++ leBytes 1 g.tier ++ leBytes 1 (b2n g.read + 2 * b2n g.write) ++
  leBytes 1 (b2n g.migratory + 2 * b2n g.valid + 4 * b2n g.flushing + 8 * b2n g.disabling) ++ leBytes 1 0 ++
  leBytes 8 tierBase ++ leBytes 8 (segHostBase g)

/-- Section 4. -/
def secSegments (s : State) (v : Nat) : List Byte := ((rangeFrom 0 16).map (fun i => segBlock (segOf s v i) 0)).flatten

/-- The rank of a core among a device's cores (R387). -/
def coreRank (s : State) (v core : Nat) : Nat := ((coresOf s v).filter (fun c => decide (c < core))).length

/-- The segment and offset that a key entry of segment memory lies in. -/
def keyPlace (s : State) (v : Nat) (k : KeyEntry) : Nat × Nat :=
  match k.pinned with
  | some (g, first, _) => (g, first * pageBytes + k.base % pageBytes)
  | none =>
    match (rangeFrom 0 16).filter (fun i =>
        let g := segOf s v i
        g.valid && !g.migratory && g.tier == k.tier && decide (g.tierBase ≤ k.base) && decide (k.base < g.tierBase + segBytes g)) with
    | i :: _ => (i, k.base - (segOf s v i).tierBase)
    | [] => (0, 0)

/-- One key of section 5, 16 bytes. -/
def keyBlock (s : State) (v i : Nat) (k : KeyEntry) : List Byte :=
  let place := if k.tier = 2 then (coreRank s v (padCore k.base), padOff k.base) else keyPlace s v k
  leBytes 4 (mkKey i k.generation).toNat ++ leBytes 1 k.rights ++
  leBytes 1 (b2n k.window + 2 * b2n k.recvArea + 4 * b2n (k.tier == 2)) ++ leBytes 2 place.1 ++ leBytes 4 (place.2 / 256) ++
  leBytes 4 k.length

def keysOf (s : State) (v : Nat) : List (Nat × KeyEntry) := s.keys.table.filter (fun p => p.2.valid && p.2.owner == v)

def secKeys (s : State) (v : Nat) : List Byte := ((keysOf s v).map (fun p => keyBlock s v p.1 p.2)).flatten

/-- Section 6: 64 bindings of 12 bytes. -/
def secBindings (s : State) (v : Nat) : List Byte :=
  ((rangeFrom 0 64).map (fun i =>
    let b := bindingOf s v i
    leBytes 4 (b2n b.enable + 2 * b2n b.cfgError + 4 * b.sem + 256 * coreRank s v b.core + 2 ^ 18 * b.wakeTol) ++
    leBytes 4 b.watchdogUs ++ leBytes 4 b.key.toNat)).flatten

/-- Section 7: 64 semaphores and `BANK_PWR` of each core in rank order. -/
def secCores (s : State) (v : Nat) : List Byte :=
  ((coresOf s v).map (fun c =>
    ((rangeFrom 0 64).map (fun i => leBytes 2 (semOf s c i))).flatten ++ leBytes 4 (coreOf s c).bankReq.toNat)).flatten

def clustersOf (s : State) (v : Nat) : List Nat :=
  match grantOf s v with
  | some g => bitsOf g.clusters.toNat 32
  | none => []

/-- Section 8: each cluster's 16 scratchpads and its store. -/
def secClusters (s : State) (v : Nat) : List Byte :=
  ((clustersOf s v).map (fun c =>
    memRead .scratch (scratchBase (16 * c)) (2 ^ 26) s ++ memRead .cluster (clusterBase c) (2 ^ 25) s)).flatten

/-- The resident segments in device memory. -/
def residentSegs (s : State) (v : Nat) : List Nat :=
  (rangeFrom 0 16).filter (fun i =>
    let g := segOf s v i
    g.valid && !g.migratory && decide (g.tier < 2))

/-- Section 9. -/
def secResident (s : State) (v : Nat) : List Byte :=
  ((residentSegs s v).map (fun i =>
    let g := segOf s v i
    memRead (tierMem g.tier) g.tierBase (segBytes g) s)).flatten

def secGrant (s : State) (v : Nat) : List Byte :=
  match grantOf s v with
  | some g => descOfGrant g
  | none => []

def sections (s : State) (v : Nat) : List (Nat × List Byte) :=
  [(1, secGrant s v), (2, secQueues (fnOf s v)), (3, secCounters (fnOf s v)), (4, secSegments s v), (5, secKeys s v),
   (6, secBindings s v), (7, secCores s v), (8, secClusters s v), (9, secResident s v)]

/-! ## The image (R395) -/

/-- The next 4 KiB boundary. -/
def up4k (n : Nat) : Nat := cdiv n 4096 * 4096

/-- The section table and the sections, from offset `at_`. -/
def layOut : Nat → List (Nat × List Byte) → List Byte × List Byte
  | _, [] => ([], [])
  | at_, (t, b) :: r =>
    let rest := layOut (up4k (at_ + b.length)) r
    let pad := if r.isEmpty then 0 else up4k (at_ + b.length) - (at_ + b.length)
    (leBytes 4 t ++ leBytes 4 (crc32c b) ++ leBytes 8 at_ ++ leBytes 8 b.length ++ rest.1, b ++ List.replicate pad 0 ++ rest.2)

/-- The image of a virtual device. -/
def imageOf (s : State) (v : Nat) : List Byte :=
  let secs := sections s v
  let first := up4k (64 + 24 * secs.length)
  let body := layOut first secs
  let head := leBytes 4 0x56444D54 ++ leBytes 2 1 ++ leBytes 2 secs.length ++ leBytes 8 (first + body.2.length) ++
    leBytes 4 (ownId s).toNat ++ leBytes 2 v ++ leBytes 2 0 ++ leBytes 8 s.now
  head ++ leBytes 4 (crc32c (head ++ body.1)) ++ List.replicate 28 0 ++ body.1 ++
  List.replicate (first - (64 + 24 * secs.length)) 0 ++ body.2

/-- The entries of an image's section table: type, CRC, offset, length. -/
def tableOf (b : List Byte) : List (Nat × Nat × Nat × Nat) :=
  (rangeFrom 0 (df b 6 2)).map (fun i =>
    (df b (64 + 24 * i) 4, df b (68 + 24 * i) 4, df b (72 + 24 * i) 8, df b (80 + 24 * i) 8))

/-- A section's bytes; a section that the image leaves out is empty. -/
def sectionOf (b : List Byte) (t : Nat) : List Byte :=
  match (tableOf b).filter (fun e => e.1 == t) with
  | e :: _ => (b.drop e.2.2.1).take e.2.2.2
  | [] => []

/-- The types are known and no one comes twice. -/
def typesOk : List Nat → Bool
  | [] => true
  | t :: r => decide (1 ≤ t) && decide (t ≤ 9) && !(r.contains t) && typesOk r

/-- RESTORE accepts the image (R395). -/
def imageOk (b : List Byte) (len : Nat) : Bool :=
  let t := tableOf b
  df b 0 4 == 0x56444D54 && df b 4 2 == 1 && decide (df b 8 8 ≤ len) &&
  df b 32 4 == crc32c (b.take 32 ++ (b.drop 64).take (24 * df b 6 2)) &&
  typesOk (t.map (fun e => e.1)) && t.all (fun e => e.2.1 == crc32c ((b.drop e.2.2.1).take e.2.2.2))

/-- The target's grant holds the image's (R397). -/
def grantHolds (g : Grant) (d : List Byte) : Bool :=
  let i := grantOfDesc d 0
  decide (i.queues ≤ g.queues) && decide (i.cqCount ≤ g.cqCount) && decide (i.regionKeys ≤ g.regionKeys) &&
  decide (i.windowKeys ≤ g.windowKeys) && decide (i.hbmFrames ≤ g.hbmFrames) && decide (i.lpddrFrames ≤ g.lpddrFrames) &&
  decide (i.mortarSlots ≤ g.mortarSlots) && decide (i.sramQueues ≤ g.sramQueues) &&
  decide ((bitsOf i.clusters.toNat 32).length = (bitsOf g.clusters.toNat 32).length)

/-! ## VDEV_SAVE -/

/-- Causes that need no image: no such device, not FROZEN. -/
def frozenCauses (s : State) (v : Nat) : List Nat :=
  (if (grantOf s v).isNone then [1] else []) ++
  (if v = 0 then [2] else match (fnOf s v).vstate with
    | .frozen => []
    | _ => [2])

def doSave (q : QRef) (idx : Nat) (e : Entry) (s : State) : State :=
  let v := eVdev e
  match frozenCauses s v with
  | c :: _ => vdevCause q idx (eResult e) c s
  | [] =>
    let n := (imageOf s v).length
    if eBufLen e < n then putVdev q idx (eResult e) (resultBlock 11 0 0 0 n) s
    else if !(rangeReach s (queueFn q) (eLocal e) (eBufLen e)) then vdevCause q idx (eResult e) 15 s
    else
      let r := BitVec.ofNat 64 (eResult e)
      setVop v (some (.save q idx (BitVec.ofNat 64 (eLocal e)) (BitVec.ofNat 64 (eBufLen e)) r)) s

def startSave (q : QRef) (idx : Nat) (e : Entry) (s : State) : State :=
  withRange q idx (eLocal e) (eBufLen e) true (withRange q idx (eResult e) 32 true (doSave q idx e)) s

/-- VDEV_SAVE: accepted when it is taken; the image is written by VDEV_SAVE_COMPLETE. -/
def execVdevSave (q : QRef) (e : Entry) (s : State) : Host.Outcome State Fault Refusal :=
  .next (if eOp e = 0x83 then offer vdevHold startSave q e s else s)

/-- VDEV_SAVE_COMPLETE: the image is in the buffer. A buffer that cannot be reached ends it with cause 15. -/
def execVdevSaveComplete (vdev : Nat) (s : State) : Host.Outcome State Fault Refusal :=
  .next (
    match (fnOf s vdev).vop with
    | some (.save q idx buf len va) =>
      let s := setVop vdev none s
      if !(rangeReach s (queueFn q) buf.toNat len.toNat) then vdevCause q idx va.toNat 15 s
      else
        let img := imageOf s vdev
        putVdev q idx va.toNat (resultBlock 0 0 0 0 img.length) (writeAny (queueFn q) buf.toNat img s)
    | _ => s)

/-! ## VDEV_RESTORE: reading the sections back -/

/-- A ring in Keystone SRAM, or any ring when the host addresses stand (R397). -/
def ringKept (hostSame : Bool) (size : W32) : Bool := hostSame || ringSram size

/-- A saved queue at word `i`; its configuration stays when its ring is left RESET. -/
def queueFrom (b : List Byte) (i : Nat) (hostSame : Bool) : Queue :=
  let c := iw b (i + 4)
  let size := iw32 b (i + 3)
  let kept := ringKept hostSame size
  let x : Queue := { baseLo := iw32 b (i + 1), baseHi := iw32 b (i + 2), size := size, cfgError := bitOf c 1, cq := fieldOf c 2 6
                     weight := fieldOf c 8 8, burstM1 := fieldOf c 16 6, recvKey := iw32 b (i + 7)
                     recvLog2Size := iw b (i + 8) % 256, recvLog2Slots := iw b (i + 8) / 256 }
  if kept then
    { x with enable := bitOf c 0, head := iw b (i + 5), st := qstateOf (iw b (i + 6) % 4), phase := bitOf (iw b (i + 6)) 2
             recvNext := iw b (i + 9), recvFree := iw b (i + 10), returnError := bitOf (iw b (i + 11)) 0 }
  else x

def ringFrom (b : List Byte) (i : Nat) (hostSame : Bool) : OutRing :=
  let size := iw32 b (i + 3)
  let r : OutRing := { baseLo := iw32 b (i + 1), baseHi := iw32 b (i + 2), size := size, cfgError := bitOf (iw b (i + 4)) 1 }
  if ringKept hostSame size then
    { r with enable := bitOf (iw b (i + 4)) 0, prod := iw b (i + 5), phase := bitOf (iw b (i + 6)) 0, cons := iw b (i + 7)
             armed := bitOf (iw b (i + 8)) 0, lastStatus := iw b (i + 9) }
  else r

/-- The number of a saved key in the map, 0 for a key that is not in it. -/
def mapKey (m : List (W32 × W32)) (k : W32) : W32 :=
  match m.filter (fun p => p.1 == k) with
  | p :: _ => p.2
  | [] => 0

/-- Section 2 into the target's registers; keys go through the map. -/
def restoreQueues (v : Nat) (b : List Byte) (hostSame : Bool) (m : List (W32 × W32)) (s : State) : State :=
  if b.isEmpty then s else
  let ns := iw b 0
  let nc := iw b 1
  let rekey (x : Queue) : Queue := { x with recvKey := mapKey m x.recvKey }
  let sends := (rangeFrom 0 ns).map (fun i => (iw b (2 + 12 * i), rekey (queueFrom b (2 + 12 * i) hostSame)))
  let c0 := 2 + 12 * ns
  let cqs := (rangeFrom 0 nc).map (fun i => (iw b (c0 + 12 + 10 * i), ringFrom b (c0 + 12 + 10 * i) hostSame))
  let e0 := c0 + 12 + 10 * nc
  let t0 := e0 + 10
  let tr := ringFrom b t0 hostSame
  let t : Telem := { ring := { tr with enable := false }, enable := tr.enable && bitOf (iw b (t0 + 10)) 0
                     ports := bitOf (iw b (t0 + 10)) 1, intervalM1 := iw b (t0 + 11), first := iw b (t0 + 12)
                     count := iw b (t0 + 13) }
  let x0 := t0 + 14
  let xw : Xw :=
    { baseLo := iw32 b x0, baseHi := iw32 b (x0 + 1), pages := iw b (x0 + 2), enable := hostSame && bitOf (iw b (x0 + 3)) 0 }
  let s := modFn v (fun f => { f with sends := sends, control := queueFrom b c0 hostSame, cqs := cqs
                                      eq := ringFrom b e0 hostSame, telem := t, xw := xw }) s
  foldS (fun p u => if p.2.enable then cacheQp (globalQp u { fn := v, kind := .send, index := p.1 }) u else u) sends s

/-- Section 3. -/
def restoreCounters (v : Nat) (b : List Byte) (s : State) : State :=
  if b.isEmpty then s else
  modFn v (fun f => { f with counters := (((rangeFrom 0 4096).map (fun i => (i, BitVec.ofNat 48 (df b (8 * i) 8)))).filter
    (fun p => p.2 != 0)) }) s

/-- Section 4: the registers, and the segments that were valid; a host-tier or migratory one needs `host_same`. -/
def restoreSegment (v : Nat) (b : List Byte) (hostSame : Bool) (i : Nat) (s : State) : State :=
  let d := (b.drop (32 * i)).take 32
  let mode := df d 14 1
  let g : Segment := { vaLo := BitVec.ofNat 32 (df d 0 4), vaHi := BitVec.ofNat 32 (df d 4 4), pages := df d 8 4, tier := df d 12 1
                       read := bitOf (df d 13 1) 0, write := bitOf (df d 13 1) 1, migratory := bitOf mode 0
                       hostLo := BitVec.ofNat 32 (df d 24 4), hostHi := BitVec.ofNat 32 (df d 28 4) }
  let s := modSeg v i (fun _ => g) s
  if !(bitOf mode 1) then s
  else if g.tier = 2 || g.migratory then
    (if hostSame then modSeg v i (fun g => { g with enable := true, valid := true }) s else s)
  else
    let s := enableSeg v i g s
    modSeg v i (fun g => { g with zeroing := false, valid := g.enable }) s

def restoreSegments (v : Nat) (b : List Byte) (hostSame : Bool) (s : State) : State :=
  if b.isEmpty then s else foldS (restoreSegment v b hostSame) (rangeFrom 0 16) s

/-- Where a saved key lies on the target: tier, address, pinned pages; none when its segment is not there. -/
def placeKey (v : Nat) (d : List Byte) (s : State) : Option (Nat × Nat × Option (Nat × Nat × Nat) × State) :=
  let n := df d 6 2
  let off := df d 8 4 * 256
  if bitOf (df d 5 1) 2 then
    ((coresOf s v)[n]?).map (fun c => (2, scratchBase c + off, none, s))
  else
    let g := segOf s v n
    if !g.valid then none
    else if !g.migratory then some (g.tier, g.tierBase + off, none, s)
    else
      let ps := pagesOf off (df d 12 4 * 256)
      if !(hostOk s) then none
      else (pinRun v n ps ((fnOf s v).pages.length + 1) s).map (fun r =>
        (g.tier, frameAddr r.1 + off % pageBytes, some (n, (ps.head?).getD 0, ps.length), r.2))

/-- Section 5: each key takes a fresh index at its current generation. The map is in section order. -/
def restoreKeys (v : Nat) (b : List Byte) (s : State) : List (W32 × W32) × State :=
  (rangeFrom 0 (b.length / 16)).foldl (fun acc i =>
    let d := (b.drop (16 * i)).take 16
    match placeKey v d acc.2 with
    | none => acc
    | some (tier, base, pinned, s) =>
      let window := bitOf (df d 5 1) 0
      match allocKey window s with
      | none => acc
      | some (j, s) =>
        let gen := (keyOf s j).generation
        let s := setKey j { generation := gen, owner := v, valid := true, window := window, recvArea := bitOf (df d 5 1) 1
                            rights := df d 4 1 % 8, tier := tier, base := base, length := df d 12 4, pinned := pinned } s
        (acc.1 ++ [(BitVec.ofNat 32 (df d 0 4), mkKey j gen)], s)) ([], s)

/-- Section 6. -/
def restoreBindings (v : Nat) (b : List Byte) (m : List (W32 × W32)) (s : State) : State :=
  if b.isEmpty then s else
  let cores := coresOf s v
  modFn v (fun f => { f with bindings := (rangeFrom 0 64).map (fun i =>
    let c := df b (12 * i) 4
    let old := BitVec.ofNat 32 (df b (12 * i + 8) 4)
    let new := mapKey m old
    let k : Binding := { key := new, enable := bitOf c 0, cfgError := bitOf c 1, sem := fieldOf c 2 6
                         core := (cores[fieldOf c 8 10]?).getD 0, wakeTol := fieldOf c 18 12, watchdogUs := df b (12 * i + 4) 4
                         keyStale := bitOf c 0 && old != 0 && new == 0 }
    (i, k)) }) s

/-- Section 7. -/
def restoreCores (v : Nat) (b : List Byte) (s : State) : State :=
  if b.isEmpty then s else
  foldS (fun p t =>
    let at_ := 132 * p.1
    let s := modCore p.2 (fun k => { k with
      sems := ((rangeFrom 0 64).map (fun i => (i, df b (at_ + 2 * i) 2))).filter (fun e => e.2 != 0) }) t
    foldS (fun bank u => askBank p.2 bank (fieldOf (df b (at_ + 128) 4) (2 * bank) 2) u) (rangeFrom 0 16) s)
    ((coresOf s v).zipIdx.map (fun p => (p.2, p.1))) s

/-- Section 8: saved cluster i goes to the target's cluster i. -/
def restoreClusters (v : Nat) (b : List Byte) (s : State) : State :=
  if b.isEmpty then s else
  foldS (fun p t =>
    let at_ := 3 * 2 ^ 25 * p.2
    let t := memWrite .scratch (scratchBase (16 * p.1)) ((b.drop at_).take (2 ^ 26)) t
    memWrite .cluster (clusterBase p.1) ((b.drop (at_ + 2 ^ 26)).take (2 ^ 25)) t) (clustersOf s v).zipIdx s

/-- Section 9: the resident segments, in order. -/
def restoreResident (v : Nat) : List Nat → List Byte → State → State
  | [], _, s => s
  | i :: r, b, s =>
    let g := segOf s v i
    restoreResident v r (b.drop (segBytes g)) (memWrite (tierMem g.tier) g.tierBase (b.take (segBytes g)) s)

/-! ## VDEV_RESTORE -/

def doRestore (q : QRef) (idx : Nat) (e : Entry) (s : State) : State :=
  let v := eVdev e
  match frozenCauses s v with
  | c :: _ => vdevCause q idx (eResult e) c s
  | [] =>
    if !(rangeReach s (queueFn q) (eLocal e) (eBufLen e)) then vdevCause q idx (eResult e) 15 s
    else
      let b := readAny s (queueFn q) (eLocal e) (eBufLen e)
      if !(imageOk b (eBufLen e)) then vdevCause q idx (eResult e) 12 s
      else
        let d := sectionOf b 1
        let fits := match grantOf s v with
          | some g => grantHolds g d
          | none => false
        if !fits then vdevCause q idx (eResult e) 13 s
        else
          let o := VOp.restore q idx b (BitVec.ofNat 64 (eMap e)) (BitVec.ofNat 64 (eResult e)) (bitOf (eVflags e) 0)
          endDrains v (revokeAll v (setVop v (some o) s))

/-- The bytes of the key map that a restore writes: 8 for each key of section 5 (R397), taken from the entry's image when
it can be read. -/
def mapBytes (s : State) (q : QRef) (e : Entry) : Nat :=
  match xlate s (queueFn q) (eLocal e) (eBufLen e) false with
  | .ok => (if rangeReach s (queueFn q) (eLocal e) (eBufLen e) && decide (0 < eBufLen e) then
      (sectionOf (readAny s (queueFn q) (eLocal e) (eBufLen e)) 5).length / 16 * 8 else 0)
  | _ => 0

def startRestore (q : QRef) (idx : Nat) (e : Entry) (s : State) : State :=
  withRange q idx (eLocal e) (eBufLen e) false (fun t =>
    withRange q idx (eMap e) (mapBytes t q e) true (withRange q idx (eResult e) 32 true (doRestore q idx e)) t) s

/-- VDEV_RESTORE: accepted when it is taken; the keys that the target still holds are revoked (R397 step 1). -/
def execVdevRestore (q : QRef) (e : Entry) (s : State) : Host.Outcome State Fault Refusal :=
  .next (if eOp e = 0x84 then offer vdevHold startRestore q e s else s)

/-- Steps 2 to 5 of R397, and the map. -/
def restoreAll (v : Nat) (b : List Byte) (hostSame : Bool) (s : State) : List (W32 × W32) × State :=
  let s := foldS (cutSeg v) (rangeFrom 0 16) s
  let s := restoreCounters v (sectionOf b 3) s
  let s := restoreSegments v (sectionOf b 4) hostSame s
  let r := restoreKeys v (sectionOf b 5) s
  let s := restoreQueues v (sectionOf b 2) hostSame r.1 r.2
  let s := restoreBindings v (sectionOf b 6) r.1 s
  let s := restoreCores v (sectionOf b 7) s
  let s := restoreClusters v (sectionOf b 8) s
  let s := restoreResident v (residentSegs s v) (sectionOf b 9) s
  (r.1, modFn v (fun f => { f with vstate := .active, haltStatus := 0 }) s)

/-- VDEV_RESTORE_COMPLETE: the target's keys have drained; the image is written, the map follows, and the device is ACTIVE. -/
def execVdevRestoreComplete (vdev : Nat) (s : State) : Host.Outcome State Fault Refusal :=
  .next (
    let s := endDrains vdev s
    match (fnOf s vdev).vop with
    | some (.restore q idx b map va hostSame) =>
      if !(keysDrained s vdev) then s else
      let r := restoreAll vdev b hostSame (setVop vdev none s)
      let m := r.1
      let bytes := (m.map (fun p => leBytes 4 p.1.toNat ++ leBytes 4 p.2.toNat)).flatten
      let f := queueFn q
      let s := r.2
      let base := match grantOf s vdev with
        | some g => (g.qpBase, g.clusters.toNat)
        | none => (0, 0)
      if !m.isEmpty && !(rangeReach s f map.toNat bytes.length) then complete q idx stHostLost 0 0 s
      else putVdev q idx va.toNat (resultBlock 0 base.1 base.2 m.length 0) (if m.isEmpty then s else writeAny f map.toNat bytes s)
    | _ => s)

end Sys2Proof.Machine
end

