-- ==== Sys2Proof/Machine/Reissue.lean ====
section
/-! DEFINITION. What starts an entry of each opcode, what holds it, and the reissue of one that waited for pages (R303,
R310). -/

namespace Sys2Proof.Machine

open Sys2Proof

/-- What holds an entry at its queue's head beyond the conditions that every entry shares. -/
def holdOf (s : State) (q : QRef) (e : Entry) : Hold :=
  match eOp e with
  | 0x10 => collHold s q e
  | 0x20 => launchHold s q e
  | _ => adminHold s q e

/-- What an entry does once it is taken. -/
def startOf (q : QRef) (idx : Nat) (e : Entry) (s : State) : State :=
  match eOp e with
  | 0x01 => startWrite q idx e s
  | 0x02 => startWrite q idx e s
  | 0x03 => startRead q idx e s
  | 0x04 => startRead q idx e s
  | 0x05 => startRead q idx e s
  | 0x06 => startWrite q idx e s
  | 0x07 => startMulticast q idx e s
  | 0x08 => startDone q idx e s
  | 0x09 => startDone q idx e s
  | 0x0A => startCopy q idx e s
  | 0x10 => startColl q idx e s
  | 0x20 => takeLaunch q idx e s
  | 0x21 => sendEntry q idx e s
  | 0x80 => startCreate q idx e s
  | 0x81 => startDestroy q idx e s
  | 0x82 => startFreeze q idx e s
  | 0x83 => startSave q idx e s
  | 0x84 => startRestore q idx e s
  | 0x85 => startReset q idx e s
  | 0x88 => startKey false q idx e s
  | 0x89 => startRevoke false q idx e s
  | 0x8A => startKey true q idx e s
  | 0x8B => startRevoke true q idx e s
  | 0x8C => startSettle q idx e s
  | 0x90 => startGroupCreate q idx e s
  | 0x91 => startGroupDestroy q idx e s
  | 0x92 => startCircuitLay q idx e s
  | 0x93 => startCircuitLift q idx e s
  | 0x94 => startModuleFence true q idx e s
  | 0x95 => startModuleFence false q idx e s
  | _ => s

/-- A LAUNCH asks for the wake of the dies and clusters that hold it (R438). -/
def askLaunchWakes (q : QRef) (e : Entry) (s : State) : State :=
  if eOp e = 0x20 ∧ (queueOf s q).hold = .head ∧ (queueOf s q).heldEntry = some e then
    foldS (fun c t => if coreAsleep t c then wakeCore c t else t) (launchCores e) s
  else s

/-- Offer a queue's head entry, whatever its opcode. -/
def offerAny (q : QRef) (e : Entry) (s : State) : State := askLaunchWakes q e (offer holdOf startOf q e s)

/-! ## Waiters (R303, R310) -/

/-- An entry that waited is reissued whole, from its first byte; a LAUNCH is not counted again. -/
def reissueEntry (q : QRef) (idx : Nat) (s : State) : State :=
  match takenAt? s q idx with
  | some t => if eOp t.entry = 0x20 then startLaunch q idx t.entry s else startOf q idx t.entry s
  | none => s

/-- A MOVE that waited is reissued whole. -/
def reissueMove (core : Nat) (s : State) : State :=
  match ((coreOf s core).running.filter (fun r => r.unit == 9 && r.waiting)).head? with
  | some r => doMove core r.cmd s
  | none => s

/-- A waiter goes on. A packet is built again when its turn comes (PACKET_TRANSMIT). -/
def resumeWaiter (w : Waiter) (s : State) : State :=
  let s := forgetWaiter w s
  match w with
  | .move core => reissueMove core s
  | .entry q idx => reissueEntry q idx s
  | .packet _ _ => s
  | .coll h n => pump h n s

/-- A waiter ends with a status and the faulting address. -/
def endWaiter (w : Waiter) (status addr : Nat) (s : State) : State :=
  let s := forgetWaiter w s
  match w with
  | .move core =>
    if (coreOf s core).running.any (fun r => r.unit == 9 && r.waiting) then trapCore core (moveCause status) status addr s else s
  | .entry q idx =>
    (match instOfEntry s q idx with
     | some (h, n) => collLocal h n status (BitVec.ofNat 64 addr) s
     | none => complete q idx status (BitVec.ofNat 64 addr) 0 s)
  | .packet peer msgId =>
    (match ctxOf s peer with
     | some c => (match (c.msgs.filter (fun m => m.msgId == msgId)).head? with
       | some m => failOwner m.owner status (BitVec.ofNat 64 addr) 0 s
       | none => s)
     | none => s)
  | .coll _ _ => s

end Sys2Proof.Machine
end

