-- ==== Sys2Proof/Machine/Rings.lean ====
section
/-! DEFINITION. Rings: the scan of a queue (R30 to R33), the release of a held head (R36, R37, R44), the consumer's
indices (R42, R47), enabling and disabling (R48, R49, R68, R144, R376), counters read (R52), telemetry (R171). -/

namespace Sys2Proof.Machine

open Sys2Proof

/-! ## The scan (R31) -/

/-- A torn head (R26, R31, R32): malformed past the limit, else the rescan is armed. -/
def tornHead (q : QRef) (e : Entry) (s : State) : State :=
  let x := queueOf s q
  let limit := if x.tornCount = 0 then ledN s 0x4100 2 else x.rescanLimit
  if limit < x.tornCount + 1 then
    malformed q e (modQueue q (fun x => { x with hold := .none, heldEntry := none }) s)
  else
    modQueue q (fun x => { x with tornCount := x.tornCount + 1, rescanAt := some (s.now + ledN s 0x4100 1),
                                  rescanLimit := ledN s 0x4100 2 }) s

/-- A queue in ERROR flushes what it owns (R48). -/
def queueFlushes (s : State) (q : QRef) : Bool :=
  let x := queueOf s q
  isReady s && !s.power.thermtrip && x.enable && x.st == .error && !x.closing && fnRuns s q && (ringSram x.size || hostOk s)

/-- One try at a queue's head (R31): it is read afresh, and taken, held, flushed (R48) or found torn; one that the device does
not own stays. An entry that a command offered and that its ring does not hold is offered again as it was (assumption 15). -/
def serveHead (q : QRef) (s : State) : State :=
  if !(queueServed s q || queueFlushes s q) then s else
  let x := queueOf s q
  let e := headEntry s q
  if eOwner e != x.phase then
    (match x.heldEntry with
     | some h => offerAny q h s
     | none => s)
  else if !(eWhole e) then tornHead q e s
  else if queueFlushes s q then
    (if roomToTake s q then flushHead q e s else modQueue q (fun x => { x with hold := .gate, heldEntry := some e }) s)
  else offerAny q e (modQueue q (fun x => { x with tornCount := 0, hold := .none, heldEntry := none }) s)

/-- The scan of an admin ring: until its head stays. -/
def serveAdmin (q : QRef) : Nat → State → State
  | 0, s => s
  | n + 1, s =>
    let t := serveHead q s
    if (queueOf t q).head = (queueOf s q).head then t else serveAdmin q n t

/-- The admin rings whose heads wait are served, ring 0 first (R34). -/
def serveAdmins (s : State) : State :=
  foldS (fun n t =>
    let q : QRef := { fn := 0, kind := .admin, index := n }
    if (queueOf t q).heldEntry.isSome then serveAdmin q wholeRing t else t) (rangeFrom 0 8) s

/-- A visit (R35): up to `n` entries of a tenant's queue, the admin rings before each; and how many were taken. -/
def visit (q : QRef) : Nat → State → State × Nat
  | 0, s => (s, 0)
  | n + 1, s =>
    let s := serveAdmins s
    let t := serveHead q s
    if (queueOf t q).head = (queueOf s q).head then (t, 0)
    else
      let r := visit q n t
      (r.1, r.2 + 1)

/-- One visit to each queue of a round, with its credit left; a queue that stops is out of the round and of the next ones. -/
def sweep : List (QRef × Nat) → State → State × List (QRef × Nat)
  | [], s => (s, [])
  | (q, credit) :: l, s =>
    let want := min ((queueOf s q).burstM1 + 1) credit
    let r := visit q want s
    let w := sweep l r.1
    (w.1, if r.2 < want then w.2 else (q, credit - want) :: w.2)

/-- A round: visits until every queue has stopped or used its credit; the queues that have not stopped remain. -/
def roundOf : Nat → List (QRef × Nat) → State → State × List QRef
  | 0, l, s => (s, l.map Prod.fst)
  | n + 1, l, s =>
    if l.any (fun p => decide (0 < p.2)) then
      let w := sweep (l.filter (fun p => decide (0 < p.2))) s
      let r := roundOf n w.2 w.1
      (r.1, (l.filter (fun p => p.2 == 0)).map Prod.fst ++ r.2)
    else (s, l.map Prod.fst)

/-- A queue's number in the service order (R35): a send queue's global QP; control queues follow (assumption 15). -/
def serviceNumber (s : State) (q : QRef) : Nat :=
  match q.kind with
  | .send => globalQp s q
  | _ => 2 ^ 20 + q.fn

/-- The service order from a round's start point. -/
def serviceOrder (s : State) (start : Nat) (qs : List QRef) : List QRef :=
  let l := sortBy (serviceNumber s) qs
  l.filter (fun q => decide (start ≤ serviceNumber s q)) ++ l.filter (fun q => decide (serviceNumber s q < start))

def roundStart (s : State) (ks : Nat) : Nat := if ks = 0 then s.rounds.start0 else s.rounds.start1

/-- The next round starts one queue after this one's start point. -/
def moveStart (ks : Nat) (order : List QRef) (s : State) : State :=
  match order with
  | q :: _ =>
    let n := serviceNumber s q + 1
    { s with rounds := if ks = 0 then { s.rounds with start0 := n } else { s.rounds with start1 := n } }
  | [] => s

/-- Rounds on one Keystone until every queue has stopped; a weight counts from its round's start. -/
def roundsOn (ks : Nat) : Nat → List QRef → State → State
  | 0, _, s => s
  | n + 1, qs, s =>
    if qs.isEmpty then s else
    let order := serviceOrder s (roundStart s ks) qs
    let r := roundOf 256 (order.map (fun q => (q, (queueOf s q).weight))) (moveStart ks order s)
    roundsOn ks n r.2 r.1

/-- The tenants' queues of a Keystone whose head waits. -/
def waitingQueues (s : State) (ks : Nat) : List QRef :=
  (s.fns.map (fun p => queuesOf s p.1)).flatten.filter (fun q => (queueOf s q).heldEntry.isSome && queueKs s q == ks)

/-- A scan of a queue (R31, R34, R35): an admin ring at once; a tenant's queue in rounds with the queues of its Keystone whose
head waits. -/
def scanQueue (q : QRef) (s : State) : State :=
  match q.kind with
  | .admin => serveAdmin q wholeRing s
  | _ =>
    let ks := queueKs s q
    let w := waitingQueues s ks
    roundsOn ks wholeRing (if w.contains q then w else q :: w) s

/-- The function may ring this queue's doorbell (R30, R370, R371). -/
def ringsFor (s : State) (q : QRef) : Bool :=
  match q.kind with
  | .send =>
    if q.fn = 0 then qpFn s q.index == some 0
    else (match grantOf s q.fn with
      | some g => decide (q.index < g.queues)
      | none => false)
  | .control => true
  | .admin => q.fn == 0 && decide (q.index < 8)

/-- A doorbell (R30): ignored in RESET, and while a rescan is armed (R32). -/
def ringDoorbell (q : QRef) (s : State) : State :=
  let x := queueOf s q
  if barOpen s q.fn && ringsFor s q && x.enable && x.st != .reset && x.rescanAt.isNone then scanQueue q s else s

/-- DOORBELL (R30). -/
def execDoorbell (q : QRef) (s : State) : Host.Outcome State Fault Refusal := .next (ringDoorbell q s)

/-- The armed rescan's time comes. -/
def rescanNow (q : QRef) (s : State) : State :=
  match (queueOf s q).rescanAt with
  | some t => modQueue q (fun x => { x with rescanAt := none }) (advanceTo t s)
  | none => s

/-- RESCAN_TIMER_EXPIRY (R32). -/
def execRescanTimerExpiry (q : QRef) (s : State) : Host.Outcome State Fault Refusal :=
  .next (if (queueOf s q).rescanAt.isSome then scanQueue q (rescanNow q s) else s)

/-- TORN_LIMIT_EXCEEDED: the scan after the last one that the limit allows finds the head torn still (R32). -/
def execTornLimitExceeded (q : QRef) (s : State) : Host.Outcome State Fault Refusal :=
  .next (
    let x := queueOf s q
    let e := headEntry s q
    if x.rescanAt.isSome && decide (x.rescanLimit ≤ x.tornCount) && eOwner e == x.phase && !(eWhole e) &&
        (queueServed s q || queueFlushes s q) then
      tornHead q e (rescanNow q s)
    else s)

/-! ## Holds that end -/

/-- A held head is read and offered again, and the scan goes on behind it; in ERROR it is flushed (R31, R41). -/
def reoffer (q : QRef) (s : State) : State := if (queueOf s q).heldEntry.isSome then scanQueue q s else s

/-- WAIT_COUNT_RELEASE (R44). -/
def execWaitCountRelease (q : QRef) (s : State) : Host.Outcome State Fault Refusal :=
  .next (match (queueOf s q).hold with
    | .waitCount => reoffer q s
    | _ => s)

/-- FENCE_RELEASE (R37). -/
def execFenceRelease (q : QRef) (s : State) : Host.Outcome State Fault Refusal :=
  .next (match (queueOf s q).hold with
    | .fence => reoffer q s
    | .fenceFlag => reoffer q s
    | _ => s)

/-- HEAD_HOLD_RELEASE: an earlier instance, a busy core, a wake, an earlier VDEV operation, the shaper, or the room in
the completion ring (R36, R42, R228, R272, R391, R438). -/
def execHeadHoldRelease (q : QRef) (s : State) : Host.Outcome State Fault Refusal :=
  .next (match (queueOf s q).hold with
    | .head => reoffer q s
    | .gate => reoffer q s
    | _ => s)

/-! ## The consumer's indices -/

/-- Every queue of a function that waits only for its records settles. -/
def settleAll (fn : Nat) (s : State) : State :=
  let admins := if fn = 0 then s.admins.map (fun p => ({ fn := 0, kind := .admin, index := p.1 } : QRef)) else []
  foldS settleQueue (queuesOf s fn ++ admins) s

/-- Held records are written as far as there is room; a ring that they fill begins a new episode (R42). -/
def drainHeld (fn ring : Nat) (s : State) : State :=
  let s := releaseHeld fn ring ((cqOf s fn ring).held.length) s
  let r := cqOf s fn ring
  let s := match r.held with
    | c :: _ => if r.enable && r.full then cqFull fn ring 0 (recQp c.1) s else s
    | [] => s
  settleAll fn s

/-- A write of `CQ_HEAD`: records are freed, the ring is armed, held records are written (R42, R373). -/
def cqHeadWrite (fn ring v : Nat) (s : State) : State :=
  if 64 ≤ ring then s else
  let s := modCq fn ring (fun r => { r with cons := v % 65536, armed := r.enable }) s
  drainHeld fn ring (modCq fn ring (fun r => { r with fullRaised := r.fullRaised && r.full }) s)

/-- CQ_HEAD_WRITE. -/
def execCqHeadWrite (fn ring : Nat) (value : W32) (s : State) : Host.Outcome State Fault Refusal :=
  .next (if barOpen s fn then cqHeadWrite fn ring value.toNat s else s)

/-- A write of `EQ_HEAD`: records are freed, the ring is armed, a pending EVENT_OVERFLOW record is written (R47, R373). -/
def eqHeadWrite (fn v : Nat) (s : State) : State :=
  eqOverflow fn (modFn fn (fun f => { f with eq := { f.eq with cons := v % 65536, armed := f.eq.enable } }) s)

/-- EQ_HEAD_WRITE. -/
def execEqHeadWrite (fn : Nat) (value : W32) (s : State) : Host.Outcome State Fault Refusal :=
  .next (if barOpen s fn then eqHeadWrite fn value.toNat s else s)

/-! ## Enabling (R48, R49) -/

/-- Rings of the function may lie in Keystone SRAM (`VF_CAP.sram_rings`, R372). -/
def sramRings (s : State) (fn : Nat) : Bool :=
  fn == 0 || (match grantOf s fn with
    | some g => decide (0 < g.sramQueues)
    | none => false)

/-- The place and size of a ring are not valid (R49). -/
def ringBad (s : State) (fn : Nat) (lo hi size : W32) (rec : Nat) : Bool :=
  let n := ringLog2 size
  decide (n < 6) || decide (16 < n) ||
  (if ringSram size then !(sramRings s fn)
   else ringBase lo hi == 0 || decide (2 ^ 64 < ringBase lo hi + rec * 2 ^ n))

/-- Send queues of a function on one Keystone that keep their QP context on chip for a ring in SRAM (R144). -/
def sramUsed (s : State) (fn ks : Nat) : Nat :=
  ((fnOf s fn).sends.filter (fun p => (p.2.enable || p.2.closing) && ringSram p.2.size &&
    queueKs s { fn := fn, kind := .send, index := p.1 } == ks)).length

/-- The exchange window of a function holds a queue's context (R376). -/
def windowCovers (s : State) (q : QRef) : Bool :=
  let w := (fnOf s q.fn).xw
  w.enable && decide (256 * (q.index + 1) ≤ w.pages * 4096)

/-- A send queue's receive area is valid (R68). -/
def recvOk (s : State) (q : QRef) : Bool :=
  let x := queueOf s q
  let e := keyOf s (keyIdx x.recvKey)
  x.recvKey == 0 || (keyCurrent s x.recvKey && e.owner == q.fn && e.recvArea && decide (8 ≤ x.recvLog2Size) &&
    decide (x.recvLog2Size ≤ 20) && decide (x.recvLog2Slots ≤ 16) &&
    decide (2 ^ (x.recvLog2Size + x.recvLog2Slots) ≤ e.length * 256))

/-- A function that holds rings: the PF, or a VF with a virtual device. -/
def hasRings (s : State) (fn : Nat) : Bool := fn == 0 || (grantOf s fn).isSome

/-- An enable of a queue is refused (R49), its completion ring being `cq`. -/
def queueRefused (s : State) (q : QRef) (cq : Nat) : Bool :=
  let x := queueOf s q
  let ring := decide (cqCountOf s q.fn ≤ cq) || !(cqOf s q.fn cq).enable
  ringBad s q.fn x.baseLo x.baseHi x.size 64 || x.st != .reset ||
  (match q.kind with
   | .send =>
     ring || !(ringsFor s q) || !(recvOk s q) ||
     (if ringSram x.size then
        (match grantOf s q.fn with
         | some g => decide (g.sramQueues ≤ sramUsed s q.fn (queueKs s q))
         | none => true)
      else !(windowCovers s q))
   | .control => ring || !(hasRings s q.fn) || q.index != 0
   | .admin => decide (7 < q.index))

/-- RESET to ACTIVE (R24, R48): head 0, phase 1, every receive slot free; a context in the window comes on chip. -/
def startQueue (q : QRef) (cq weight burst : Nat) (s : State) : State :=
  let s := modQueue q (fun x =>
    let slots := if x.recvKey = 0 then 0 else 2 ^ x.recvLog2Slots
    { x with
      cq := cq, weight := weight, burstM1 := burst, enable := true, cfgError := false, head := 0, phase := true, st := .active
      hold := .none, heldEntry := none, headSince := none, tornCount := 0, rescanAt := none, taken := [], closing := false
      recvNext := 0, recvFree := slots, slotsUsed := []
      slotsPast := x.slotsPast ++ x.slotsUsed.map (fun u => (u, x.cq)) }) s
  match q.kind with
  | .send => if ringSram (queueOf s q).size then s else cacheQp (globalQp s q) s
  | _ => s

/-- A write of `QCFG_CTRL` with `enable` = 1 to a queue. -/
def enableQueue (q : QRef) (v : Nat) (s : State) : State :=
  let x := queueOf s q
  let cq := fieldOf v 2 6
  let weight := fieldOf v 8 8
  let burst := fieldOf v 16 6
  if weight = 0 then modQueue q (fun x => { x with cfgError := true }) s
  else if x.enable then modQueue q (fun x => { x with weight := weight, burstM1 := burst, cfgError := false }) s
  else if queueRefused s q cq then modQueue q (fun x => { x with cfgError := true }) s
  else startQueue q cq weight burst s

/-- A write of `enable` = 1 to a ring that the device writes: the ring after it, refused or started (R24, R49, R373). -/
def enableRing (refused : Bool) (v : Nat) (r : OutRing) : OutRing :=
  if refused || fieldOf v 8 8 == 0 then { r with cfgError := true }
  else
    let r := { r with weight := fieldOf v 8 8, burstM1 := fieldOf v 16 6, cfgError := false }
    if r.enable then r
    else { r with cq := fieldOf v 2 6, enable := true, prod := 0, phase := true, cons := 0, armed := true, fullRaised := false }

/-- `cfg_error` of a selection that names no control queue, no event ring and no admin ring of the function: no such ring is
granted to it (R49). -/
def refuseSelection (fn : Nat) (s : State) : State :=
  let f := fnOf s fn
  let x := (f.qselKind, f.qselIndex)
  if f.qselRefused.contains x then s else modFn fn (fun f => { f with qselRefused := f.qselRefused ++ [x] }) s

/-- A write of `QCFG_CTRL` with `enable` = 1 (R49). -/
def ctrlEnable (fn v : Nat) (s : State) : State :=
  let f := fnOf s fn
  let i := f.qselIndex
  match f.qselKind with
  | 0 => enableQueue { fn := fn, kind := .send, index := i } v s
  | 1 =>
    if i = 0 then enableQueue { fn := fn, kind := .control, index := 0 } v s
    else refuseSelection fn s
  | 2 =>
    let r := cqOf s fn i
    let bad := decide (cqCountOf s fn ≤ i) || (!r.enable && ringBad s fn r.baseLo r.baseHi r.size 32)
    drainHeld fn i (setCq fn i (enableRing bad v r) s)
  | 3 =>
    if i ≠ 0 then refuseSelection fn s else
    let r := f.eq
    let bad := !(hasRings s fn) || (!r.enable && ringBad s fn r.baseLo r.baseHi r.size 32)
    eqOverflow fn (modFn fn (fun f => { f with eq := enableRing bad v r }) s)
  | 4 => if fn = 0 then enableQueue { fn := 0, kind := .admin, index := i } v s else refuseSelection fn s
  | _ => s

/-- QUEUE_ENABLE. -/
def execQueueEnable (fn : Nat) (value : W32) (s : State) : Host.Outcome State Fault Refusal :=
  .next (if barOpen s fn && bitOf value.toNat 0 then ctrlEnable fn value.toNat s else s)

/-! ## Disabling (R48, R49) -/

/-- A held WAIT_COUNT completes FLUSHED when its queue is disabled (R44). -/
def flushWait (q : QRef) (s : State) : State :=
  let x := queueOf s q
  let n := x.taken.length
  match x.hold, x.heldEntry with
  | .waitCount, some e =>
    modQueue q (fun x => { x with
      taken := x.taken.take n ++ (x.taken.drop n).map (fun t => { t with status := some stFlushed }) }) (advanceHead e q s)
  | _, _ => s

/-- The QP contexts of a disabled queue leave the chip. -/
def dropQp (q : QRef) (s : State) : State :=
  match q.kind with
  | .send => { s with enpin := { s.enpin with qpOnChip := s.enpin.qpOnChip.filter (fun p => p != globalQp s q) } }
  | _ => s

/-- A write of `QCFG_CTRL` with `enable` = 0 to a queue (R48): no further entry is taken; it returns to RESET once every
taken entry has its record. -/
def disableQueue (q : QRef) (v : Nat) (s : State) : State :=
  let x := queueOf s q
  let cq := if x.enable || x.closing then x.cq else fieldOf v 2 6
  if !x.enable then
    modQueue q (fun x => { x with cq := cq, weight := fieldOf v 8 8, burstM1 := fieldOf v 16 6, cfgError := false }) s
  else if isFatal s then
    modQueue q (fun x => { x with enable := false, closing := true, weight := fieldOf v 8 8, burstM1 := fieldOf v 16 6
                                  cfgError := false }) s
  else
    let s := dropQp q (flushWait q s)
    let s := modQueue q (fun x => { x with
      enable := false, closing := true, weight := fieldOf v 8 8, burstM1 := fieldOf v 16 6, cfgError := false
      hold := .none, heldEntry := none, headSince := none, rescanAt := none }) s
    let s := if x.st = .error then writeEach q s else writeBatches q ((queueOf s q).taken.length + 1) s
    settleQueue q s

/-- A completion ring is still in use (R49): a queue that names it is enabled or has entries without their records, or a
record of it is held or reserved. -/
def cqInUse (s : State) (fn ring : Nat) : Bool :=
  let r := cqOf s fn ring
  (queuesOf s fn).any (fun q =>
    let x := queueOf s q
    x.cq == ring && (x.enable || x.closing || !x.taken.isEmpty)) ||
  !r.held.isEmpty || r.reserved != 0

/-- The fields of `QCFG_CTRL` other than `enable`, as a ring that the device writes keeps them. -/
def ringCtrl (v : Nat) (r : OutRing) : OutRing :=
  { r with cq := if r.enable then r.cq else fieldOf v 2 6, weight := fieldOf v 8 8, burstM1 := fieldOf v 16 6, cfgError := false }

/-- An accepted write of `enable` = 0 clears the `cfg_error` of a selection that names no ring of the function (R52). -/
def acceptSelection (fn : Nat) (s : State) : State :=
  let f := fnOf s fn
  let x := (f.qselKind, f.qselIndex)
  if f.qselRefused.contains x then modFn fn (fun f => { f with qselRefused := f.qselRefused.filter (fun y => y != x) }) s else s

/-- A write of `QCFG_CTRL` with `enable` = 0. -/
def ctrlDisable (fn v : Nat) (s : State) : State :=
  let f := fnOf s fn
  let i := f.qselIndex
  match f.qselKind with
  | 0 => disableQueue { fn := fn, kind := .send, index := i } v s
  | 1 => if i = 0 then disableQueue { fn := fn, kind := .control, index := 0 } v s else acceptSelection fn s
  | 2 =>
    if (cqOf s fn i).enable && cqInUse s fn i then modCq fn i (fun r => { r with cfgError := true }) s
    else modCq fn i (fun r => { ringCtrl v r with enable := false, armed := false }) s
  | 3 =>
    if i = 0 then modFn fn (fun f => { f with eq := { ringCtrl v f.eq with enable := false, armed := false } }) s
    else acceptSelection fn s
  | 4 => if fn = 0 then disableQueue { fn := 0, kind := .admin, index := i } v s else acceptSelection fn s
  | _ => s

/-- QUEUE_DISABLE. -/
def execQueueDisable (fn : Nat) (value : W32) (s : State) : Host.Outcome State Fault Refusal :=
  .next (if barOpen s fn && !(bitOf value.toNat 0) then ctrlDisable fn value.toNat s else s)

/-! ## Counters and telemetry -/

/-- CNT_VALUE_READ: the low bits are read, the high bits latched (R52). -/
def execCntValueRead (fn : Nat) (s : State) : Host.Outcome State Fault Refusal :=
  .next (
    if !(barOpen s fn) then outEmit (.regRead 0) s else
    let c := counterOf s fn (fnOf s fn).cntSel
    outEmit (.regRead (c.setWidth 32)) (modFn fn (fun f => { f with cntHi := BitVec.ofNat 32 (c.toNat / 2 ^ 32) }) s))

/-- A write of `TELEM_CFG` (R171): while enabled only `enable`, `ports` and the interval change. -/
def telemWrite (fn v : Nat) (s : State) : State :=
  let t := (fnOf s fn).telem
  let size := if t.enable then t.ring.size else BitVec.ofNat 32 (v % 32 + (if bitOf v 5 then 2 ^ 29 else 0))
  let n := ringLog2 size
  let bad := decide (n < 6) || decide (16 < n) || decide (64 < t.count) || (ringSram size && !(sramRings s fn))
  let on := bitOf v 6
  let t := { t with ports := bitOf v 7, intervalM1 := fieldOf v 8 8, ring := { t.ring with size := size } }
  let t :=
    if !on then { t with enable := false, ring := { t.ring with enable := false } }
    else if bad then { t with ring := { t.ring with cfgError := true } }
    else if t.enable then { t with ring := { t.ring with cfgError := false } }
    else { t with
           enable := true, skipped := [], ring := { t.ring with
             cfgError := false, enable := true, prod := 0, cons := 0, phase := true } }
  modFn fn (fun f => { f with telem := t }) s

/-- TELEMETRY_ENABLE. -/
def execTelemetryEnable (fn : Nat) (value : W32) (s : State) : Host.Outcome State Fault Refusal :=
  .next (if barOpen s fn then telemWrite fn value.toNat s else s)

end Sys2Proof.Machine
end

