-- ==== Sys2Proof/Machine/Ethernet.lean ====
section
/-! DEFINITION. Ethernet ports: reception and dispatch, frame rings, transmission, preemption, flow control, link states
(R101, R345 to R365). -/

namespace Sys2Proof.Machine

open Sys2Proof

/-- The port is there in the mode in force (R15, R345). -/
def portFitted (s : State) (p : Nat) : Bool := (portsFitted s).contains p

/-- The Ledger index of a port's settings, and of its counters. -/
def portCfg (p : Nat) : Nat := 0x3101 + p
def portCtr (p : Nat) : Nat := 0x9021 + p

/-! ## Tags and priorities (R351) -/

/-- The frame carries a 0x8100 tag at offset 12. -/
def hasTag (b : List Byte) : Bool := nAt b 12 2 == 0x8100

/-- The priority of a frame. -/
def framePrio (s : State) (port : Nat) (b : List Byte) : Nat :=
  if hasTag b then nAt b 14 1 / 32 else ledN s (portCfg port) 0x0E

/-- Where the EtherType stands, behind at most one C-tag. -/
def typeAt (b : List Byte) : Nat := if hasTag b then 16 else 12

/-- A frame that is never Enpin and never cut: an S-tag, or two tags. -/
def oddTags (b : List Byte) : Bool :=
  nAt b 12 2 == 0x88A8 || (hasTag b && (nAt b 16 2 == 0x8100 || nAt b 16 2 == 0x88A8))

/-! ## Frame rings (R361 to R364) -/

/-- Bytes of a slot. -/
def slotBytesOf (m : Nat) : Nat := 2 ^ (11 + m)

/-- Where byte 0 of a slot of a port's ring stands. -/
def frameSlot (port : Nat) (sram : Bool) (base m idx : Nat) : MemId × Nat :=
  ringPlace sram (portKs port) (base + idx * slotBytesOf m)

/-- Deliver a frame to a port's receive ring, or count why not. -/
def toRxRing (port eflags : Nat) (express mirror : Bool) (b : List Byte) (s : State) : State :=
  let x := portOf s port
  let r := x.rxr
  if !r.enable then bump (portCtr port) 0x0E 1 s
  else if r.full || (r.inHost && !(hostOk s)) then bump (portCtr port) 0x0D 1 s
  else
    let prio := framePrio s port b
    let strip := hasTag b && bitOf (ledN s (portCfg port) 0x10) prio
    let f := if strip then b.take 12 ++ b.drop 16 else b
    let room := slotBytesOf x.rxM - 32
    let eflags := eflags + (if room < f.length then 32 else 0)
    let f := f.take room
    let head := leBytes 4 eflags ++ leBytes 2 f.length ++ leBytes 1 port ++
      leBytes 1 (prio + 8 * b2n strip + 16 * b2n express + 32 * b2n mirror) ++
      leBytes 2 (if strip then nAt b 14 2 else 0) ++ List.replicate 6 0 ++ leBytes 8 s.now ++ List.replicate 7 0 ++
      leBytes 1 (if r.phase then 0x80 else 0)
    let (m, a) := frameSlot port (ringSram r.size) (ringBase r.baseLo r.baseHi) x.rxM r.prod
    let s := memWrite m a (head ++ f) s
    let s := modPort port (fun x => { x with rxr := r.pushed }) s
    let s := if eflags % 32 = 0 then s else bump (portCtr port) 0x0F 1 s
    if r.armed then msix 0 (65 + port) s else s

/-! ## Enpin frames (R101) -/

/-- What classification makes of a frame. -/
inductive EnpinRx where
  | notEnpin
  /-- Dropped, by the counter's subindex. -/
  | drop (sub : Nat)
  | ok (p : Packet)
deriving DecidableEq, Repr

/-- The UDP payload, checked for its type, its lengths, its source and its destination, in this order: a frame to which several rows
of R101 apply takes the counter of the first that fails; the IP header is checked before, the UDP length and then its checksum
before these, authentication after them (DESIGN CHOICE, assumption 79). -/
def enpinBody (s : State) (src : List Byte) (body : List Byte) : EnpinRx :=
  match parseEnpin body with
  | .error .badType => .drop 3
  | .error .badLength => .drop 5
  | .ok p =>
    let named := match wallEntry s (idWall p.src) with
      | some w => (wallPorts w).any (fun q => wallAddr w p.src q == src)
      | none => false
    if !named then .drop 4 else if p.dst ≠ ownId s then .drop 8 else .ok p

/-- The UDP header at the front of `u`, `len` bytes of it and its payload being inside the packet. -/
def enpinUdp (s : State) (src : List Byte) (pseudo : List Byte) (v6 : Bool) (u : List Byte) (len : Nat) : EnpinRx :=
  let n := nAt u 4 2
  if n ≠ len ∨ n < 8 ∨ u.length < n then .drop 5
  else if (v6 || nAt u 6 2 != 0) && (nAt u 6 2 == 0 || inetSum (pseudo ++ beBytes 4 n ++ beBytes 4 17 ++ u.take n) != 0) then .drop 2
  else enpinBody s src ((u.take n).drop 8)

/-- Extension headers before a UDP header: the offset of the UDP header, if one follows. -/
def skipExt (b : List Byte) : Nat → Nat → Nat → Option Nat
  | 0, _, _ => none
  | n + 1, nh, off =>
    if nh = 17 then some off
    else if nh = 0 ∨ nh = 43 ∨ nh = 60 ∨ nh = 135 ∨ nh = 139 ∨ nh = 140 then skipExt b n (nAt b off 1) (off + 8 + 8 * nAt b (off + 1) 1)
    else if nh = 44 then skipExt b n (nAt b off 1) (off + 8)
    else if nh = 51 then skipExt b n (nAt b off 1) (off + 8 + 4 * nAt b (off + 1) 1)
    else none

/-- Classify a good frame; its last four bytes are the FCS. -/
def classify (s : State) (port : Nat) (frame : List Byte) : EnpinRx :=
  let b := frame.take (frame.length - 4)
  let at_ := typeAt b
  let ip := b.drop (at_ + 2)
  let udpPort := ledN s 0x4120 1
  match ownWallEntry s with
  | none => .notEnpin
  | some own =>
    let mine := wallAddr own (ownId s) port
    if oddTags b || b.take 6 != portMac s port then .notEnpin
    else if nAt b at_ 2 = 0x0800 ∧ nAt own 2 1 = 4 then
      let ihl := nAt ip 0 1 % 16 * 4
      if (ip.drop 16).take 4 != mine || nAt ip 9 1 != 17 || nAt ip (ihl + 2) 2 != udpPort then .notEnpin
      else if nAt ip 0 1 ≠ 0x45 ∨ nAt ip 6 2 % 0x4000 ≠ 0 ∨ inetSum (ip.take 20) ≠ 0 then .drop 1
      else enpinUdp s ((ip.drop 12).take 4) ((ip.drop 12).take 8) false (ip.drop 20) (nAt ip 2 2 - 20)
    else if nAt b at_ 2 = 0x86DD ∧ nAt own 2 1 = 6 then
      if (ip.drop 24).take 16 != mine then .notEnpin
      else match skipExt ip 8 (nAt ip 6 1) 40 with
        | none => .notEnpin
        | some u =>
          if nAt ip (u + 2) 2 ≠ udpPort then .notEnpin
          else if u ≠ 40 then .drop 1
          else enpinUdp s ((ip.drop 8).take 16) ((ip.drop 8).take 32) true (ip.drop 40) (nAt ip 4 2)
    else .notEnpin

/-- The frame carries CE. -/
def frameCe (b : List Byte) : Bool :=
  let ip := b.drop (typeAt b + 2)
  if nAt b (typeAt b) 2 = 0x0800 then nAt ip 1 1 % 4 == 3 else nAt ip 0 2 / 16 % 4 == 3

/-- A packet goes to the transport: it waits at the internal port, its frame in the receive buffer. -/
def toEnpin (port : Nat) (f : EthFrame) (p : Packet) (s : State) : State :=
  let rx : RxInfo := { ks := portKs port, port := some port, marked := f.ce || frameCe f.bytes }
  let s := { s with eth := { s.eth with internal := s.eth.internal ++ [(rx, p)] } }
  flowCheck port (modPort port (fun x => { x with held := x.held ++ [(p, framePrio s port f.bytes, f.bytes.length)] }) s)

/-! ## Pause frames received (R355) -/

/-- Some timer of the port runs. -/
def timerRuns (x : Port) : Bool := x.paused.isSome || !x.pfc.isEmpty

/-- The time for which a running timer has held a queue is counted up to now (R365). -/
def settlePaused (port : Nat) (s : State) : State :=
  match (portOf s port).pausedSince with
  | some t => modPort port (fun x => { x with pausedSince := some s.now }) (bump (portCtr port) 0x15 (s.now - t) s)
  | none => s

/-- Timers change: the time during which one ran is counted. -/
def setTimers (port : Nat) (g : Port → Port) (s : State) : State :=
  let x := portOf s port
  let y := g x
  if timerRuns x && !(timerRuns y) then
    setPort port { y with pausedSince := none } (bump (portCtr port) 0x15 (s.now - x.pausedSince.getD s.now) s)
  else if !(timerRuns x) && timerRuns y then setPort port { y with pausedSince := some s.now } s
  else setPort port y s

/-- A class's timer after a PFC frame. -/
def pfcTimer (now : Nat) (ns : Nat → Nat) (mask : Nat) (quanta : List Nat) (t : Table Nat) : Table Nat :=
  (rangeFrom 0 8).foldl (fun acc n =>
    if bitOf mask n then
      let q := (quanta[n]?).getD 0
      if q = 0 then tdel acc n else tset acc n (now + ns q)
    else acc) t

/-- A PAUSE or PFC frame: counted, and obeyed as `fc_mode` says. -/
def pauseIn (port : Nat) (pfc : Bool) (mask : Nat) (quanta : List Nat) (s : State) : State :=
  let s := bump (portCtr port) 0x13 1 s
  let mode := ledN s (portCfg port) 5
  let q := (quanta[0]?).getD 0
  if mode = 1 ∧ pfc = false then
    setTimers port (fun x => { x with paused := if q = 0 then none else some (s.now + quantaNs s q) }) s
  else if mode = 2 ∧ pfc = true then
    setTimers port (fun x => { x with pfc := pfcTimer s.now (quantaNs s) mask quanta x.pfc }) s
  else s

/-- PAUSE_FRAME_RECEIVE. -/
def execPauseFrameReceive (port : Nat) (pfc : Bool) (classMask : Nat) (quanta : List Nat) (s : State) :
    Host.Outcome State Fault Refusal :=
  .next (if (portOf s port).linkUp then pauseIn port pfc classMask quanta s else s)

/-- PAUSE_TIMER_EXPIRY: the port's timer, or a class's. -/
def execPauseTimerExpiry (port : Nat) (cls : Option Nat) (s : State) : Host.Outcome State Fault Refusal :=
  .next (
    let x := portOf s port
    match cls with
    | none => (match x.paused with
      | some t => setTimers port (fun x => { x with paused := none }) (advanceTo t s)
      | none => s)
    | some c => (match tfind x.pfc c with
      | some t => setTimers port (fun x => { x with pfc := tdel x.pfc c }) (advanceTo t s)
      | none => s))

/-- XOFF_REPEAT: half of the quanta has passed since the last XOFF (R356). -/
def execXoffRepeat (port prio : Nat) (s : State) : Host.Outcome State Fault Refusal :=
  .next (match tfind (portOf s port).xoff prio with
    | some t =>
      let s := advanceTo t s
      sendPause port prio (ledN s (portCfg port) 9) (modPort port (fun x => { x with xoff := tset x.xoff prio (xoffNext s port) }) s)
    | none => s)

/-! ## Reception (R357 to R360) -/

/-- The error flags of a complete frame, bits 0 to 4. -/
def frameFlags (s : State) (port : Nat) (f : EthFrame) : Nat :=
  b2n f.fcsBad + 2 * b2n f.codeError + 4 * b2n f.fecUncorrectable + 8 * b2n (decide (f.bytes.length < 64)) +
  16 * b2n (decide (ledN s (portCfg port) 3 < f.bytes.length))

/-- An errored frame or fragment that a cut rule had matched is lost to the cutter (R335). -/
def cutLost (port : Nat) (f : EthFrame) (s : State) : State :=
  if f.express && !(oddTags f.bytes) then
    (match cutMatch s port f.bytes with
     | some n => (cutFrame n port false f.bytes s).2
     | none => s)
  else s

/-- An errored frame (R359): counted under its flags, kept if `keep_bad` says so. -/
def erroredFrame (port flags : Nat) (f : EthFrame) (s : State) : State :=
  let s := cutLost port f s
  let s := foldS (fun i t => if bitOf flags i then bump (portCtr port) (5 + i) 1 t else t) (rangeFrom 0 5) s
  if ledN s (portCfg port) 4 = 1 then
    toRxRing port flags f.express false (f.bytes.take (ledN s (portCfg port) 3)) s
  else s

/-- Steps 3 and 4 of R358. -/
def pastCutter (port : Nat) (f : EthFrame) (s : State) : State :=
  match classify s port f.bytes with
  | .ok p => toEnpin port f p s
  | .drop sub => bump 0x9040 sub 1 s
  | .notEnpin => toRxRing port 0 f.express false f.bytes s

/-- A good frame (R358 steps 2 to 4); a missed frame takes the ordinary receive path. -/
def goodFrame (port : Nat) (f : EthFrame) (s : State) : State :=
  let s := bump (portCtr port) 2 f.bytes.length (bump (portCtr port) 1 1 s)
  match (if f.express && !(oddTags f.bytes) then cutMatch s port f.bytes else none) with
  | some n => (match cutFrame n port true f.bytes s with
    | (.cut mirror, s) => if mirror then toRxRing port 0 true true f.bytes s else s
    | (.missed, s) => toRxRing port 0 true false f.bytes s)
  | none => pastCutter port f s

/-- A MAC control frame: EtherType 0x8808, consumed by the MAC. -/
def macControl (port : Nat) (b : List Byte) (s : State) : State :=
  if nAt b 14 2 = 0x0101 then
    pauseIn port true (nAt b 16 2 % 256) ((rangeFrom 0 8).map (fun n => nAt b (18 + 2 * n) 2)) s
  else if nAt b 14 2 = 1 then pauseIn port false 0 [nAt b 16 2] s
  else s

/-- A frame ends reception on a port whose link is up. -/
def ethIn (port : Nat) (f : EthFrame) (s : State) : State :=
  if f.overflow || decide (2 ^ 21 < heldBytes s port 8 + ledN s (portCfg port) 3) then bump (portCtr port) 0x0C 1 s
  else if f.reassemblyError then bump (portCtr port) 0x0B 1 s
  else if f.fragment then bump (portCtr port) 0x0A 1 (cutLost port f s)
  else
    let s := if f.express then bump (portCtr port) 0x10 1 s else s
    let flags := frameFlags s port f
    if flags ≠ 0 then erroredFrame port flags f s
    else if nAt f.bytes 12 2 = 0x8808 then macControl port f.bytes s
    else goodFrame port f s

/-- ETH_FRAME_RECEIVE. -/
def execEthFrameReceive (port : Nat) (f : EthFrame) (s : State) : Host.Outcome State Fault Refusal :=
  .next (
    if portFitted s port && (portOf s port).linkUp then
      ethIn port f (bump (portCtr port) 0x17 f.lost (bump (portCtr port) 0x16 f.corrected s))
    else s)

/-! ## Transmission (R349, R353, R355) -/

/-- Preemption is active (R353). -/
def preemptActive (s : State) (port : Nat) : Bool :=
  let e := portCfg port
  ledN s e 0x0A == 1 && (ledN s e 0x0C == 1 || (portOf s port).verify == Verify.succeeded)

/-- The express frame that may start. -/
def expressReady (s : State) (port : Nat) : Option TxFrame :=
  let x := portOf s port
  match x.express with
  | f :: _ => if x.paused.isSome || (tfind x.pfc (framePrio s port f.bytes)).isSome then none else some f
  | [] => none

/-- The highest class with a frame that no timer holds. -/
def classReady (s : State) (port : Nat) : Option Nat :=
  let x := portOf s port
  if x.paused.isSome then none
  else ([7, 6, 5, 4, 3, 2, 1, 0].filter (fun c => !(tget [] x.classes c).isEmpty && (tfind x.pfc c).isNone)).head?

/-- The head passes every slot that is done, in order; the vector goes out when it moves on an armed ring (R363, R373). -/
def passSlots (port : Nat) : Nat → State → State
  | 0, s => s
  | n + 1, s =>
    let x := portOf s port
    if x.txDone.contains x.txHead then
      let s := setPort port { x with
        txDone := x.txDone.filter (fun k => k != x.txHead), txHead := (x.txHead + 1) % 2 ^ x.txLog2, txArmed := false } s
      passSlots port n (if x.txArmed then msix 0 (69 + port) s else s)
    else s

/-- A ring frame is done with: its slot is software's again once the head has passed it. -/
def slotPassed (port : Nat) (slot : Option Nat) (s : State) : State :=
  match slot with
  | some k => passSlots port wholeRing (modPort port (fun x => { x with txDone := k :: x.txDone }) s)
  | none => s

/-- The first frame of the highest class that may go starts, with its tag; one that its tag carries beyond `max_frame` is dropped and
counted (R350), and the next is looked at. -/
def startClass (port : Nat) : Nat → State → State
  | 0, s => s
  | n + 1, s =>
    match classReady s port with
    | none => s
    | some c =>
      match tget [] (portOf s port).classes c with
      | [] => s
      | f :: rest =>
        let b := tagged s port c f.bytes
        let s := modPort port (fun x => { x with classes := tset x.classes c rest }) s
        if b.length ≠ f.bytes.length ∧ ledN s (portCfg port) 3 < b.length + 4 then
          startClass port n (slotPassed port f.ring (bump (portCtr port) 0x1B 1 s))
        else modPort port (fun x => { x with cur := some { f with bytes := b, addFrag := ledN s (portCfg port) 0x0B } }) s

/-- A preemptable frame under way still has a permitted boundary ahead: each fragment sends 64 × (1 + `add_frag_size`) bytes, and 64
remain. -/
def mayInterrupt (f : TxFrame) : Bool :=
  !f.express && decide (64 * (1 + f.addFrag) * (f.cuts + 1) + 64 ≤ f.bytes.length + 4)

/-- The port starts its next frame: express, then the interrupted one, then the classes. A preemptable frame under way is
interrupted where a permitted boundary is left. -/
def txStart (port : Nat) (s : State) : State :=
  let x := portOf s port
  match x.cur, expressReady s port with
  | none, some f => setPort port { x with cur := some f, express := x.express.drop 1 } s
  | none, none =>
    (match x.hung with
     | some f => setPort port { x with cur := some f, hung := none } s
     | none => startClass port wholeRing s)
  | some g, some f =>
    if mayInterrupt g && preemptActive s port && x.hung.isNone then
      setPort port { x with cur := some f, express := x.express.drop 1, hung := some { g with cuts := g.cuts + 1 } }
        (bump (portCtr port) 0x12 1 s)
    else s
  | some _, none => s

/-- ETH_FRAME_TRANSMIT. -/
def execEthFrameTransmit (port : Nat) (s : State) : Host.Outcome State Fault Refusal :=
  .next (if (portOf s port).linkUp then txStart port s else s)

/-- ETH_TX_COMPLETE: the frame under way has left the port. -/
def execEthTxComplete (port : Nat) (s : State) : Host.Outcome State Fault Refusal :=
  .next (match (portOf s port).cur with
    | some f =>
      let c := portCtr port
      let s := bump c 4 (f.bytes.length + 4) (bump c 3 1 s)
      let s := if f.express then bump c 0x11 1 s else s
      let s := outEmit (.eth port f.express f.bytes) (modPort port (fun x => { x with cur := none }) s)
      slotPassed port f.ring s
    | none => s)

/-! ## The transmit ring (R363) -/

/-- A slot's header breaks the table. -/
def txSlotBad (s : State) (port m : Nat) (h : List Byte) : Bool :=
  let n := df h 2 2
  decide (1 < df h 0 1) || decide (7 < df h 1 1) || (df h 0 1 == 1 && df h 1 1 != 0) || decide (n < 60) ||
  decide (ledN s (portCfg port) 3 < n + 4) || decide (slotBytesOf m - 32 < n) || df h 4 27 != 0 || df h 31 1 % 128 != 0

/-- Queue a ring frame; with the link down it is dropped. -/
def queueSlot (port slot : Nat) (h b : List Byte) (s : State) : State :=
  if !(portOf s port).linkUp then slotPassed port (some slot) (bump (portCtr port) 0x19 1 s)
  else if df h 0 1 = 1 then
    pushExpress port { bytes := b, express := true, cls := 0, ring := some slot, at_ := s.now } s
  else
    let cls := df h 1 1
    let (b, s) := match (if ethMarks s port cls then ceBytes b else none) with
      | some m => (m, bump 0x9042 3 1 s)
      | none => (b, s)
    pushClass port cls { bytes := b, express := false, cls := cls, ring := some slot, at_ := s.now } s

/-- Scan the ring: every owned slot from the scan position on. -/
def txScan (port : Nat) : Nat → State → State
  | 0, s => s
  | n + 1, s =>
    let x := portOf s port
    let (m, a) := frameSlot port x.txSram (ringBase x.txBaseLo x.txBaseHi) x.txM x.txScan
    let h := memRead m a 32 s
    if bitOf (df h 31 1) 7 != x.txPhase then s
    else
      let slot := x.txScan
      let nx := ringNext x.txLog2 slot x.txPhase
      let s := setPort port { x with txScan := nx.1, txPhase := nx.2 } s
      if txSlotBad s port x.txM h then
        txScan port n (slotPassed port (some slot) (modPort port (fun x => { x with txError := true }) (bump (portCtr port) 0x1A 1 s)))
      else txScan port n (queueSlot port slot h (memRead m (a + 32) (df h 2 2) s) s)

/-- A write of the transmit ring's doorbell. -/
def txDoorbell (port : Nat) (s : State) : State :=
  let x := portOf s port
  if portFitted s port && x.txEnable && isReady s then
    let s := setPort port { x with txArmed := true } s
    if x.txSram || hostOk s then txScan port (2 ^ x.txLog2) s else s
  else s

/-- ETH_TXR_DOORBELL. -/
def execEthTxrDoorbell (port : Nat) (s : State) : Host.Outcome State Fault Refusal := .next (txDoorbell port s)

/-! ## Registers (R364) -/

/-- A write of `ETH_RXR_CFG` or `ETH_TXR_CFG`. -/
def ethRingWrite (port : Nat) (tx : Bool) (v : Nat) (s : State) : State :=
  if !(portFitted s port) then s else
  let x := portOf s port
  let n := v % 32
  let m := fieldOf v 5 2
  let on := bitOf v 8
  let bad := decide (n < 6) || decide (16 < n)
  if tx then
    if x.txEnable then
      if on then setPort port { x with txCfgError := false } s
      else setPort port { txOff x with txCfgError := false } s
    else
      let x := { x with txLog2 := n, txM := m, txSram := bitOf v 7, txCfgError := on && bad }
      if on && !bad then setPort port { x with
        txEnable := true, txHead := 0, txScan := 0, txPhase := true, txDone := [], txArmed := true } s
      else setPort port x s
  else if x.rxr.enable then setPort port { x with rxr := { x.rxr with enable := on, cfgError := false, armed := x.rxr.armed && on } } s
  else
    let r := { x.rxr with size := BitVec.ofNat 32 (n + (if bitOf v 7 then 2 ^ 29 else 0)), cfgError := on && bad }
    let r := if on && !bad then { r with enable := true, prod := 0, cons := 0, phase := true, armed := true } else r
    setPort port { x with rxM := m, rxr := r } s

/-- ETH_RING_ENABLE. -/
def execEthRingEnable (port : Nat) (tx : Bool) (value : W32) (s : State) : Host.Outcome State Fault Refusal :=
  .next (ethRingWrite port tx value.toNat s)

/-- A write of `ETH_RXR_HEAD`. -/
def ethHeadWrite (port v : Nat) (s : State) : State :=
  if portFitted s port then modPort port (fun x => { x with rxr := { x.rxr with cons := v % 65536, armed := x.rxr.enable } }) s else s

/-- ETH_RXR_HEAD_WRITE. -/
def execEthRxrHeadWrite (port : Nat) (value : W32) (s : State) : Host.Outcome State Fault Refusal :=
  .next (ethHeadWrite port value.toNat s)

/-- ETH_STAT_READ: the selected counter is read, latched and cleared (R13, R365). -/
def execEthStatRead (port : Nat) (s : State) : Host.Outcome State Fault Refusal :=
  .next (
    if !(portFitted s port) then outEmit (.regRead 0) s else
    let s := settlePaused port s
    let sel := (portOf s port).statSel
    if sel = 0 ∨ 0x1B < sel then outEmit (.regRead 0) (modPort port (fun x => { x with statHi := 0 }) s)
    else
      let k := portCtr port * 256 + sel
      let v := tget 0 s.ledger.counters k
      let s := { s with ledger := { s.ledger with counters := tset s.ledger.counters k 0 } }
      outEmit (.regRead (v.setWidth 32)) (modPort port (fun x => { x with statHi := BitVec.ofNat 32 (v.toNat / 2 ^ 32) }) s))

/-! ## Links (R347, R353) -/

/-- Send a verify frame. -/
def sendVerify (port tries : Nat) (s : State) : State :=
  outEmit (.verify port) (modPort port (fun x => { x with
    verify := .verifying tries, verifyAt := s.now + ledN s (portCfg port) 0x0D * 1000000 }) s)

/-- Verification starts again: at link-up, and at a write of `preempt_enable` or `verify_disable`. -/
def restartVerify (port : Nat) (s : State) : State :=
  let e := portCfg port
  if ledN s e 0x0A ≠ 1 ∨ ledN s e 0x0C = 1 then modPort port (fun x => { x with verify := .disabled }) s
  else if (portOf s port).linkUp then sendVerify port 1 s
  else modPort port (fun x => { x with verify := .waitLink }) s

/-- A link comes up. -/
def portUp (port : Nat) (s : State) : State :=
  let before := usablePorts s
  portListMoved before (restartVerify port (modPort port (fun x => { x with linkUp := true }) s))

/-- ETH_LINK_UP: the port is fitted and enabled, its SerDes calibrated (R465 step 8), its reference and supply present. -/
def execEthLinkUp (port : Nat) (s : State) : Host.Outcome State Fault Refusal :=
  .next (
    if portFitted s port && !(portOf s port).linkUp && ledN s (portCfg port) 2 == 1 && s.board.supply && s.board.clk156 &&
        decide (8 ≤ s.board.step) then portUp port s
    else s)

/-- A link goes down: every queued frame is dropped, ring frames counted and their slots passed; what the port held of
pause timers ends. -/
def portDown (port : Nat) (s : State) : State :=
  let x := portOf s port
  if !x.linkUp then s else
  let before := usablePorts s
  let all := x.express ++ (x.classes.map Prod.snd).flatten ++ x.cur.toList ++ x.hung.toList
  let slots := (all.filter (fun f => f.ring.isSome)).map (fun f => f.ring)
  let s := setTimers port (fun x => { x with
    linkUp := false, express := [], classes := [], cur := none, hung := none, paused := none, pfc := [], xoff := [] }) s
  let s := logFault 4 0 port 0 (bump (portCtr port) 0x18 1 s)
  let s := foldS (fun k t => slotPassed port k (bump (portCtr port) 0x19 1 t)) slots s
  let s := modPort port (fun x => { x with verify := if x.verify = .disabled then .disabled else .waitLink }) s
  portListMoved before s

/-- ETH_LINK_DOWN. -/
def execEthLinkDown (port : Nat) (s : State) : Host.Outcome State Fault Refusal := .next (portDown port s)

/-- ETH_ENABLE_WRITE (R348): 0 takes the link down and holds it down. -/
def execEthEnableWrite (port value : Nat) (s : State) : Host.Outcome State Fault Refusal :=
  .next (
    if !(portFitted s port) || decide (1 < value) then s
    else
      let s := ledCommit (portCfg port) 2 [BitVec.ofNat 8 value] s
      if value = 0 then portDown port s else s)

/-- VERIFY_TIMEOUT: `verify_time` after an attempt; the third fails the procedure. -/
def execVerifyTimeout (port : Nat) (s : State) : Host.Outcome State Fault Refusal :=
  .next (match (portOf s port).verify with
    | .verifying n =>
      let s := advanceTo (portOf s port).verifyAt s
      if n < 3 then sendVerify port (n + 1) s else modPort port (fun x => { x with verify := .failed }) s
    | _ => s)

/-- VERIFY_RESPONSE_RECEIVE. -/
def execVerifyResponseReceive (port : Nat) (s : State) : Host.Outcome State Fault Refusal :=
  .next (match (portOf s port).verify with
    | .verifying _ => modPort port (fun x => { x with verify := .succeeded }) s
    | _ => s)

end Sys2Proof.Machine
end

