-- ==== Sys2Proof/Machine/Migration.lean ====
section
/-! DEFINITION. Walkers, fault records and migrations (R304, R307, R309 to R311, R315). -/

namespace Sys2Proof.Machine

open Sys2Proof

/-! ## Walkers (R304) -/

/-- The walker table with the requests that wait moved into the walkers that are free, in arrival order. -/
def packWalkers (t : Table Walker) : Table Walker :=
  let busy := t.filter (fun p => decide (p.1 < 16))
  let waiting := (t.filter (fun p => decide (16 ≤ p.1))).map Prod.snd
  let slots := ((rangeFrom 0 16).filter (fun i => (tfind busy i).isNone)) ++ rangeFrom 16 waiting.length
  (waiting.zip slots).foldl (fun acc p => tset acc p.2 p.1) busy

def dropWalker (ks n : Nat) (s : State) : State := setWalkers ks (packWalkers (tdel (walkersOf s ks) n)) s

/-- The record that owns a page, or evicts it. -/
def recOf (s : State) (ks fn seg p : Nat) : Option (Nat × FaultRec) :=
  ((recsOf s ks).filter (fun r => decide (1 ≤ r.2.st) && decide (r.2.st ≤ 3) && r.2.fn == fn &&
    ((r.2.seg == seg && r.2.page == p) || (r.2.victimSeg == seg && r.2.victim == p)))).head?

def modRec (ks i : Nat) (g : FaultRec → FaultRec) (s : State) : State :=
  match tfind (recsOf s ks) i with
  | some r => setRecs ks (tset (recsOf s ks) i (g r)) s
  | none => s

/-- A walker has found its page: the request goes on, joins the page's record, or has one allocated, on the home Keystone of the
context (R307). With no free record the walker keeps it (R310). -/
def walked (ks n : Nat) (w : Walker) (s : State) : State :=
  let x := pageOf s w.fn w.seg w.page
  let home := homeKs w.fn
  let first := max w.va (segBase (segOf s w.fn w.seg) + w.page * pageBytes)
  if x.lost then endWaiter w.waiter stMemory first (dropWalker ks n s)
  else if x.resident && !x.migrating then
    let s := dropWalker ks n s
    let more := (s.mig.walkers0 ++ s.mig.walkers1).any (fun p => p.2.waiter == w.waiter) ||
      (s.mig.recs0 ++ s.mig.recs1).any (fun r => r.2.st != 4 && r.2.waiters.any (fun y => y.1 == w.waiter))
    if more then s else resumeWaiter w.waiter s
  else match recOf s home w.fn w.seg w.page with
    | some (i, _) =>
      dropWalker ks n (bump 0x9070 3 1 (modRec home i (fun r => { r with waiters := r.waiters ++ [(w.waiter, w.va)] }) s))
    | none =>
      let i := freeIndex (recsOf s home)
      if i < 128 then
        let r : FaultRec := { st := 1, fn := w.fn, seg := w.seg, page := w.page, start := s.now, num := s.mig.recNext, waiters := [(w.waiter, w.va)] }
        let s := modPage w.fn w.seg w.page (fun x => { x with migrating := true }) (setRecs home (tset (recsOf s home) i r) s)
        dropWalker ks n (bump 0x9070 2 1 { s with mig := { s.mig with recNext := s.mig.recNext + 1 } })
      else setWalkers ks (tset (walkersOf s ks) n { w with st := 3 }) s

/-- The oldest request that waits for a record of a Keystone is retried (R310). -/
def retryWalker (home : Nat) (s : State) : State :=
  let waiting : List (Nat × Nat × Walker) := ((walkersOf s 0).map (fun p => (0, p)) ++ (walkersOf s 1).map (fun p => (1, p))).filter
    (fun p => p.2.2.st == 3 && homeKs p.2.2.fn == home)
  match waiting.foldl (fun best p => match best with
      | none => some p
      | some b => if p.2.2.since < b.2.2.since then some p else some b) none with
  | some (ks, n, w) => walked ks n w s
  | none => s

/-- Requests that wait for a record are retried, the oldest first, as long as one is free (R310). -/
def retryWalkers (home : Nat) (s : State) : State :=
  foldS (fun _ t => retryWalker home t) (rangeFrom 0 (s.mig.walkers0.length + s.mig.walkers1.length)) s

/-- WALKER_READ_COMPLETE: the descriptor and the residency entry have been read. An entry found uncorrectable is lost
(R315). -/
def execWalkerReadComplete (ks walker : Nat) (result : ScrubResult) (s : State) : Host.Outcome State Fault Refusal :=
  .next (
    if 16 ≤ walker then s else
    match tfind (walkersOf s ks) walker with
    | none => s
    | some w =>
      if w.st = 3 then s else
      let s := match result with
        | .uncorrectable =>
          raiseEvent 0 0x30 1 (ownId s) 0 w.seg (segBase (segOf s w.fn w.seg) + w.page * pageBytes)
            (bump 0x9070 9 1 (modPage w.fn w.seg w.page (fun x => { x with lost := true }) s))
        | .corrected => bump 0x9070 7 1 s
        | .clean => s
      walked ks walker w s)

/-! ## The end of a record (R309, R310) -/

/-- The waiter waits for nothing else. -/
def waitsElsewhere (s : State) (w : Waiter) : Bool :=
  (s.mig.walkers0 ++ s.mig.walkers1).any (fun p => p.2.waiter == w) ||
  (s.mig.recs0 ++ s.mig.recs1).any (fun r => decide (r.2.st ≤ 3) && r.2.waiters.any (fun y => y.1 == w))

/-- A packet's page is held by the packet's own build, nothing before it. -/
def holdsPage (w : Waiter) : Bool :=
  match w with
  | .packet _ _ => false
  | _ => true

/-- The record is done: its page is held for each waiter until that waiter is reissued; those that wait for nothing else
resume. -/
def recDone (ks i : Nat) (s : State) : State :=
  match tfind (recsOf s ks) i with
  | none => s
  | some r =>
    let keep := r.waiters.filter (fun w => holdsPage w.1)
    let s := modPage r.fn r.seg r.page (fun x => { x with held := x.held + keep.length }) s
    let s := setRecs ks (if keep.isEmpty then tdel (recsOf s ks) i else tset (recsOf s ks) i { r with st := 4, waiters := keep }) s
    let s := foldS (fun w t => if waitsElsewhere t w.1 then t else resumeWaiter w.1 t) r.waiters s
    retryWalkers ks s

/-- The record has failed: its waiters end with its status; a failure before the write-back ended leaves the victim as it
was. -/
def failRec (ks i status : Nat) (s : State) : State :=
  match tfind (recsOf s ks) i with
  | none => s
  | some r =>
    let s := if r.st = 2 then
        modPage r.fn r.victimSeg r.victim (fun x => { x with migrating := false }) s
      else s
    let s := modPage r.fn r.seg r.page (fun x => { x with migrating := false }) s
    let s := setRecs ks (tdel (recsOf s ks) i) s
    let page := segBase (segOf s r.fn r.seg) + r.page * pageBytes
    let s := foldS (fun w t => endWaiter w.1 status (max w.2 page) t) r.waiters s
    retryWalkers ks s

/-! ## Migrations (R307) -/

/-- Migrations at work on a Keystone. -/
def migRunning (s : State) (ks : Nat) : Nat := ((recsOf s ks).filter (fun r => r.2.st == 2 || r.2.st == 3)).length

/-- The record that waits for a migration slot and was allocated first. -/
def nextRec (s : State) (ks : Nat) : Option Nat :=
  (((recsOf s ks).filter (fun r => r.2.st == 1)).foldl (fun best r => match best with
    | none => some r
    | some b => if r.2.num < b.2.num then some r else some b) none).map Prod.fst

/-- The host access of a migration can be made (R309, R380). -/
def migReach (s : State) (r : FaultRec) : Bool := hostOk s && !(segOf s r.fn r.seg).migrationsFail

/-- MIGRATION_START: a free frame of the quota, or a victim's. A dirty victim stays resident until its write-back has ended. -/
def execMigrationStart (ks record : Nat) (s : State) : Host.Outcome State Fault Refusal :=
  .next (
    if nextRec s ks ≠ some record ∨ 4 ≤ migRunning s ks then s else
    match tfind (recsOf s ks) record with
    | none => s
    | some r =>
      let tier := (segOf s r.fn r.seg).tier
      if !(migReach s r) then failRec ks record stHostLost s
      else match (if framesUsed s r.fn tier < quotaOf s r.fn tier then freeRun s tier 1 else none) with
        | some f => modRec ks record (fun r => { r with st := 3, frame := f }) s
        | none => match victimOf s r.fn tier (fun k => k == r.seg * 2 ^ 20 + r.page) with
          | none => failRec ks record stTranslation s
          | some (vs, vp) =>
            let v := pageOf s r.fn vs vp
            let s := uncachePage r.fn vs vp (bump 0x9070 4 1 s)
            if v.dirty then
              let s := modPage r.fn vs vp (fun x => { x with migrating := true }) s
              modRec ks record (fun r => { r with st := 2, frame := v.frame, victimSeg := vs, victim := vp }) s
            else
              let s := dropPage r.fn vs vp s
              modRec ks record (fun r => { r with st := 3, frame := v.frame, victimSeg := vs, victim := vp }) s)

/-- What a read of a frame found is noted: a corrected granule counts (R312), an uncorrectable one stays so (R313). -/
def frameFound (m : MemId) (a : Nat) (result : ScrubResult) (s : State) : State :=
  match result with
  | .clean => s
  | .corrected => bump 0x9070 (if m = .hbm then 6 else 7) 1 s
  | .uncorrectable =>
    if (badGranules s m a pageBytes).isEmpty then { s with mems := { s.mems with bad := badKey m a :: s.mems.bad } } else s

/-- MIGRATION_WRITEBACK_COMPLETE: the victim's host copy is current, its entry cleared, and the page's read starts. -/
def execMigrationWritebackComplete (ks record : Nat) (result : ScrubResult) (s : State) : Host.Outcome State Fault Refusal :=
  .next (match tfind (recsOf s ks) record with
    | none => s
    | some r =>
      if r.st ≠ 2 then s
      else if !(migReach s r) then failRec ks record stHostLost s
      else
        let m := tierMem (segOf s r.fn r.victimSeg).tier
        let s := writeBack r.fn r.victimSeg r.victim (frameFound m (frameAddr r.frame) result s)
        let s := modPage r.fn r.victimSeg r.victim (fun x => { x with migrating := false }) (dropPage r.fn r.victimSeg r.victim s)
        modRec ks record (fun r => { r with st := 3 }) s)

/-- MIGRATION_READ_COMPLETE: the page is resident and clean, and the waiters go on; poison fails them (R309, R314). -/
def execMigrationReadComplete (ks record : Nat) (poisoned : Bool) (s : State) : Host.Outcome State Fault Refusal :=
  .next (match tfind (recsOf s ks) record with
    | none => s
    | some r =>
      if r.st ≠ 3 then s
      else if !(migReach s r) then failRec ks record stHostLost s
      else if poisoned then
        failRec ks record stMemory (memEvent r.fn 5 r.seg (segBase (segOf s r.fn r.seg) + r.page * pageBytes) s)
      else recDone ks record (loadPage r.fn r.seg r.page r.frame s))

end Sys2Proof.Machine
end

