-- ==== Sys2Proof/Machine/Resets.lean ====
section
/-! DEFINITION. Resets and start-up (R465 to R471, R478, R479, R415, R416). -/

namespace Sys2Proof.Machine

open Sys2Proof

/-! ## What a reset keeps (R469, R470) -/

/-- `ledger_defaults` (R445): the persistent entries outside the 0x7000 block go back to their defaults. -/
def settingsKept (s : State) (power : Bool) : Table Bytes :=
  if !power && beNat (tget [] s.ledger.committed (0x1020 * 256 + 1)) = 1 then
    s.ledger.committed.filter (fun p => decide (0x700000 ≤ p.1) && decide (p.1 < 0x710000))
  else s.ledger.committed

/-- The chip's one-time-programmed and flash-held security state. -/
def secKept (s : State) : Sec :=
  { lc := s.sec.lc, lcCount := s.sec.lcCount, ownerKek := s.sec.ownerKek, identity := s.sec.identity, identityOk := s.sec.identityOk
    secVersionMin := s.sec.secVersionMin, secVersion := s.sec.secVersion, bootSlot := s.sec.bootSlot, revoked := s.sec.revoked
    druwynKeys := s.sec.druwynKeys, certChain := s.sec.certChain, measurements := s.sec.measurements, imageA := s.sec.imageA
    imageB := s.sec.imageB, recoveryImage := s.sec.recoveryImage
    lcNonce := leBytes 8 (Config.draw s.free).toNat ++ leBytes 8 (Config.draw (s.free + 1)).toNat }

/-- The state at the first moment after a reset: `power` tells power-on reset from module reset. -/
def afterReset (power : Bool) (cause : Nat) (s : State) : State :=
  let vals := settingsKept s power
  let led : Ledger := { values := vals, committed := vals }
  let b := s.board
  let board : Board :=
    { step := if power then 1 else 2, resetCause := cause
      resetCount := if power then b.resetCount else min (b.resetCount + 1) 0xFFFFFFFF
      boots := b.boots + 1, faultLog := b.faultLog, supply := true, fieldPwr := b.fieldPwr, clk100 := b.clk100, clk156 := b.clk156
      clk25 := b.clk25 }
  let pow : Power := if power then {} else { thermtrip := s.power.thermtrip, aClocksStopped := s.power.thermtrip || !b.clk25 }
  let mems : Mems :=
    { host := s.mems.host, hbm := if power then [] else s.mems.hbm, lpddr := if power then [] else s.mems.lpddr
      ksram := if power then [] else s.mems.ksram, scratch := if power then [] else s.mems.scratch
      cluster := if power then [] else s.mems.cluster, istore := if power then [] else s.mems.istore
      bad := if power then [] else s.mems.bad.filter (fun k => decide (k < 2 * 2 ^ 48)) }
  let t : State := { pending := s.pending, part := s.part, free := s.free + 3, out := s.out, mems := mems, ledger := led, board := board
                     coll := { residue := s.coll.residue }
                     power := pow, sec := secKept s }
  let t := { t with host := { t.host with perst := s.host.perst } }
  let t := { t with eth := { t.eth with mode := ledN t 0x3100 1 } }
  { t with wall := { t.wall with
      origin := ledN t 0x3200 1 == 1, sizeX := ledN t 0x3200 2, sizeY := ledN t 0x3200 3
      nonce := BitVec.ofNat 16 (Config.draw (s.free + 2)).toNat } }

/-- The idle flit of a link that is not down, with `going down` set (R179, R471). -/
def goingDownFlit (s : State) (link : Nat) : Output := .idle link (idleBytes (idleOf s link true))

/-- For 2 µs every idle flit says `going down`. -/
def sayGoingDown (s : State) : State :=
  let links := (rangeFrom 0 8).filter (fun l => match (linkOf s l).st with
    | .down => false
    | _ => true)
  advanceTo (s.now + 2000) (foldS (fun l t => outEmit (goingDownFlit t l) t) links s)

/-- A module reset (R469, R471): start-up resumes at step 2. -/
def resetModule (cause : Nat) (s : State) : State := { afterReset false cause (sayGoingDown s) with now := 0 }

/-- Power-on reset. -/
def powerReset (s : State) : State := { afterReset true 0 s with now := 0 }

/-- POWER_ON_RESET: the 54 V supply is applied. -/
def execPowerOnReset (s : State) : Host.Outcome State Fault Refusal := .next (powerReset s)

/-- MODULE_RESET, by its cause 1 to 6 (R471). Without supply there is nothing to reset. -/
def execModuleReset (cause : Nat) (s : State) : Host.Outcome State Fault Refusal :=
  .next (if s.board.supply ∧ 1 ≤ cause ∧ cause ≤ 6 then resetModule cause s else s)

/-! ## Images (R415, R416) -/

/-- An image's header is well formed. -/
def imageHeaderOk (b : List Byte) : Bool :=
  df b 0 4 == 0x4E52554F && df b 4 2 == 1 && decide (df b 6 2 ≤ 3) && decide (4 ≤ df b 12 4) &&
  decide (df b 12 4 ≤ 2 ^ 24 - 128) && decide (b.length = 128 + df b 12 4) && ((b.drop 20).take 12).all (fun x => x == 0)

/-- An image is valid (R415). -/
def imageValid (s : State) (b : List Byte) : Bool :=
  imageHeaderOk b &&
  (match tfind s.sec.druwynKeys (df b 6 2) with
   | some pub => !(s.sec.revoked.contains (df b 6 2)) &&
       Config.ecdsaVerify pub (Config.sha256 (b.take 64)) ((b.drop 64).take 64)
   | none => false) &&
  beNat ((b.drop 32).take 32) == (Config.sha256 (b.drop 128)).toNat && decide (s.sec.secVersionMin ≤ df b 8 4)

/-- The image of a slot: 0 A, 1 B, 2 the recovery image. -/
def slotImage (s : State) (slot : Nat) : List Byte :=
  match slot with
  | 0 => s.sec.imageA
  | 1 => s.sec.imageB
  | _ => s.sec.recoveryImage

/-- The slot the boot ROM takes: the valid one with the higher security version, A on a tie, then the recovery image. -/
def bootChoice (s : State) : Option Nat :=
  let a := imageValid s s.sec.imageA
  let b := imageValid s s.sec.imageB
  if a && (!b || decide (df s.sec.imageB 8 4 ≤ df s.sec.imageA 8 4)) then some 0
  else if b then some 1
  else if imageValid s s.sec.recoveryImage then some 2 else none

/-- The booted image's measurements 2 and 3, with 1, 4 and 5 (R417). -/
def measureAll (s : State) : List (BitVec 256) :=
  let lc := match s.sec.lc with
    | .blank => 0 | .provisioned => 1 | .deployed => 2 | .returned => 3 | .decommissioned => 4
  let sevens := s.ledger.committed.filter (fun p => decide (0x700000 ≤ p.1) && decide (p.1 < 0x710000))
  [Config.sha256 (Config.factory 0x7000 0x61), Config.sha256 (slotImage s s.sec.bootSlot),
   Config.sha256 (beBytes 1 s.sec.bootSlot ++ beBytes 4 s.sec.secVersion ++ beBytes 4 s.sec.secVersionMin),
   Config.sha256 (beBytes 1 lc ++ ledBytes s 0x7020 1), Config.sha256 (sevens.map Prod.snd).flatten]

/-- Step 2 found an image: the slot is booted. Images that the model does not hold leave the booted slot as it was. -/
def bootImage (s : State) : State :=
  match bootChoice s with
  | some n => { s with sec := { s.sec with bootSlot := n, secVersion := df (slotImage s n) 8 4 } }
  | none => s

/-- `rollback_commit` at this boot raises the fused minimum; the firmware clears the entry (R416). -/
def rollbackCommit (s : State) : State :=
  if ledN s 0x7030 1 = 1 then
    let s := { s with sec := { s.sec with secVersionMin := max s.sec.secVersionMin (min s.sec.secVersion 64) } }
    { s with ledger := { s.ledger with values := tdel s.ledger.values (0x7030 * 256 + 1)
                                       committed := tdel s.ledger.committed (0x7030 * 256 + 1) } }
  else s

/-! ## Start-up (R465 to R467) -/

/-- The next step begins. -/
def beginStep (n : Nat) (s : State) : State := { s with board := { s.board with step := n, stepAt := s.now } }

/-- Step 4: values restored, keys unwrapped unless an alarm is latched, `position_wait` taken for step 10. -/
def stepRestore (s : State) : State :=
  let s := rollbackCommit s
  let s := { s with sec := { s.sec with keysUnwrapped := s.sec.alarms == 0 } }
  let s := { s with sec := { s.sec with measurements := measureAll s, drbgAt := s.free } }
  { s with board := { s.board with positionWait := ledN s 0xA000 5 } }

/-- Step 7: compute, mortar and Keystone SRAM outside secure SRAM are zeros; every die starts at `safe_point`. -/
def stepZero (s : State) : State :=
  let s := { s with mems := { s.mems with ksram := [], scratch := [], cluster := [], istore := [] } }
  foldS (fun d t => modDie d (fun x => { x with point := ledN t 0x2020 4 }) t) (rangeFrom 0 (diesFitted s.part)) s

/-- Step 10: the origin, and a module in fixed mode, take their position (R183). -/
def ownPosition (s : State) : State :=
  if s.wall.pos.isSome then s
  else if ledN s 0x3200 5 = 1 then
    let c := ledN s 0x3200 6
    takePosition (c % 32) (c / 256 % 32) (ledN s 0x3200 4) s.wall.sizeX s.wall.sizeY s
  else if s.wall.origin then takePosition 0 0 (ledN s 0x3200 4) s.wall.sizeX s.wall.sizeY s
  else s

/-- A step ends. -/
def stepDone (ok : Bool) (s : State) : State :=
  match s.board.step with
  | 1 => beginStep 2 s
  | 2 => if ok then beginStep 3 (bootImage { s with sec := { s.sec with wiping := false } })
    else { s with board := { s.board with mstate := 3 } }
  | 3 => beginStep 4 s
  | 4 => beginStep 5 (stepRestore s)
  | 5 => if ok then beginStep (if s.part = .tmv9110 then 7 else 6) s else goFatal 8 0 0 s
  | 6 => if ok then beginStep 7 s else goFatal 8 0 0 s
  | 7 => if ok then beginStep 8 (stepZero s) else goFatal 9 0 0 s
  | 8 => beginStep 9 s
  | 9 => ownPosition (beginStep 10 s)
  | 10 => if s.wall.pos.isSome then beginStep 11 s else s
  | 11 => { beginStep 12 s with board := { (beginStep 12 s).board with mstate := 1 } }
  | _ => s

/-- STARTUP_STEP_COMPLETE: THERMTRIP# halts start-up where it is (R471); recovery and FATAL end it. -/
def execStartupStepComplete (o : StepOutcome) (s : State) : Host.Outcome State Fault Refusal :=
  .next (if s.board.mstate ≠ 0 ∨ s.power.thermtrip = true ∨ s.board.supply = false then s else stepDone (o == .ok) s)

/-- POSITION_WAIT_EXPIRY: step 10 ends without a position (R467). -/
def execPositionWaitExpiry (s : State) : Host.Outcome State Fault Refusal :=
  .next (
    if s.board.step = 10 ∧ s.board.mstate = 0 ∧ s.wall.pos.isNone = true ∧ s.power.thermtrip = false then
      beginStep 11 (advanceTo (s.board.stepAt + s.board.positionWait * 1000000) s)
    else s)

/-! ## Resets that the device makes itself (R478, R479) -/

/-- FATAL_AUTO_RESET_EXPIRY. -/
def execFatalAutoResetExpiry (s : State) : Host.Outcome State Fault Refusal :=
  .next (match s.board.fatalAt with
    | some t =>
      let n := ledN s 0xA000 4
      if isFatal s ∧ n ≠ 0 then resetModule 6 (advanceTo (t + n * 1000000) s) else s
    | none => s)

/-- What a firmware restart loses (R470): sessions, staging, the response cache, learning. -/
def firmwareLost (s : State) : State :=
  let led := s.ledger
  { s with
    ledger := { led with commit := none, staging := [], snapshots := [], cache := [], waiting := [], session := {} }
    sec := { s.sec with spdm := .idle }
    host := { s.host with doe := none }
    power := { s.power with dies := s.power.dies.map (fun d => (d.1, { d.2 with
      learn := [], probing := false, point := min d.2.point (ledN s 0x2020 4), target := none, next := none })) } }

/-- WATCHDOG_EXPIRY: the firmware restarts; the third restart within 60 s resets the module. -/
def execWatchdogExpiry (s : State) : Host.Outcome State Fault Refusal :=
  .next (
    if s.board.supply = false ∨ s.board.step < 3 then s else
    let s := bump 0x90A0 5 1 (logFault 4 4 0 0 s)
    let recent := s.board.restarts.filter (fun t => decide (s.now ≤ t + 60000000000))
    if 2 ≤ recent.length then resetModule 5 s
    else
      let s := firmwareLost s
      { s with board := { s.board with fwRestarting := true, restarts := recent ++ [s.now] } })

/-- FIRMWARE_RESTART_END. -/
def execFirmwareRestartEnd (s : State) : Host.Outcome State Fault Refusal :=
  .next { s with board := { s.board with fwRestarting := false } }

/-! ## Links between the dies (R477) -/

/-- The link is there. -/
def d2dFitted (s : State) (l : D2dLink) : Bool :=
  match l with
  | .k0k1 => true
  | .ka _ die => decide (die < diesFitted s.part)

/-- D2D_CRC_FAILURE: replayed, with a retrain if the replays fail; counted. -/
def execD2dCrcFailure (link : D2dLink) (s : State) : Host.Outcome State Fault Refusal :=
  .next (if d2dFitted s link && s.board.supply then bump 0x90A0 1 1 s else s)

/-- D2D_FAILURE_TIMEOUT: the link is not back within 100 µs. -/
def execD2dFailureTimeout (link : D2dLink) (s : State) : Host.Outcome State Fault Refusal :=
  .next (
    if !(d2dFitted s link && s.board.supply) then s else
    match link with
    | .k0k1 => goFatal 2 0 0 s
    | .ka _ die => goFatal 3 die die s)

end Sys2Proof.Machine
end

