-- ==== Sys2Proof/Machine/HostLink.lean ====
section
/-! DEFINITION. The host link: host losses, attaching again, completion timeouts, snoops, the PF's FLR, exchange windows
(R366, R367, R376 to R384, R489, R491). -/

namespace Sys2Proof.Machine

open Sys2Proof

/-! ## Accesses in progress at a loss (R379) -/

/-- A virtual range of a function lies in a host segment. -/
def inHostSeg (s : State) (fn va len : Nat) : Bool :=
  match segUsing s fn va len with
  | some i => (segOf s fn i).tier == 2
  | none => false

/-- A message still has host memory to read. -/
def msgReadsHost (s : State) (m : TxMsg) : Bool :=
  decide (m.next < m.pktCount) && (match m.src with
    | .va fn b => inHostSeg s fn (b.toNat + m.start) m.len
    | _ => false)

/-- A response's data on its way to host memory. -/
def admWritesHost (s : State) (a : Adm) : Bool :=
  !a.written && (match a.tgt with
    | .va fn b => inHostSeg s fn b.toNat a.data.length
    | _ => false)

/-- The entry that asked for a response whose packet is being written. -/
def admOwner (s : State) (a : Adm) : Owner :=
  match ctxOf s a.peer with
  | some c => (match (c.reqs.filter (fun r => r.resp.contains a.msgId)).head? with
    | some r => r.owner
    | none => .none)
  | none => .none

/-- An entry has a host access in progress. -/
def needsHost (s : State) (q : QRef) (idx : Nat) : Bool :=
  s.enpin.ctxs.any (fun c => c.2.msgs.any (fun m => decide (m.owner = .entry q idx) && msgReadsHost s m)) ||
  s.enpin.adms.any (fun a => admWritesHost s a && decide (admOwner s a = .entry q idx))

/-- Every queue of the module. -/
def allQueues (s : State) : List QRef :=
  (s.fns.map (fun p => queuesOf s p.1)).flatten ++
  s.admins.map (fun p => { fn := 0, kind := .admin, index := p.1 })

/-- The entries of a queue that need a host access complete HOST_LINK_LOST, oldest first (R379 step 1). -/
def loseEntries (q : QRef) (s : State) : State :=
  foldS (fun t u => if needsHost u q t.idx && (takenAt? u q t.idx).isSome then
      complete q t.idx stHostLost 0 0 (bump 0x9045 2 1 u) else u) (queueOf s q).taken s

/-- Nothing more is written to host memory. -/
def dropHostWrites (s : State) : State :=
  { s with enpin := { s.enpin with adms := s.enpin.adms.map (fun a => if admWritesHost s a then { a with tgt := .nothing } else a) } }

/-- The host side of a MOVE: its address. -/
def moveHost (s : State) (core : Nat) (c : W128) : Option Nat :=
  ([mvSrc c, mvDst c].filter (fun a => mvSpace a == 2 &&
    (segOf s ((coreFn s core).getD 0) (a % 2 ^ 44 / 2 ^ 40)).tier == 2)).head?

/-- A running MOVE from or to a host segment traps (R262). -/
def loseMove (core : Nat) (s : State) : State :=
  match ((coreOf s core).running.filter (fun r => r.unit == 9 && !r.waiting)).head? with
  | some r => (match moveHost s core r.cmd with
    | some a => trapCore core 9 stHostLost a (bump 0x9045 2 1 s)
    | none => s)
  | none => s

/-- Migrations under way on a Keystone fail (R309). -/
def loseMigrations (ks : Nat) (s : State) : State :=
  foldS (fun i t => failRec ks i stHostLost (bump 0x9045 2 1 t))
    (((recsOf s ks).filter (fun r => r.2.st == 2 || r.2.st == 3)).map Prod.fst) s

/-- Packets parked for a QP context are answered and dropped (R143). -/
def loseParked (s : State) : State := dropForHost (fun p => p.needQp.isSome) s

/-- Every host access in progress is abandoned. -/
def abandonHost (s : State) : State :=
  let s := foldS loseEntries (allQueues s) s
  let s := dropHostWrites s
  let s := foldS loseMove (s.compute.cores.map Prod.fst) s
  loseParked (loseMigrations 1 (loseMigrations 0 s))

/-! ## Host losses (R378) -/

/-- A host loss is recorded; losses that meet in one instant count once (R491). -/
def noteLoss (s : State) : State :=
  if s.host.lossAt = some s.now then s
  else
    let n := min 255 (s.host.losses + 1)
    let s := bump 0x9045 1 1 { s with host := { s.host with losses := n, lost := true, lossAt := some s.now } }
    emergency 6 n s

/-- A host loss: a module reset under policy 1, else the device is detached (R378, R379). -/
def hostLoss (s : State) : State :=
  let s := noteLoss s
  if ledN s 0x4170 1 = 1 then resetModule 2 s
  else if !(hostOk s) then s
  else abandonHost { s with host := { s.host with attached := false } }

/-- The data link layer is down. -/
def linkGone (s : State) : State := { s with host := { s.host with linkUp := false, width := 0, speed := 0 } }

/-- HOST_DATA_LINK_DOWN. -/
def execHostDataLinkDown (s : State) : Host.Outcome State Fault Refusal :=
  .next (if s.host.linkUp then hostLoss (linkGone s) else s)

/-- HOST_DATA_LINK_UP: trained, from step 9 of start-up on, with supply and reference and without PERST# (R465, R489). -/
def execHostDataLinkUp (x16 gt64 : Bool) (s : State) : Host.Outcome State Fault Refusal :=
  .next (
    if s.board.supply && s.board.clk100 && !s.host.perst && decide (9 ≤ s.board.step) then
      { s with host := { s.host with linkUp := true, width := if x16 then 3 else 2, speed := if gt64 then 2 else 1 } }
    else s)

/-- PERST_ASSERT: a host loss, or before step 9 of start-up a held link reset (R381, R471, R489). -/
def execPerstAssert (s : State) : Host.Outcome State Fault Refusal :=
  .next (
    if s.host.perst then s else
    let s := linkGone { s with host := { s.host with perst := true } }
    if s.board.supply && decide (9 ≤ s.board.step) then hostLoss s else s)

/-- PERST_DEASSERT: link training starts. -/
def execPerstDeassert (s : State) : Host.Outcome State Fault Refusal := .next { s with host := { s.host with perst := false } }

/-! ## HOST_ATTACH (R380) -/

/-- A queue's ring lies in host memory. -/
def hostRing (s : State) (q : QRef) : Bool := !(ringSram (queueOf s q).size)

/-- The records held for a function's completion rings are written, in order. -/
def writeHeld (fn : Nat) (s : State) : State := foldS (drainHeld fn) ((fnOf s fn).cqs.map Prod.fst) s

/-- Resume: held records are written, then every enabled queue in host memory is scanned (R34, R35). -/
def attachResume (s : State) : State :=
  let s := { s with host := { s.host with attached := true } }
  let s := foldS writeHeld (s.fns.map Prod.fst) s
  let due := (allQueues s).filter (fun q =>
    let x := queueOf s q
    x.enable && hostRing s q && x.st != .reset && x.rescanAt.isNone)
  let tenants := due.filter (fun q => q.kind != .admin)
  let s := foldS (fun q t => serveAdmin q wholeRing t) (due.filter (fun q => q.kind == .admin)) s
  let s := roundsOn 0 wholeRing (tenants.filter (fun q => queueKs s q == 0)) s
  roundsOn 1 wholeRing (tenants.filter (fun q => queueKs s q == 1)) s

/-- HOST_ATTACH_RESUME. -/
def execHostAttachResume (s : State) : Host.Outcome State Fault Refusal := .next (if hostOk s then s else attachResume s)

/-- Held records for one completion ring in host memory are discarded and counted. -/
def discardHeld (fn ring : Nat) (s : State) : State :=
  let r := cqOf s fn ring
  if r.inHost then setCq fn ring { r with held := [] } (bump 0x9045 3 r.held.length s) else s

def discardAll (fn : Nat) (s : State) : State := foldS (discardHeld fn) ((fnOf s fn).cqs.map Prod.fst) s

/-- A ring that the device writes in host memory is disabled. -/
def ringOff (r : OutRing) : OutRing := if r.inHost then { r with enable := false, armed := false } else r

/-- A function after a fresh attach: its host segments, window, and rings in host memory are off; migrations of its
migratory segments fail until they are disabled. -/
def freshFn (fn : Nat) (s : State) : State :=
  let s := foldS (fun i t => if (segOf t fn i).tier = 2 ∧ (segOf t fn i).enable = true then dropSeg fn i t else t) (rangeFrom 0 16) s
  modFn fn (fun f => { f with
    cqs := f.cqs.map (fun r => (r.1, ringOff r.2))
    eq := ringOff f.eq
    telem := if f.telem.ring.inHost then { f.telem with enable := false, ring := ringOff f.telem.ring } else f.telem
    xw := { f.xw with enable := false }
    segs := f.segs.map (fun g => if g.2.migratory && (g.2.enable || g.2.disabling) then (g.1, { g.2 with migrationsFail := true })
      else g) }) s

/-- Frame rings in host memory are disabled. -/
def freshPort (p : Nat) (s : State) : State :=
  modPort p (fun x =>
    let x := { x with rxr := ringOff x.rxr }
    if x.txEnable && !x.txSram then txOff x else x) s

/-- Fresh: held records are discarded, every queue in host memory is in RESET, and what lay in the host's hands is off. -/
def attachFresh (s : State) : State :=
  let fns := s.fns.map Prod.fst
  let s := foldS discardAll fns s
  let s := foldS (fun q t => if hostRing t q && (queueOf t q).st != .reset then dropQp q (endQueue stFlushed q t) else t) (allQueues s) s
  let s := foldS discardAll fns s
  let s := foldS freshFn fns s
  let s := foldS freshPort (s.eth.ports.map Prod.fst) s
  { s with host := { s.host with attached := true } }

/-- HOST_ATTACH_FRESH. -/
def execHostAttachFresh (s : State) : Host.Outcome State Fault Refusal := .next (if hostOk s then s else attachFresh s)

/-! ## Timeouts and snoops (R367, R382) -/

/-- CXL_COMPLETION_TIMEOUT: the read is abandoned and counted; it is no host loss. -/
def execCxlCompletionTimeout (a : HostAccess) (s : State) : Host.Outcome State Fault Refusal :=
  .next (match a with
    | .entry q idx =>
      (match ((s.fns.filter (fun f => match f.2.vop with
          | some (.save p i _ _ _) => decide (p = q) && i == idx
          | _ => false)).head?) with
       | some (v, f) => (match f.vop with
         | some (.save _ _ _ _ va) => vdevCause q idx va.toNat 15 (setVop v none (bump 0x9045 4 1 s))
         | _ => s)
       | none =>
         if needsHost s q idx && (takenAt? s q idx).isSome then
           complete q idx stHostLost 0 0 (bump 0x9045 4 1 s)
         else s)
    | .migration ks r =>
      (match tfind (recsOf s ks) r with
       | some x => if x.st = 2 ∨ x.st = 3 then failRec ks r stHostLost (bump 0x9045 4 1 s) else s
       | none => s)
    | .qpContext qp =>
      let test := fun (p : Parked) => p.needQp == some qp
      if (s.enpin.banker0 ++ s.enpin.banker1).any test then dropForHost test (bump 0x9045 4 1 s) else s)

/-- SNOOP_RECEIVE: no line is in use between the commands, so the answer follows at once. -/
def execSnoopReceive (line : Nat) (s : State) : Host.Outcome State Fault Refusal := .next (outEmit (.snoopAnswer line) s)

/-! ## The PF's FLR (R384) -/

/-- An operation's entry is gone; the operation goes on. -/
def detachVop (o : VOp) : VOp :=
  match o with
  | .freeze q _ r => .freeze q 65536 r
  | .save q _ b l r => .save q 65536 b l r
  | .restore q _ i m r h => .restore q 65536 i m r h
  | .reset q _ r => .reset q 65536 r
  | .destroy q _ r => .destroy q 65536 r
  | .flr => .flr

/-- The PF's own virtual-device state is reset as a VF's; its admin rings with it. -/
def resetPf (s : State) : State :=
  let s := foldS (endQueue stManager) (s.admins.map (fun p => ({ fn := 0, kind := .admin, index := p.1 } : QRef))) s
  let s := { s with admins := [], fns := s.fns.map (fun f => (f.1, { f.2 with vop := f.2.vop.map detachVop })) }
  let s := endDrains 0 (resetFn 0 false s)
  modFn 0 (fun f => { f with vstate := if f.grant.isSome then f.vstate else .none }) s

/-- PF_FLR: a host loss; under policy 0 the PF's own state is reset too. -/
def execPfFlr (s : State) : Host.Outcome State Fault Refusal :=
  .next (
    if !s.board.supply then s
    else if ledN s 0x4170 1 = 1 then hostLoss s
    else resetPf (hostLoss s))

/-! ## Exchange windows (R376) -/

/-- A host-ring queue of a function is not RESET. -/
def hostQueueLive (s : State) (fn : Nat) : Bool := (queuesOf s fn).any (fun q => hostRing s q && (queueOf s q).st != .reset)

/-- A write of `XW_CTRL`. -/
def xwWrite (v : Nat) (s : State) : State :=
  let fn := s.host.xwSel
  if 1024 < fn then s else
  let w := (fnOf s fn).xw
  let bad := if bitOf v 0 then !w.enable && (w.pages == 0 || decide (65536 < w.pages) || ringBase w.baseLo w.baseHi == 0)
    else w.enable && hostQueueLive s fn
  if bad then modFn fn (fun f => { f with xw := { f.xw with cfgError := true } }) s
  else modFn fn (fun f => { f with xw := { f.xw with enable := bitOf v 0, cfgError := false } }) s

/-- EXCHANGE_WINDOW_ENABLE. -/
def execExchangeWindowEnable (value : W32) (s : State) : Host.Outcome State Fault Refusal := .next (xwWrite value.toNat s)

end Sys2Proof.Machine
end

