-- ==== Sys2Proof/Machine/Power.lean ====
section
/-! DEFINITION. Power and temperature (R422 to R439): the Level controller, learning, energy attribution, the meter,
thermal limits, idle states and wakes. -/

namespace Sys2Proof.Machine

open Sys2Proof

/-! ## Operating points (R422, R423) -/

/-- The A-clock of a point in units of 100 MHz, and its voltage in mV. -/
def opFreq (k : Nat) : Nat := ([12, 14, 16, 18, 20, 22, 24, 26, 28, 30, 32, 34, 36, 38, 39, 40].drop k).headD 40
def opVolt (k : Nat) : Nat :=
  ([550, 570, 590, 610, 630, 660, 690, 720, 750, 780, 810, 840, 870, 900, 925, 950].drop k).headD 950

/-- f × V², by which power scales. -/
def fv2 (k : Nat) : Rat := ((opFreq k * opVolt k * opVolt k : Nat) : Rat)

/-- The point at which a die computes: the lower of the two while a change is in progress. -/
def runPoint (x : Die) : Nat := min x.point (x.target.getD x.point)

/-- A decision for a die: at once, or once the change in progress has ended. -/
def setPoint (d k : Nat) (s : State) : State :=
  match (dieOf s d).target with
  | some _ => modDie d (fun x => { x with next := some k }) s
  | none => if (dieOf s d).point = k then s else bump 0x9090 3 1 (modDie d (fun x => { x with target := some k }) s)

/-- OP_CHANGE_COMPLETE. -/
def execOpChangeComplete (die : Nat) (s : State) : Host.Outcome State Fault Refusal :=
  .next (match (dieOf s die).target with
    | none => s
    | some t =>
      let n := (dieOf s die).next
      let s := modDie die (fun x => { x with point := t, target := none, next := none }) s
      match n with
      | some k => setPoint die k s
      | none => s)

/-! ## Phases (R424, R425, R429) -/

/-- The pair of function and phase that a core is in. -/
def pairKey (s : State) (core : Nat) : Option Nat :=
  match launchOf s core, (coreOf s core).st with
  | some l, .running => some (l.fn * 2 ^ 16 + (coreOf s core).phase)
  | some l, .blocked => some (l.fn * 2 ^ 16 + (coreOf s core).phase)
  | _, _ => none

/-- The pairs of some cores, each with its number of cores. -/
def pairsIn (s : State) (cores : List Nat) : Table Nat :=
  cores.foldl (fun t c => match pairKey s c with
    | some k => tset t k (tget 0 t k + 1)
    | none => t) []

/-- Cores of a die that hold state. -/
def dieCores (s : State) (d : Nat) : List Nat := (s.compute.cores.map Prod.fst).filter (fun c => coreDie c == d)

/-- The valid preference of a pair: point and fixed flag; the lower subindex governs. -/
def prefOf (s : State) (key : Nat) : Option (Nat × Bool) :=
  (((rangeFrom 1 64).map (fun n => ledBytes s 0x2100 n)).filter (fun b =>
    bitOf (df b 5 1) 0 && df b 0 2 * 2 ^ 16 + df b 2 2 == key)).head?.map (fun b => (df b 4 1, bitOf (df b 5 1) 1))

/-- The point a pair asks for. -/
def askOf (s : State) (key : Nat) : Nat :=
  match prefOf s key with
  | some p => p.1
  | none => 15

def isFixed (s : State) (key : Nat) : Bool :=
  match prefOf s key with
  | some p => p.2
  | none => false

/-! ## Learning (R426) -/

/-- The entry of a learning table that has been unused longest. -/
def oldestLearn (t : Table (Nat × Nat × Nat)) : Option Nat :=
  (t.foldl (fun b e => match b with
    | none => some (e.1, e.2.2.2)
    | some x => if e.2.2.2 < x.2 then some (e.1, e.2.2.2) else b) none).map Prod.fst

/-- A pair's entry is used: its activity power is measured afresh, a free value; a new entry starts at s = 1. -/
def touchLearn (d key : Nat) (s : State) : State :=
  let p := (drawOf s).toNat
  modDie d (fun x =>
    match tfind x.learn key with
    | some e => { x with learn := tset x.learn key (p, e.2.1, s.now) }
    | none =>
      let t := if x.learn.length < 256 then x.learn else (match oldestLearn x.learn with
        | some k => tdel x.learn k
        | none => x.learn)
      { x with learn := tset t key (p, 65536, s.now) }) (drawn s)

/-- One pair's sensitivity after a probe: the two rates are free values. -/
def learnProbe (d hi lo key : Nat) (s : State) : State :=
  let sNew := min 65536 (Config.probeSensitivity (drawOf s).toNat (drawOf (drawn s)).toNat hi lo)
  modDie d (fun x => match tfind x.learn key with
    | some e => { x with learn := tset x.learn key (e.1, e.2.1 - e.2.1 / 8 + sNew / 8, e.2.2) }
    | none => x) (drawn (drawn s))

/-- The probe period of a die ends. -/
def probeEnd (d : Nat) (s : State) : State :=
  match (dieOf s d).probe with
  | none => s
  | some (hi, lo, void) =>
    let s := modDie d (fun x => { x with probe := none }) s
    if void then s else foldS (fun p t => learnProbe d hi lo p.1 t) (pairsIn s (dieCores s d)) s

/-- A droop stretch or a thermal limit voids a probe sample. -/
def voidProbe (d : Nat) (s : State) : State :=
  modDie d (fun x => { x with probe := x.probe.map (fun p => (p.1, p.2.1, true)) }) s

/-- PROBE_INTERVAL_EXPIRY: the next period of the die is a probe, above point 0 and without a fixed pair. -/
def execProbeIntervalExpiry (die : Nat) (s : State) : Host.Outcome State Fault Refusal :=
  .next (
    if die < diesFitted s.part ∧ (dieOf s die).point ≠ 0 ∧ (pairsIn s (dieCores s die)).all (fun p => !(isFixed s p.1)) = true then
      modDie die (fun x => { x with probing := true }) s
    else s)

/-! ## The decision (R428) -/

/-- What a decision works on: each die's ceiling-bound wish, its floor point, and what it would cost at each point. -/
structure DieView where
  want : Nat
  power : Nat → Rat
  gain : Nat → Rat

/-- A sum of rationals. -/
def sumRat (l : List Rat) : Rat := l.foldl (fun a b => a + b) 0

/-- The learned entry of a pair of a die. -/
def learnOf (s : State) (d key : Nat) : Nat × Nat × Nat := tget (0, 65536, 0) (dieOf s d).learn key

/-- The average of a value over a die's pairs, weighted by their cores. -/
def weighted (pairs : Table Nat) (f : Nat → Rat) : Rat :=
  sumRat (pairs.map (fun p => ((p.2 : Nat) : Rat) * f p.1)) / (((pairs.map Prod.snd).foldl (· + ·) 0 : Nat) : Rat)

/-- A die as the decision sees it. `scale` is M / m while disagreeing, else 1. -/
def viewDie (s : State) (scale : Rat) (d : Nat) : DieView :=
  let pairs := pairsIn s (dieCores s d)
  let sens (k : Nat) : Nat := (learnOf s d k).2.1
  let top := min (min (ledN s 0x2001 (d + 1)) (dieOf s d).thermalCeiling) (if s.power.fallback then ledN s 0x2020 4 else 15)
  let asked := min top ((pairs.map (fun p => askOf s p.1)).foldl max 0)
  let low := !pairs.isEmpty &&
    decide (100 * weighted pairs (fun k => ((sens k : Nat) : Rat)) < ((ledN s 0x2001 6 * 65536 : Nat) : Rat))
  let pairPower (k : Nat) : Rat :=
    sumRat (pairs.map (fun p => (((learnOf s d p.1).1 : Nat) : Rat) * fv2 k / fv2 (runPoint (dieOf s d))))
  { want := if low then min asked (ledN s 0x2001 7) else asked
    power := fun k => scale * (pairPower k + ((Config.staticShare d k : Nat) : Rat))
    gain := fun k => weighted pairs (fun x => ((Config.pairGain (sens x) k : Nat) : Rat)) }

/-- The modelled power of the dies at some points. -/
def sumPower : List DieView → List Nat → Rat
  | v :: vs, p :: ps => v.power p + sumPower vs ps
  | _, _ => 0

/-- What the step of a die from point k to k + 1 gives for each unit of power. -/
def stepValue (v : DieView) (k : Nat) : Rat := v.gain k / (v.power (k + 1) - v.power k)

/-- The stepChoices of a choice: index and value, for the dies that a test admits. -/
def stepChoices (ok : DieView → Nat → Bool) (val : DieView → Nat → Rat) : Nat → List DieView → List Nat → List (Nat × Rat)
  | i, v :: vs, p :: ps => (if ok v p then [(i, val v p)] else []) ++ stepChoices ok val (i + 1) vs ps
  | _, _, _ => []

/-- The die of the least value; a later die on a tie. -/
def argMin (l : List (Nat × Rat)) : Option Nat :=
  (l.foldl (fun b x => match b with
    | none => some x
    | some y => if x.2 ≤ y.2 then some x else b) none).map Prod.fst

/-- The die of the greatest value; the earlier die on a tie. -/
def argMax (l : List (Nat × Rat)) : Option Nat :=
  (l.foldl (fun b x => match b with
    | none => some x
    | some y => if y.2 < x.2 then some x else b) none).map Prod.fst

/-- The points with one of them moved by a step. -/
def movePoint (f : Nat → Nat) : Nat → List Nat → List Nat
  | _, [] => []
  | 0, p :: ps => f p :: ps
  | n + 1, p :: ps => p :: movePoint f n ps

/-- The lowering loop: worst value first. Sixty steps take four dies from the top to point 0. -/
def lowerLoop (views : List DieView) (budget : Rat) : Nat → List Nat → List Nat
  | 0, ps => ps
  | n + 1, ps =>
    if sumPower views ps ≤ budget then ps else
    match argMin (stepChoices (fun _ p => p != 0) (fun v p => stepValue v (p - 1)) 0 views ps) with
    | none => ps
    | some d => lowerLoop views budget n (movePoint (fun p => p - 1) d ps)

/-- The raising loop: best value first, as far as the budget goes. -/
def raiseLoop (views : List DieView) (budget : Rat) : Nat → List Nat → List Nat
  | 0, ps => ps
  | n + 1, ps =>
    match argMax (stepChoices (fun v p => decide (p < v.want)) stepValue 0 views ps) with
    | none => ps
    | some d =>
      let up := movePoint (fun p => p + 1) d ps
      if budget < sumPower views up then ps else raiseLoop views budget n up

/-- The points of R428 within a budget in mW. -/
def decidePoints (views : List DieView) (floor : Nat) (budget : Rat) : List Nat :=
  raiseLoop views budget 60 (lowerLoop views budget 60 (views.map (fun v => min floor v.want)))

/-- Some die ends below what the floor gives it. -/
def belowFloor (floor : Nat) : List DieView → List Nat → Bool
  | v :: vs, p :: ps => decide (p < min floor v.want) || belowFloor floor vs ps
  | _, _ => false

/-- Apply the decision to the dies in order; a probed die goes one point lower for this period. -/
def applyPoints : Nat → List Nat → State → State
  | _, [], s => s
  | d, p :: ps, s =>
    let s := if (dieOf s d).probing && p != 0 then
        setPoint d (p - 1) (modDie d (fun x => { x with probing := false, probe := some (p, p - 1, false) }) s)
      else setPoint d p (modDie d (fun x => { x with probing := false }) s)
    applyPoints (d + 1) ps s

/-! ## Model and meter (R433, R434) -/

/-- |m − M| as a share of M in %, saturating. -/
def disagreePct (s : State) : Nat :=
  let d := (s.power.model - s.power.meter) + (s.power.meter - s.power.model)
  if s.power.meter = 0 then (if d = 0 then 0 else 255) else min 255 (d * 100 / s.power.meter)

/-- POWER_MODEL_DISAGREE. -/
def powerEvent (detail : Nat) (s : State) : State :=
  raiseEvent 0 0x60 detail (ownId s) 0 s.power.model (s.power.meter % 2 ^ 32 + disagreePct s * 2 ^ 32) s

/-- A clear that has been asked for takes effect. -/
def doClear (s : State) : State :=
  if !s.power.clearAsked then s else
  let s := { s with power := { s.power with clearAsked := false } }
  if s.power.fallback then powerEvent 4 { s with power := { s.power with fallback := false, runFar := 0 } } else s

/-- FALLBACK_CLEAR: a write of 1, applied at the next period. -/
def execFallbackClear (s : State) : Host.Outcome State Fault Refusal :=
  .next { s with power := { s.power with clearAsked := true } }

/-- The Level controller works: the supply is there, start-up has reached step 8, the firmware runs. -/
def levelRuns (s : State) : Bool := s.board.supply && decide (8 ≤ s.board.step) && !s.board.fwRestarting

/-- A control period's decision. The power that is not the dies' is a free value, modelled or measured. -/
def controlPeriod (s : State) : State :=
  let dies := rangeFrom 0 (diesFitted s.part)
  let s := doClear s
  let s := foldS probeEnd dies s
  let s := foldS (fun d t => foldS (fun p u => touchLearn d p.1 u) (pairsIn t (dieCores t d)) t) dies s
  let dis := s.power.disagreeing
  let rest : Rat := (((drawOf s).toNat : Nat) : Rat)
  let odd : Rat := (((drawOf (drawn s)).toNat : Nat) : Rat)
  let s := drawn (drawn s)
  let scale : Rat := if !dis then 1 else if s.power.model = 0 then odd
    else ((s.power.meter : Nat) : Rat) / ((s.power.model : Nat) : Rat)
  let guard := if dis then ledN s 0x2020 5 else ledN s 0x2000 2
  let budget : Rat := (((ledN s 0x2000 1 * 1000 : Nat) : Rat) - ((guard * 1000 : Nat) : Rat)) - rest
  let views := dies.map (viewDie s scale)
  let pts := decidePoints views (ledN s 0x2001 5) budget
  let s := if belowFloor (ledN s 0x2001 5) views pts then bump 0x9090 9 1 s else s
  applyPoints 0 pts s

/-- CONTROL_PERIOD: every 10 µs. -/
def execControlPeriod (s : State) : Host.Outcome State Fault Refusal :=
  .next (if levelRuns s then controlPeriod (advanceTo ((s.now / 10000 + 1) * 10000) s) else s)

/-- Energy of a pair over one sample, in pJ: activity counts times coefficients, which the model draws (R431). -/
def addEnergy (key : Nat) (s : State) : State :=
  let e := (drawOf s).toNat
  let p := s.power
  drawn { s with power := { p with energy := tset p.energy key (tget 0 p.energy key + e)
                                   users := if e = 0 ∨ p.users.contains key = true then p.users else p.users ++ [key]
                                   total := tset p.total (key / 2 ^ 16) (tget 0 p.total (key / 2 ^ 16) + e)
                                   model := p.model + e } }

/-- The pairs that energy is attributed to: those of the cores, and each virtual device's rings and traffic as phase 0. -/
def energyKeys (s : State) : List Nat :=
  let cores := (pairsIn s (s.compute.cores.map Prod.fst)).map Prod.fst
  let fns := ((s.fns.filter (fun p => p.2.grant.isSome)).map (fun p => p.1 * 2 ^ 16)).filter (fun k => !(cores.contains k))
  cores ++ fns

/-- One meter sample: the energies of 10 µs, the modelled power that they make, and how it compares. -/
def meterSample (watts : Nat) (s : State) : State :=
  let s := foldS addEnergy (energyKeys s) { s with power := { s.power with model := 0 } }
  let r := (drawOf s).toNat
  let s := drawn s
  let m := (s.power.model + r) / 10000000 % 2 ^ 32
  let p := s.power
  let dist := (m - watts) + (watts - m)
  let dis := decide (ledN s 0x2020 1 * watts < 100 * dist)
  let far := decide (ledN s 0x2020 3 * watts < 100 * dist)
  { s with power := { p with
      meter := watts, model := m, remainder := p.remainder + r, remainderTotal := p.remainderTotal + r
      runDisagree := if dis then p.runDisagree + 1 else 0, runFar := if far then p.runFar + 1 else 0
      runAgree := if dis then 0 else p.runAgree + 1 } }

/-- METER_SAMPLE. -/
def execMeterSample (watts : Nat) (s : State) : Host.Outcome State Fault Refusal :=
  .next (if s.board.supply then meterSample (watts % 2 ^ 32) s else s)

/-- So many samples in a row fill `disagree_hold`. -/
def heldFor (s : State) (run : Nat) : Bool := decide (ledN s 0x2020 2 ≤ run * 10000)

/-- Entry to disagreement, with a refit (R433 steps 1 and 2). -/
def enterDisagree (s : State) : State :=
  if s.power.disagreeing || !(heldFor s s.power.runDisagree) then s else
  let s := powerEvent 0 (bump 0x9090 5 1 { s with power := { s.power with disagreeing := true, refitting := true } })
  logFault 4 0x60 0 (disagreePct s) s

/-- Fallback (step 3). -/
def enterFallback (s : State) : State :=
  if s.power.fallback || !(heldFor s s.power.runFar) then s else
  let s := powerEvent 1 (bump 0x9090 6 1 { s with power := { s.power with fallback := true } })
  emergency 5 (disagreePct s) (logFault 4 0x60 0 (disagreePct s) s)

/-- Return (step 4). -/
def leaveDisagree (s : State) : State :=
  if !s.power.disagreeing || !(heldFor s s.power.runAgree) then s else
  powerEvent 2 { s with power := { s.power with disagreeing := false } }

/-- DISAGREE_HOLD_EXPIRY: a clear in the same period goes before an entry. -/
def execDisagreeHoldExpiry (s : State) : Host.Outcome State Fault Refusal :=
  .next (if s.board.supply then leaveDisagree (enterFallback (enterDisagree (doClear s))) else s)

/-- REFIT_COMPLETE: new coefficients, loaded at a control period. -/
def execRefitComplete (s : State) : Host.Outcome State Fault Refusal :=
  .next (
    if !s.power.refitting then s else
    let n := s.power.refits
    let s := foldS (fun k t => ledPut 0x2140 k (beBytes 4 (Config.refit k n).toNat) t) (rangeFrom 1 16)
      (advanceTo ((s.now / 10000 + 1) * 10000) s)
    powerEvent 3 { s with power := { s.power with refitting := false, refits := n + 1 } })

/-! ## Attribution records (R432) -/

/-- A record goes to the ring, or is dropped and counted. -/
def attrRecord (kind fn phase energy total : Nat) (s : State) : State :=
  let r := { s.power.attrRing with cons := ledN s 0x2130 3 }
  if r.full || !(hostOk s) then bump 0x9090 7 1 { s with power := { s.power with attrLost := true } }
  else
    let c := mkRec [(0, 1, kind), (1, 1, b2n s.power.disagreeing + 2 * b2n s.power.attrLost), (2, 2, fn), (4, 2, phase),
      (8, 8, energy), (16, 8, total), (24, 6, s.now)]
    let s := ringStore 0 r c s
    { s with power := { s.power with attrRing := r.pushed, attrLost := false } }

/-- Energies in µJ, with the fraction carried into the next interval. -/
def whole (e : Nat) : Nat := e / 1000000
def carried (t : Table Nat) : Table Nat := (t.map (fun p => (p.1, p.2 % 1000000))).filter (fun p => p.2 != 0)

/-- ATTRIBUTION_RECORD: one record for each pair that used energy, then one for the remainder. -/
def execAttributionRecord (s : State) : Host.Outcome State Fault Refusal :=
  .next (
    if !s.board.supply then s else
    let i := ledN s 0x2130 5
    let s := advanceTo ((s.now / i + 1) * i) s
    let p := s.power
    let s := if !p.attrRing.enable then s else
      let s := foldS (fun e t => attrRecord 0 (e.1 / 2 ^ 16) (e.1 % 2 ^ 16) (whole e.2) (whole (tget 0 p.total (e.1 / 2 ^ 16))) t)
        (p.energy.filter (fun e => p.users.contains e.1)) s
      attrRecord 1 0 0 (whole p.remainder) (whole p.remainderTotal) s
    { s with power := { s.power with energy := carried p.energy, users := [], remainder := p.remainder % 1000000 } })

/-- A write of `attr_cfg`: bit 5 from 0 to 1 starts the ring afresh at its base, `attr_head` at 0 (R24). -/
def attrConfig (v : Nat) (s : State) : State :=
  let base := ledN s 0x2130 1
  let r := s.power.attrRing
  let on := bitOf v 5
  let s := if on && !r.enable then ledPut 0x2130 3 (beBytes 4 0) s else s
  { s with power := { s.power with attrRing :=
      if on && !r.enable then
        { enable := true, size := BitVec.ofNat 32 (v % 32), baseLo := BitVec.ofNat 32 base, baseHi := BitVec.ofNat 32 (base / 2 ^ 32) }
      else { r with enable := on } } }

/-! ## Droop (R430) -/

def clusterFitted (s : State) (c : Nat) : Bool := decide (c < diesFitted s.part * 8)

/-- DROOP_DETECT: the cluster's A-clock period doubles. -/
def execDroopDetect (cluster : Nat) (s : State) : Host.Outcome State Fault Refusal :=
  .next (
    if !(clusterFitted s cluster) || s.power.stretching.contains cluster then s
    else voidProbe (cluster / 8) (bump 0x9090 1 1 { s with power := { s.power with stretching := cluster :: s.power.stretching } }))

/-- DROOP_STRETCH_END, after `ns` nanoseconds. -/
def execDroopStretchEnd (cluster ns : Nat) (s : State) : Host.Outcome State Fault Refusal :=
  .next (
    if !(s.power.stretching.contains cluster) then s
    else bump 0x9090 2 ns { s with power := { s.power with stretching := s.power.stretching.filter (fun c => c != cluster) } })

/-! ## Thermal limits (R435) -/

/-- The unit of a sensor: 0–31 are the Ashlar dies' in order, eight each, 32–39 the Keystones', four each. -/
def sensorUnit (n : Nat) : Nat := if n < 32 then n / 8 else 4 + (n - 32) / 4

/-- The unit is fitted: A0–A3 as the part has them, K0 and K1. -/
def unitFitted (s : State) (u : Nat) : Bool := decide (u < diesFitted s.part) || u == 4 || u == 5

/-- The reading that counts: while a sensor of the unit is offline, at least its last reading plus 2 °C (R472). -/
def countedTj (s : State) (unit tj : Nat) : Nat :=
  match s.power.sensorOffline with
  | some (n, t, last) => if sensorUnit n = unit ∧ s.now ≤ t + 50000 then max tj (last + 20) else tj
  | none => tj

/-- An episode begins. -/
def throttleBegin (unit tj : Nat) (s : State) : State :=
  if s.power.throttled.contains unit then s else
  let s := bump 0x9090 4 1 { s with power := { s.power with throttled := unit :: s.power.throttled } }
  let s := logFault 4 0x61 unit tj (raiseEvent 0 0x61 0 (ownId s) 0 unit tj s)
  emergency 3 unit s

/-- An episode ends. -/
def throttleEnd (unit tj : Nat) (s : State) : State :=
  if !(s.power.throttled.contains unit) then s else
  raiseEvent 0 0x61 1 (ownId s) 0 unit tj { s with power := { s.power with throttled := s.power.throttled.filter (fun u => u != unit) } }

/-- The dies whose ceilings a unit moves: its own, or every die for a Keystone. -/
def ceilingDies (s : State) (unit : Nat) : List Nat := if unit < 4 then [unit] else rangeFrom 0 (diesFitted s.part)

/-- Nothing that reads hot still bears on a die. -/
def dieCool (s : State) (d : Nat) : Bool := s.power.throttled.all (fun u => u != d && decide (u < 4))

/-- THERMAL_CEILING_STEP with a reading: at or above the limit the ceilings fall one point at the next 100 µs, 5 °C below
it they rise one at the next 1 ms. -/
def execThermalCeilingStep (unit : Nat) (tj : Nat) (s : State) : Host.Outcome State Fault Refusal :=
  .next (
    if !(unitFitted s unit && s.board.supply) then s else
    let t := countedTj s unit tj
    let s := { s with power := { s.power with tj := tset s.power.tj unit t } }
    let limit := ledN s 0x2030 1 * 10
    if limit ≤ t then
      let s := throttleBegin unit t (advanceTo ((s.now / 100000 + 1) * 100000) s)
      foldS (fun d u => voidProbe d (modDie d (fun x => { x with thermalCeiling := x.thermalCeiling - 1 }) u)) (ceilingDies s unit) s
    else if t + 50 ≤ limit then
      let s := throttleEnd unit t (advanceTo ((s.now / 1000000 + 1) * 1000000) s)
      foldS (fun d u =>
        if dieCool u d then modDie d (fun x => { x with thermalCeiling := min 15 (x.thermalCeiling + 1) }) u else u) (ceilingDies s unit) s
    else s)

/-- THERMTRIP: the output is asserted until the supply is removed, every A-clock stops, no entry is taken. -/
def execThermtrip (unit : Nat) (s : State) : Host.Outcome State Fault Refusal :=
  .next (
    if !(unitFitted s unit && s.board.supply) || s.power.thermtrip then s else
    let s := throttleBegin unit 1200 { s with power := { s.power with tj := tset s.power.tj unit 1200 } }
    let s := { s with power := { s.power with thermtrip := true, aClocksStopped := true } }
    emergency 2 unit (logFault 6 0 unit 1200 s))

/-! ## Idle states (R436 to R438) -/

/-- The cores that a unit lies in. -/
def unitCores (u : PowerUnit) : List Nat :=
  match u with
  | .engine c _ => [c]
  | .coreClock c => [c]
  | .bank c _ => [c]
  | .cluster n => rangeFrom (16 * n) 16
  | .die d => rangeFrom (128 * d) 128

/-- The wake tolerance of a function in ns. -/
def tolFn (s : State) (f : Nat) : Nat := df (ledBytes s 0x2120 1) (4 * f) 4

/-- An enabled cut rule names one of some cores (R336). -/
def cutNames (s : State) (cores : List Nat) : Bool :=
  s.cut.rules.any (fun p => p.2.enable && (cores.contains (cutCore p.2.desc) || cores.contains (cutOutCore p.2.desc)))

/-- An enabled stream binding lies on one of some cores. -/
def bound (s : State) (cores : List Nat) : Bool :=
  s.fns.any (fun f => f.2.bindings.any (fun b => b.2.enable && cores.contains b.2.core))

/-- The tolerance of some cores: none is no limit (R437). -/
def tolerance (s : State) (cores : List Nat) : Option Nat :=
  let fns := (s.fns.filter (fun p => cores.any (fun c => coreFn s c == some p.1))).map (fun p => tolFn s p.1)
  let binds := (s.fns.map (fun f => ((f.2.bindings.filter (fun b => b.2.enable && cores.contains b.2.core)).map
    (fun b => b.2.wakeTol * 10)))).flatten
  let cuts := if cutNames s cores then [0] else []
  (fns ++ binds ++ cuts).foldl (fun m t => match m with
    | none => some t
    | some x => some (min x t)) none

/-- A state's exit latency is tolerated. -/
def tolerates (s : State) (cores : List Nat) (latency : Nat) : Bool :=
  match tolerance s cores with
  | none => true
  | some t => decide (latency ≤ t)

/-- No core of a cluster has a LAUNCH, and no binding or cut rule lies on it. -/
def clusterIdle (s : State) (n : Nat) : Bool :=
  let cores := unitCores (.cluster n)
  cores.all (fun c => (coreOf s c).launch.isNone) && !(bound s cores) && !(cutNames s cores)

/-- The segment caches of some cores are emptied (R305). -/
def dropCached (cores : List Nat) (s : State) : State :=
  { s with mig := { s.mig with cached := s.mig.cached.filter (fun c => !(cores.contains c.1)) } }

/-- The cluster goes off: banks and store in retention, or off with their contents lost; a keyed bank keeps them. -/
def clusterOff (n : Nat) (s : State) : State :=
  let keep := bitOf (ledN s 0x2121 1) n
  let cores := unitCores (.cluster n)
  let s := foldS (fun c t => foldS (fun b u =>
    if bankState u c b = 2 then u
    else modCore c (fun k => { k with bankSt := setBankBits k.bankSt b (if keep || bankKeyed u c b then 1 else 2), waking := [] }) u)
    (rangeFrom 0 16) t) cores s
  let s := if keep then s else memZero .cluster (clusterBase n) (2 ^ 25) s
  let s := dropCached cores s
  { s with power := { s.power with clustersOff := n :: s.power.clustersOff, waking := s.power.waking.filter (fun u => u != .cluster n) } }

/-- The die goes off: its SRAM is lost. -/
def dieOff (d : Nat) (s : State) : State :=
  let cores := unitCores (.die d)
  let s := foldS (fun c t => modCore c (fun k => { k with bankSt := 0xAAAAAAAA, waking := [], engines := [], enginesGated := [] }) t)
    cores s
  let s := memZero .scratch (scratchBase (128 * d)) (128 * 2 ^ 22) s
  let s := memZero .cluster (clusterBase (8 * d)) (8 * 2 ^ 25) s
  let s := memZero .istore (istoreBase (128 * d)) (128 * 2 ^ 16) s
  modDie d (fun x => { x with coreOff := true, engineOff := true, wakePending := false }) (dropCached cores s)

/-- The unit may enter its idle state now. -/
def idleAllowed (s : State) (u : PowerUnit) : Bool :=
  let cores := unitCores u
  (match u with
   | .die d => decide (d < diesFitted s.part)
   | _ => cores.all (fun c => decide (c < coresFitted s.part))) &&
  (match u with
   | .engine c e => decide (e < 8) && !((coreOf s c).enginesGated.contains e) &&
       (coreOf s c).running.all (fun r => r.unit != e && r.unit != 12 + e) && tolerates s cores 30
   | .coreClock c => !(coreOf s c).clockOff && ((coreOf s c).launch.isNone || isBlocked (coreOf s c)) && tolerates s cores 200
   | .bank c b => decide (b < 16) && bankState s c b == 0 && !(bankInUse s c b) && !((coreOf s c).waking.contains b) &&
       !(bankCut s c b) && tolerates s cores 3000
   | .cluster n => !(s.power.clustersOff.contains n) && !(coreDark s (16 * n)) && clusterIdle s n && tolerates s cores 40000
   | .die d => !((dieOf s d).coreOff) && (rangeFrom (8 * d) 8).all (clusterIdle s) &&
       !(s.keys.table.any (fun p => (p.2.valid || p.2.revoking) && p.2.tier == 2 && decide (p.2.base / 2 ^ 29 ≤ d) &&
         decide (d * 2 ^ 29 < p.2.base + p.2.length * 256))) &&
       (rangeFrom (8 * d) 8).all (fun n => tolerates s (unitCores (.cluster n)) 5000000))

/-- IDLE_STATE_ENTRY. -/
def execIdleStateEntry (u : PowerUnit) (s : State) : Host.Outcome State Fault Refusal :=
  .next (
    if !(idleAllowed s u) then s else
    match u with
    | .engine c e => modCore c (fun k => { k with enginesGated := e :: k.enginesGated }) s
    | .coreClock c => modCore c (fun k => { k with clockOff := true }) s
    | .bank c b => modCore c (fun k => { k with bankReq := setBankBits k.bankReq b 1, bankSt := setBankBits k.bankSt b 1 }) s
    | .cluster n => clusterOff n s
    | .die d => dieOff d s)

/-- A cluster is on again: its banks go back to what their fields ask, cleared where they were off. -/
def clusterOn (n : Nat) (s : State) : State :=
  let s := { s with power := { s.power with clustersOff := s.power.clustersOff.filter (fun c => c != n) } }
  foldS (fun c t => foldS (fun b u =>
    let want := bankBits (coreOf u c).bankReq b
    if want = 0 then bankOn c b u
    else if want = 1 ∧ bankState u c b = 2 then
      modCore c (fun k => { k with bankSt := setBankBits k.bankSt b 1 }) (memZero .scratch (scratchBase c + b * bankBytes) bankBytes u)
    else u) (rangeFrom 0 16) t) (unitCores (.cluster n)) s

/-- Contributions that waited for a die's wake are read (R21). -/
def pumpAll (s : State) : State :=
  foldS (fun p t => foldS (fun i u => pump p.2.handle i.num u) p.2.insts t) s.coll.groups s

/-- UNIT_WAKE_COMPLETE: the wake that was under way ends. -/
def execUnitWakeComplete (u : PowerUnit) (s : State) : Host.Outcome State Fault Refusal :=
  .next (
    let started := s.power.waking.contains u
    let done : State := { s with power := { s.power with waking := s.power.waking.filter (fun x => x != u) } }
    match u with
    | .engine c e => if started then modCore c (fun k => { k with enginesGated := k.enginesGated.filter (fun x => x != e) }) done else s
    | .coreClock c => if started then modCore c (fun k => { k with clockOff := false }) done else s
    | .bank c b => if (coreOf s c).waking.contains b && !(coreAsleep s c) then bankOn c b s else s
    | .cluster n => if started && !(coreDark s (16 * n)) then clusterOn n done else s
    | .die d =>
      if !((dieOf s d).wakePending && (dieOf s d).coreOff) then s else
      let s := modDie d (fun x => { x with coreOff := false, engineOff := false, wakePending := false }) s
      pumpAll (foldS clusterOn (rangeFrom (8 * d) 8) (bump 0x9090 8 1 s)))

/-- The manager raises a function's tolerance: its units that are off start their wake (R438). -/
def wakeFn (f : Nat) (s : State) : State :=
  foldS (fun c t => if coreAsleep t c || (coreOf t c).clockOff then wakeCore c t else t)
    ((rangeFrom 0 (coresFitted s.part)).filter (fun c => coreFn s c == some f)) s

end Sys2Proof.Machine
end

