-- ==== Sys2Proof/Machine/Security.lean ====
section
/-! DEFINITION. Keys, alarms, the lock of the shared page, the generator, and the SPDM responder (R398 to R421, R297). -/

namespace Sys2Proof.Machine

open Sys2Proof

/-! ## Key commands (R399 to R403) -/

def keyPageOf (s : State) (fn : Nat) : KeyPage := (fnOf s fn).keyPage
def modKeyPage (fn : Nat) (g : KeyPage → KeyPage) (s : State) : State := modFn fn (fun f => { f with keyPage := g f.keyPage }) s

/-- A write of `KEY_CMD`: queued behind the commands that came before; ignored while one of the page is queued or
running, and for any other `op`. -/
def keyCmdWrite (fn op index : Nat) (s : State) : State :=
  if decide (1024 < fn) || !(barOpen s fn) || !s.board.supply || decide (op < 1) || decide (4 < op) || (keyPageOf s fn).busy then s
  else modKeyPage fn (fun k => { k with busy := true })
    { s with sec := { s.sec with cmds := s.sec.cmds ++ [{ fn := fn, op := op, index := index % 4096 }] } }

/-- KEY_INSTALL_TRANSMIT: op 1. -/
def execKeyInstallTransmit (fn index : Nat) (s : State) : Host.Outcome State Fault Refusal := .next (keyCmdWrite fn 1 index s)

/-- KEY_INSTALL_RECEIVE: op 2. -/
def execKeyInstallReceive (fn index : Nat) (s : State) : Host.Outcome State Fault Refusal := .next (keyCmdWrite fn 2 index s)

/-- KEY_REMOVE_TRANSMIT: op 3. -/
def execKeyRemoveTransmit (fn index : Nat) (s : State) : Host.Outcome State Fault Refusal := .next (keyCmdWrite fn 3 index s)

/-- KEY_REMOVE_RECEIVE: op 4. -/
def execKeyRemoveReceive (fn index : Nat) (s : State) : Host.Outcome State Fault Refusal := .next (keyCmdWrite fn 4 index s)

/-- The staged blob's bytes. -/
def blobOf (k : KeyPage) : List Byte := (k.blob.map (fun w => leBytes 4 w.toNat)).flatten

/-- Row 9: the clear header. -/
def blobHeaderOk (b : List Byte) : Bool := df b 0 2 == 1 && df b 2 2 == 56 && df b 4 4 == 0

/-- Row 5: the function may install, and the module is DEPLOYED. -/
def keyAllowed (s : State) (fn : Nat) : Bool :=
  (match grantOf s fn with
   | some g => g.secure
   | none => false) && s.sec.lc == LcState.deployed

/-- The Quoin engine is locked by an alarm (R410). -/
def engineLocked (s : State) : Bool := s.sec.alarms != 0

/-- The blob's plaintext, none when the integrity check fails. -/
def unwrapBlob (s : State) (b : List Byte) : Option (List Byte) :=
  match s.sec.ownerKek with
  | some k => Config.aesKwUnwrap k ((b.drop 8).take 56)
  | none => none

/-- Row 2: `usage` holds the operation's bit, and its reserved bits are 0. -/
def usageOk (op : Nat) (p : List Byte) : Bool := bitOf (df p 0 2) (op - 1) && decide (df p 0 2 < 8)

/-- Row 3: the tenant's binding, or a manager blob on page 0. -/
def bindingOk (s : State) (fn : Nat) (p : List Byte) : Bool :=
  let tag := (keyPageOf s fn).tag.toNat
  (tag != 0 && df p 4 4 == tag) || (df p 4 4 == 0 && bitOf (df p 0 2) 2 && fn == 0)

/-- Row 4: the index; a receive index is free or the function's own. -/
def indexOk (s : State) (fn op index : Nat) : Bool :=
  decide (1 ≤ index) && decide (index ≤ 4095) && (op != 2 || (match tfind s.sec.rxSas index with
    | some a => a.owner == fn
    | none => true))

/-- Row 6: the function holds the association that a removal names. -/
def holdsSa (s : State) (fn op index : Nat) : Bool :=
  if op = 3 then (keyPageOf s fn).txState != SaState.empty && (keyPageOf s fn).txPeerSa == index
  else match tfind s.sec.rxSas index with
    | some a => a.owner == fn
    | none => false

/-- The result of a command, by the first check that fails (R401). Removals are served by a locked engine (R410). A command
that an alarm met ends with 8 (R409): what follows the unwrapping was never checked. -/
def keyResult (s : State) (c : KeyCmd) : Nat :=
  let b := blobOf (keyPageOf s c.fn)
  if 3 ≤ c.op then
    (if !(keyAllowed s c.fn) then 5 else if !(holdsSa s c.fn c.op c.index) then 6 else if c.wiped then 8 else 0)
  else if !(blobHeaderOk b) then 9
  else if !(keyAllowed s c.fn) then 5
  else if c.wiped then 8
  else if engineLocked s then 7
  else match unwrapBlob s b with
    | none => 1
    | some p =>
      if !(usageOk c.op p) then 2
      else if !(bindingOk s c.fn p) then 3
      else if !(indexOk s c.fn c.op c.index) then 4 else 0

/-- What a command that ends with 0 does: the key and a fresh salt go in, or the association goes (R402). -/
def keyApply (c : KeyCmd) (s : State) : State :=
  let key : BitVec 256 := match unwrapBlob s (blobOf (keyPageOf s c.fn)) with
    | some p => BitVec.ofNat 256 (leNat ((p.drop 16).take 32))
    | none => 0
  match c.op with
  | 1 => drawn (modKeyPage c.fn (fun k => { k with
      txState := .live, txPeerSa := c.index, txKey := key, txSalt := (drawOf s).setWidth 32, txCtr := 0 }) s)
  | 2 => { s with sec := { s.sec with rxSas := tset s.sec.rxSas c.index { owner := c.fn, st := .live, key := key } } }
  | 3 => modKeyPage c.fn (fun k => { k with txState := .empty, txPeerSa := 0, txKey := 0, txSalt := 0, txCtr := 0 }) s
  | _ => { s with sec := { s.sec with rxSas := tdel s.sec.rxSas c.index } }

/-- KEY_COMMAND_END: the oldest command ends (R403). -/
def execKeyCommandEnd (s : State) : Host.Outcome State Fault Refusal :=
  .next (match s.sec.cmds with
    | [] => s
    | c :: rest =>
      let r := keyResult s c
      let s := if r = 0 then keyApply c s else s
      let s := { s with sec := { s.sec with cmds := rest } }
      let s := modKeyPage c.fn (fun k => { k with
        busy := false, result := r, doneCount := k.doneCount + 1, blob := List.replicate 16 0 }) s
      if r ≠ 0 then bump 0x9080 2 1 s else if c.op ≤ 2 then bump 0x9080 1 1 s else s)

/-! ## Alarms (R297, R409, R410) -/

/-- The command in progress meets the alarm. One that started behind the lock had already failed. -/
def markWiped (locked : Bool) : List KeyCmd → List KeyCmd
  | [] => []
  | c :: rest => { c with wiped := c.wiped || !locked || decide (3 ≤ c.op) } :: rest

/-- Every association is wiped; secure mode stays on where there was one (R409). -/
def wipeKeys (s : State) : State :=
  let page (k : KeyPage) : KeyPage :=
    if k.txState = .empty then k else { k with txState := .wiped, txKey := 0, txSalt := 0 }
  let rx := s.sec.rxSas.map (fun a => (a.1, { a.2 with st := .wiped, key := 0 }))
  { s with
    fns := s.fns.map (fun f => (f.1, { f.2 with keyPage := page f.2.keyPage }))
    sec := { s.sec with rxSas := rx, wipedAll := true, wipeCleared := [], wiping := true, keysUnwrapped := false } }

/-- An authenticated session ends (R409, R458). -/
def endAuthSession (s : State) : State :=
  match s.ledger.session.st with
  | .auth _ => { s with ledger := { s.ledger with session := {} } }
  | _ => s

/-- An SPDM session ends, the negotiated connection apart. -/
def endSpdm (s : State) : State :=
  let st : Spdm := match s.sec.spdm with
    | .keyExchanged => .negotiated
    | .session => .negotiated
    | x => x
  { s with sec := { s.sec with spdm := st, spdmNonce := [], spdmKey := 0 } }

/-- Alarm `bit` is detected. The ALARM_IN loop counts only while `alarm_in_enable` is 1. -/
def raiseAlarm (bit : Nat) (s : State) : State :=
  if !s.board.supply || decide (7 < bit) || (bit == 3 && ledN s 0x7020 1 != 1) then s else
  let s := { s with sec := { s.sec with cmds := markWiped (engineLocked s) s.sec.cmds } }
  let s := endSpdm (endAuthSession (wipeKeys s))
  let s := { s with sec := { s.sec with alarms := s.sec.alarms ||| BitVec.ofNat 8 (2 ^ bit) } }
  let s := logFault 4 0 0 s.sec.alarms.toNat (bump 0x9080 3 1 s)
  emergency 1 s.sec.alarms.toNat s

/-- ALARM. -/
def execAlarm (bit : Nat) (s : State) : Host.Outcome State Fault Refusal := .next (raiseAlarm bit s)

/-- SECURE_WIPE_END: accesses that stalled go on, and read zero. -/
def execSecureWipeEnd (s : State) : Host.Outcome State Fault Refusal := .next { s with sec := { s.sec with wiping := false } }

/-! ## The lock of the shared page (R419, R420) -/

/-- LOCK_READ: a free lock is acquired with a new non-zero token. -/
def execLockRead (s : State) : Host.Outcome State Fault Refusal :=
  .next (
    if !s.board.supply then s else
    match s.sec.lockToken with
    | some t => outEmit (.regRead (BitVec.ofNat 32 t)) s
    | none =>
      let t := 1 + (drawOf s).toNat % 32767
      outEmit (.regRead (BitVec.ofNat 32 (t + 0x8000))) (drawn { s with sec := { s.sec with lockToken := some t, lockAt := s.now } }))

/-- A write of `LOCK`: the holder's token releases it, any other value is ignored. -/
def lockWrite (v : Nat) (s : State) : State :=
  if s.sec.lockToken = some (v % 32768) then { s with sec := { s.sec with lockToken := none } } else s

/-- LOCK_RELEASE. -/
def execLockRelease (token : W32) (s : State) : Host.Outcome State Fault Refusal := .next (lockWrite token.toNat s)

/-- LOCK_TIMEOUT: `lock_timeout` after the lock was acquired. -/
def execLockTimeout (s : State) : Host.Outcome State Fault Refusal :=
  .next (
    if s.sec.lockToken.isNone then s else
    let s := advanceTo (s.sec.lockAt + ledN s 0x7040 1) s
    bump 0x9080 6 1 { s with sec := { s.sec with lockToken := none } })

/-! ## The generator (R405) -/

/-- DRBG_RESEED. -/
def execDrbgReseed (s : State) : Host.Outcome State Fault Refusal := .next { s with sec := { s.sec with drbgAt := s.free } }

/-! ## Identity: what SPDM and sessions use of it (R407, R412, R414) -/

def serialBytes : List Byte := beBytes 4 Config.identitySerial.toNat

/-- ASCII text as bytes. -/
def ascii (t : String) : List Byte := t.toList.map (fun c => BitVec.ofNat 8 c.toNat)

/-- The identity key may sign: it is present, unwrapped, and the life-cycle state serves it. -/
def canSign (s : State) : Bool :=
  s.sec.keysUnwrapped && s.sec.identityOk && (match s.sec.lc with
    | .provisioned => true
    | .deployed => true
    | .returned => true
    | _ => false)

/-- 32 random bytes. -/
def draw32 (s : State) : List Byte :=
  ((rangeFrom s.free 4).map (fun n => leBytes 8 (Config.draw n).toNat)).flatten
def drawn4 (s : State) : State := { s with free := s.free + 4 }

/-! ## The SPDM responder (R417, R418) -/

/-- The DOE mailbox serves: the link is up, configuration requests are answered, the firmware is not restarting (R374, R468,
R479). -/
def doeServes (s : State) : Bool :=
  s.board.supply && s.host.linkUp && !s.board.fwRestarting && (s.board.mstate == 1 || s.board.mstate == 2)

/-- An answer of the responder: its code and its fields; DSP0274 lays its bytes out. It is the mailbox's answer. -/
def spdmAnswer (code : Nat) (fields : List Byte) (s : State) : State :=
  outEmit (.spdm (Config.spdmEncode code fields)) { s with host := { s.host with doe := none } }

/-- Serve an SPDM request, or nothing while the mailbox is not served. -/
def spdmServe (act : State → State) (s : State) : State := if doeServes s then act s else s

/-- Serve a request that reads secure SRAM: during a wipe it stalls, and finds zero once the wipe has ended (R297). -/
def secureServe (act : State → State) (s : State) : State := if s.sec.wiping then s else spdmServe act s

/-- ERROR. -/
def spdmError (s : State) : State := spdmAnswer 0x7F [] s

/-- GET_VERSION: 1.2. -/
def execGetVersion (s : State) : Host.Outcome State Fault Refusal := .next (spdmServe (spdmAnswer 0x04 [0x12]) s)

/-- GET_CAPABILITIES: certificates, CHALLENGE, signed measurements, key exchange; no mutual authentication, pre-shared keys,
HEARTBEAT, KEY_UPDATE or provisioning. -/
def execGetCapabilities (s : State) : Host.Outcome State Fault Refusal := .next (spdmServe (spdmAnswer 0x61 []) s)

/-- NEGOTIATE_ALGORITHMS: ECDSA P-256, SHA-256, secp256r1 and AES-256-GCM are selected. -/
def execNegotiateAlgorithms (algs : Bytes) (s : State) : Host.Outcome State Fault Refusal :=
  .next (spdmServe (fun s => spdmAnswer 0x63 algs { s with sec := { s.sec with spdm := (match s.sec.spdm with
    | .idle => .negotiated
    | x => x) } }) s)

/-- GET_DIGESTS: the digest of slot 0's chain; the other slots are empty. -/
def execGetDigests (s : State) : Host.Outcome State Fault Refusal :=
  .next (spdmServe (fun s => spdmAnswer 0x01 (beBytes 32 (Config.sha256 s.sec.certChain).toNat) s) s)

/-- GET_CERTIFICATE: a portion of slot 0's chain. -/
def execGetCertificate (slot offset length : Nat) (s : State) : Host.Outcome State Fault Refusal :=
  .next (spdmServe (fun s =>
    if slot = 0 ∧ offset < s.sec.certChain.length then spdmAnswer 0x02 ((s.sec.certChain.drop offset).take length) s
    else spdmError s) s)

/-- CHALLENGE: signed by the identity key over the chain's digest, the measurements, both nonces. -/
def execChallenge (slot : Nat) (nonce : Bytes) (s : State) : Host.Outcome State Fault Refusal :=
  .next (secureServe (fun s =>
    if slot ≠ 0 || !(canSign s) then spdmError s else
    let body := beBytes 32 (Config.sha256 s.sec.certChain).toNat ++ draw32 s ++
      (s.sec.measurements.map (fun m => beBytes 32 m.toNat)).flatten ++ nonce
    spdmAnswer 0x03 (body ++ Config.ecdsaSign s.sec.identity (Config.sha256 body)) (drawn4 s)) s)

/-- The measurements that an index names: 1 to 5 one of them, 0xFF all. -/
def measuredAt (s : State) (index : Nat) : List Byte :=
  if index = 0xFF then (s.sec.measurements.map (fun m => beBytes 32 m.toNat)).flatten
  else match (s.sec.measurements.drop (index - 1)).head? with
    | some m => beBytes 32 m.toNat
    | none => []

/-- GET_MEASUREMENTS: index 0 asks for their number; signed when requested. -/
def execGetMeasurements (index : Nat) (signed : Bool) (nonce : Bytes) (s : State) : Host.Outcome State Fault Refusal :=
  .next ((if signed then secureServe else spdmServe) (fun s =>
    if (signed && !(canSign s)) || (decide (5 < index) && index != 0xFF) then spdmError s else
    let body := [BitVec.ofNat 8 s.sec.measurements.length] ++ (if index = 0 then [] else measuredAt s index)
    if !signed then spdmAnswer 0x60 body s else
    let full := body ++ draw32 s ++ nonce
    spdmAnswer 0x60 (full ++ Config.ecdsaSign s.sec.identity (Config.sha256 full)) (drawn4 s)) s)

/-- KEY_EXCHANGE: ends any earlier session and begins the handshake of a new one. -/
def execKeyExchange (peerKey : Bytes) (s : State) : Host.Outcome State Fault Refusal :=
  .next (secureServe (fun s =>
    let s := endSpdm s
    if !(canSign s) || s.sec.spdm != Spdm.negotiated then spdmError s else
    let key : BitVec 256 := BitVec.ofNat 256 (leNat (draw32 s))
    let s := drawn4 s
    let nonce := draw32 s
    let s := drawn4 s
    let body := nonce ++ Config.ecPublic key ++ peerKey
    spdmAnswer 0x64 (body ++ Config.ecdsaSign s.sec.identity (Config.sha256 body))
      { s with sec := { s.sec with spdm := .keyExchanged, spdmNonce := nonce ++ peerKey, spdmKey := key } }) s)

/-- FINISH: the handshake ends in a session, or, when it does not verify, in none. -/
def execFinish (mac : Bytes) (s : State) : Host.Outcome State Fault Refusal :=
  .next (secureServe (fun s =>
    if s.sec.spdm = .keyExchanged ∧ Config.spdmFinishOk s.sec.spdmNonce mac = true then
      spdmAnswer 0x65 [] { s with sec := { s.sec with spdm := .session } }
    else spdmError (match s.sec.spdm with
      | .keyExchanged => endSpdm s
      | _ => s)) s)

/-- END_SESSION. -/
def execEndSession (s : State) : Host.Outcome State Fault Refusal :=
  .next (spdmServe (fun s => if s.sec.spdm = .session then spdmAnswer 0x6C [] (endSpdm s) else spdmError s) s)

end Sys2Proof.Machine
end

