-- ==== Sys2Proof/Machine/Ledger.lean ====
section
/-! DEFINITION. The Ledger: what a read returns, what a write must satisfy, and what it does (R440 to R445, R463 and the
chapters that own the entries), with the life cycle and the owner key (R408, R411 to R413, R416). -/

namespace Sys2Proof.Machine

open Sys2Proof

/-! ## Reading -/

def lcCode (l : LcState) : Nat :=
  match l with
  | .blank => 0 | .provisioned => 1 | .deployed => 2 | .returned => 3 | .decommissioned => 4

/-- `fitted_units` (R4). -/
def fittedUnits (p : Part) : Nat :=
  match p with
  | .tmv9140 => 0xF + 0xFFFF * 2 ^ 4 + 0xFFFF * 2 ^ 20 + 2 ^ 36 + 2 ^ 37
  | .tmv9130 => 0x3 + 0x00FF * 2 ^ 4 + 0x0F0F * 2 ^ 20 + 2 ^ 36 + 2 ^ 37
  | .tmv9110 => 0x0F0F * 2 ^ 20 + 2 ^ 37

/-- A record of `fault_log` (R480). -/
def faultBytes (r : FaultRecord) : Bytes :=
  leBytes 1 r.cls ++ leBytes 1 r.code ++ leBytes 2 r.unit ++ leBytes 1 r.state ++ leBytes 3 0 ++ leBytes 4 r.boot ++ leBytes 4 0 ++
    leBytes 8 r.time ++ leBytes 8 r.detail

/-- `fault_log`: 64 records, oldest first; an unused one is all zero. -/
def faultLogBytes (s : State) : Bytes := (((s.board.faultLog.map faultBytes).flatten) ++ List.replicate 2048 0).take 2048

/-- A fault record of migration as the manager reads it (R311). -/
def faultRecBytes (r : FaultRec) : Bytes :=
  leBytes 1 r.st ++ leBytes 1 r.status ++ leBytes 2 r.waiters.length ++ leBytes 2 r.fn ++ leBytes 1 r.seg ++ leBytes 1 r.victimSeg ++
    leBytes 4 r.page ++ leBytes 4 r.frame ++ leBytes 4 r.victim ++ leBytes 4 0 ++ leBytes 8 r.start

/-- A walker as the manager reads it (R311): its record is the one of its page. -/
def walkerBytes (t : Table FaultRec) (w : Walker) : Bytes :=
  let rec_ := match (t.filter (fun r => r.2.fn == w.fn && r.2.seg == w.seg && r.2.page == w.page && r.2.st != 0)).head? with
    | some r => r.1
    | none => 0xFF
  leBytes 1 w.st ++ leBytes 1 w.source ++ leBytes 2 w.fn ++ leBytes 1 (if w.st ≤ 1 then 0xFF else w.seg) ++
    leBytes 1 (if w.st = 3 then rec_ else 0xFF) ++ leBytes 2 0 ++ leBytes 8 w.va

/-- A diagnostic entry's bytes: the record at a number, or a free one. -/
def diagRec (t : Table FaultRec) (n : Nat) : Bytes :=
  match tfind t n with
  | some r => faultRecBytes r
  | none => List.replicate 7 0 ++ [0xFF] ++ List.replicate 8 0 ++ List.replicate 4 0xFF ++ List.replicate 12 0
def diagWalk (w : Table Walker) (t : Table FaultRec) (n : Nat) : Bytes :=
  match tfind w n with
  | some x => walkerBytes t x
  | none => List.replicate 4 0 ++ [0xFF, 0xFF] ++ List.replicate 10 0

/-- An entry that the device computes, none for one that holds what was written. -/
def computed (s : State) (index sub : Nat) : Option Bytes :=
  match index, sub with
  | 0x1000, 3 => some (beBytes 1 s.board.mstate)
  | 0x1000, 4 => some (beBytes 4 (Config.imageVersion (slotImage s s.sec.bootSlot)).toNat)
  | 0x1000, 5 => some (beBytes 4 (ownId s).toNat)
  | 0x1010, 1 => some (beBytes 8 (fittedUnits s.part))
  | 0x2010, 1 => some (beBytes 4 s.power.meter)
  | 0x2010, 2 => some (beBytes 4 s.power.model)
  | 0x2130, 4 => some (beBytes 4 s.power.attrRing.prod)
  | 0x7000, 1 => some (beBytes 1 (lcCode s.sec.lc))
  | 0x7000, 3 => some (beBytes 1 (32 - s.sec.lcCount))
  | 0x7000, 4 => some s.sec.lcNonce
  | 0x7000, 5 => some s.sec.certChain
  | 0x7000, 6 => some ((s.sec.measurements.map (fun m => beBytes 32 m.toNat)).flatten)
  | 0x7020, 2 => some [s.sec.alarms]
  | 0x7030, 2 => some (beBytes 4 s.sec.secVersionMin)
  | 0xA000, 2 => some (beBytes 1 s.board.resetCause)
  | 0xA000, 3 => some (beBytes 4 s.board.resetCount)
  | 0xA020, 1 => some (faultLogBytes s)
  | 0x2010, n => if 3 ≤ n ∧ n ≤ 6 then some (beBytes 4 (if n - 3 < diesFitted s.part then (dieOf s (n - 3)).point else 0)) else none
  | 0x8000, n => some (beBytes 4 (poolTotal s.part n))
  | 0x8001, n => some (beBytes 4 (poolTotal s.part n - poolUsed s n))
  | 0xF070, n => some (diagRec s.mig.recs0 (n - 1))
  | 0xF071, n => some (diagRec s.mig.recs1 (n - 1))
  | 0xF072, n => some (diagWalk s.mig.walkers0 s.mig.recs0 (n - 1))
  | 0xF073, n => some (diagWalk s.mig.walkers1 s.mig.recs1 (n - 1))
  | _, _ => none

/-- A clear-on-read counter. -/
def isCounter (index sub : Nat) : Bool := sub != 0 && index != 0x9050 && decide (sub ≤ counterSubs index)

/-- The value of an entry that exists, and the state after the read: a counter is cleared, for every class. -/
def ledRead (index sub : Nat) (s : State) : Bytes × State :=
  let k := index * 256 + sub
  let s := if 0x9021 ≤ index ∧ index ≤ 0x9024 then settlePaused (index - 0x9021) s else s
  if sub = 0 then (beBytes 1 (dictTop index), s)
  else if isCounter index sub then
    (beBytes 8 (tget 0 s.ledger.counters k).toNat, { s with ledger := { s.ledger with counters := tdel s.ledger.counters k } })
  else match computed s index sub with
    | some b => (b, s)
    | none => (ledBytes s index sub, s)

/-! ## Who may do what (R9, R442, R445, R456, R462) -/

/-- What a request's session allows: nothing, a claim, or the field rights of every entry. -/
inductive AuthLevel where
  | none
  | claim
  | full
deriving DecidableEq, Repr

def authOf (s : State) (h : WHeader) : AuthLevel :=
  if !h.session then .none else match s.ledger.session.st with
    | .auth 0 => .claim
    | .auth _ => .full
    | _ => .none

/-- The class's place in a rights string: W, M, T, F. -/
def classOf (src : WSource) : Nat :=
  match src with
  | .firmware => 0
  | .doe => 1
  | .field _ => 3

def isField (src : WSource) : Bool := classOf src == 3

/-- The entries that a field node without a session may read (R442), and that are read before READY (R445). -/
def openRead (index sub : Nat) : Bool :=
  let b := index / 256
  b == 0x10 || b == 0x20 || b == 0x34 || b == 0x90 || (index == 0x7000 && (sub == 1 || sub == 4 || sub == 5 || sub == 6))

/-- The entries that a field node without a session may write. -/
def openWrite (index sub : Nat) : Bool :=
  (index == 0x3400 && (sub == 2 || sub == 3)) || (index == 0x2000 && sub == 1) || (index == 0x2030 && sub == 1)

/-- In recovery the ROM reads these and writes the image slots (R462). -/
def recoveryRead (index sub : Nat) : Bool :=
  (index == 0x1000 && decide (sub ≤ 5) && sub != 0) || (index == 0x7000 && (sub == 1 || sub == 5 || sub == 6))

/-- Whether R442 lets a request of the field side pass: all of them in a full session, the open entries (and,
in a claim session, writing `owner_kek_import`) without one. `right` is class F's right to the entry.  An open write
or read needs that right as well: R442 opens "every entry whose rights give F read". -/
def fieldAllowed (s : State) (h : WHeader) (write : Bool) (index sub right : Nat) : Bool :=
  match authOf s h with
  | .full => true
  | .claim => if write then openWrite index sub || (index == 0x7010 && sub == 1) else openRead index sub && decide (1 ≤ right)
  | .none => if write then openWrite index sub else openRead index sub && decide (1 ≤ right)

/-- Whether an access of a kind is allowed, by the abort code that refuses it; 0 allows it. `segs` marks the segmented
services. -/
def accessCode (s : State) (h : WHeader) (write segs : Bool) (index sub : Nat) : Nat :=
  let image := index == 0x7050
  if s.board.mstate = 3 then
    (if isField h.source && (if write then segs && image && (sub == 1 || sub == 2) else recoveryRead index sub) then 0 else 0x0B)
  else match dict s.part index sub with
    | none => 0x01
    | some e =>
      let right := (e.rights.drop (classOf h.source)).headD 0
      let allowed := fieldAllowed s h write index sub right
      if s.board.mstate = 0 && !(if write then e.persistent else openRead index sub) then 0x0B
      else if isField h.source && !allowed then 0x06
      else if write && !(dictFitted s.part s.eth.mode index sub) then 0x05
      else if right = 0 then 0x02
      else if write && right < 2 then 0x03
      else 0

/-! ## What a value must satisfy (R425, R441, and the entries' own chapters) -/

/-- A `phase_pref` entry keeps its table. -/
def prefOk (b : Bytes) : Bool :=
  decide (df b 0 2 ≤ 1024) && decide (df b 4 1 ≤ 15) && decide (df b 5 1 < 4) && df b 6 2 == 0

/-- What an entry asks of its value beyond a range. -/
def specialOk (s : State) (index sub v : Nat) (b : Bytes) : Bool :=
  match index, sub with
  | 0x2130, 1 => v % 4096 == 0
  | 0x2130, 2 => decide (v < 64) && decide (6 ≤ v % 32) && decide (v % 32 ≤ 16)
  | 0x3200, 6 => decide (v % 256 < 32) && decide (v / 256 < 32)
  | 0x5120, 3 => v == 0 || decide (10000 ≤ v)
  | 0x4120, 2 => v == 512 || v == 1024 || v == 2048 || v == 4096 || v == 8192
  | 0xA000, 4 => v == 0 || decide (100 ≤ v)
  | 0x2100, _ => prefOk b
  | n, 1 => if 0x3101 ≤ n ∧ n ≤ 0x3104 then !(bitOf v 40) else true
  | n, 8 => if 0x3101 ≤ n ∧ n ≤ 0x3104 then decide (v + 16384 ≤ ledN s n 7) else true
  | _, _ => true

/-- The entry's state makes it read-only (R331, R411). -/
def stateReadOnly (s : State) (index sub : Nat) : Bool :=
  match index with
  | 0x3300 => (cutRuleOf s (sub - 1)).enable
  | 0x7020 => sub == 1 && s.sec.lc != LcState.blank && s.sec.lc != LcState.provisioned
  | _ => false

/-- The abort code of a value, 0 when it may be applied. `vtype` is none for a segmented write. -/
def valueCode (s : State) (h : WHeader) (index sub : Nat) (vtype : Option Nat) (b : Bytes) : Nat :=
  match dict s.part index sub with
  | none => 0x01
  | some e =>
    if stateReadOnly s index sub then 0x03
    else if !(match vtype with
      | some t => t == e.vtype
      | none => true) || b.length != e.size then 0x07
    else
      let v := beNat b
      if e.vtype ≤ 10 && e.vtype != 6 && (decide (v < e.lo) || decide (e.hi < v)) then 0x04
      else if !(specialOk s index sub v b) then 0x04
      else if isField h.source && authOf s h != AuthLevel.full && (index == 0x2000 || index == 0x2030) && decide (ledN s index sub < v) then 0x06
      else 0

/-! ## The life cycle (R412, R413, R416) and the owner key (R408) -/

/-- What an accepted life-cycle request does. -/
inductive LcAct where
  | refuse
  | move (dest : LcState)
  | revoke (key : Nat)
deriving DecidableEq, Repr

/-- `auth` is the owner's: a CMAC in its first 16 bytes, the rest zero. -/
def ownerAuth (s : State) (target : Byte) (auth : Bytes) : Bool :=
  (match s.sec.ownerKek with
   | some k => beNat (auth.take 16) == (Config.cmac k (s.sec.lcNonce ++ [target])).toNat
   | none => false) && (auth.drop 16).all (fun b => b == 0)

/-- `auth` is Druwyn's, by a key that is not revoked. -/
def druwynAuth (s : State) (target : Byte) (auth : Bytes) : Bool :=
  s.sec.druwynKeys.any (fun k => !(s.sec.revoked.contains k.1) &&
    Config.ecdsaVerify k.2 (Config.sha256 (serialBytes ++ s.sec.lcNonce ++ [target])) auth)

/-- Decide a request: target, three reserved bytes, the authorisation. -/
def lcDecide (s : State) (b : Bytes) : LcAct :=
  let target := b.headD 0
  let auth := b.drop 4
  let own := ownerAuth s target auth
  let dru := druwynAuth s target auth
  let left := 32 - s.sec.lcCount
  if engineLocked s || df b 1 3 != 0 then .refuse
  else if 0x80 ≤ target.toNat then (if target.toNat < 0x84 && dru then .revoke (target.toNat - 0x80) else .refuse)
  else if left = 0 || (left == 1 && target != 4) then .refuse
  else match s.sec.lc, target.toNat with
    | .deployed, 1 => if own then .move .provisioned else .refuse
    | .deployed, 3 => if dru then .move .returned else .refuse
    | .returned, 1 => if dru then .move .provisioned else .refuse
    | .deployed, 4 => if own then .move .decommissioned else .refuse
    | .provisioned, 4 => if dru then .move .decommissioned else .refuse
    | .returned, 4 => if dru then .move .decommissioned else .refuse
    | _, _ => .refuse

/-- Every HBM, LPDDR5X, scratchpad, cluster-store and Keystone SRAM byte is zero. -/
def zeroMemory (s : State) : State :=
  { s with mems := { s.mems with hbm := [], lpddr := [], scratch := [], cluster := [], ksram := [], bad := [] } }

/-- The nonce is drawn afresh after each request. -/
def freshNonce (s : State) : State :=
  { s with sec := { s.sec with lcNonce := (draw32 s).take 16 }, free := s.free + 2 }

/-- A transition is recorded, with its effect before the reset. -/
def lcMove (dest : LcState) (s : State) : State :=
  let fromReturned := s.sec.lc == LcState.returned
  let c := { s.sec with lc := dest, lcCount := s.sec.lcCount + 1, ownerKek := none }
  match dest with
  | .decommissioned => zeroMemory { s with sec := { c with identity := 0, identityOk := false, keysUnwrapped := false } }
  | _ => if fromReturned then { s with sec := c } else zeroMemory { s with sec := c }

/-- `lc_request`: the abort code, the state, and the cause of the reset that follows. -/
def lcRequest (b : Bytes) (s : State) : Nat × State × Option Nat :=
  match lcDecide s b with
  | .refuse => (0x04, freshNonce (bump 0x9080 4 1 s), none)
  | .move dest => (0, lcMove dest (freshNonce s), some 3)
  | .revoke k => (0, { freshNonce s with sec := { (freshNonce s).sec with revoked := k :: s.sec.revoked } }, some 3)

/-- `owner_kek_import`: ECDH with the importer's key, HKDF, and the unwrapping. -/
def kekImport (b : Bytes) (s : State) : Nat × State × Option Nat :=
  if s.sec.lc != LcState.provisioned || engineLocked s || !s.sec.keysUnwrapped || decide (31 ≤ s.sec.lcCount) then (0x03, s, none)
  else if df b 0 1 != 1 || df b 1 3 != 0 || (b.drop 108).any (fun x => x != 0) then (0x04, s, none)
  else
    let secret := Config.ecdh s.sec.identity ((b.drop 4).take 64)
    let wrap := Config.hkdf secret [] (ascii "tamvor-owner-kek" ++ serialBytes)
    match Config.aesKwUnwrap wrap ((b.drop 68).take 40) with
    | none => (0x04, s, none)
    | some k => (0, { s with sec := { s.sec with lc := .deployed, lcCount := s.sec.lcCount + 1, ownerKek := some (BitVec.ofNat 256 (leNat k)) } },
        some 3)

/-! ## What a write does -/

/-- Functions whose wake tolerance rises. -/
def raisedTol (old new : Bytes) : List Nat := (rangeFrom 0 1025).filter (fun f => decide (df old (4 * f) 4 < df new (4 * f) 4))

/-- The port of a port's entries. -/
def portOfIndex (index : Nat) : Nat := index - 0x3101

/-- What a change of an entry does beyond its new value: `old` is the value before. -/
def ledHook (index sub : Nat) (old : Bytes) (before : List Nat) (s : State) : State :=
  if 0x3101 ≤ index ∧ index ≤ 0x3104 then
    let p := portOfIndex index
    match sub with
    | 2 => if ledN s index 2 = 0 then portDown p s else s
    | 5 => flowCheck p (modPort p (fun x => { x with xoff := [] }) s)
    | 6 => flowCheck p s
    | 7 => flowCheck p s
    | 8 => flowCheck p s
    | 0x0A => restartVerify p s
    | 0x0C => restartVerify p s
    | _ => s
  else match index with
    | 0x3201 => bondEnable (sub - 1) (ledN s 0x3201 sub) s
    | 0x3200 => if 10 ≤ s.board.step then ownPosition s else s
    | 0x4142 => portListMoved before s
    | 0x2120 => foldS wakeFn (raisedTol old (ledBytes s 0x2120 1)) s
    | 0x2130 => if sub = 2 then attrConfig (ledN s 0x2130 2) s else s
    | _ => s

/-- An entry takes its value, persistent ones in the NOR too. -/
def ledApply (index sub : Nat) (b : Bytes) (persistent : Bool) (s : State) : State :=
  let old := ledBytes s index sub
  let before := usablePorts s
  let s := noteChange index sub s
  ledHook index sub old before (if persistent then ledCommit index sub b s else ledPut index sub b s)

/-- A checked write that is not persistent: the abort code, the state, and the cause of a reset that follows the answer. -/
def ledWrite (index sub : Nat) (b : Bytes) (s : State) : Nat × State × Option Nat :=
  match index, sub with
  | 0xA000, 1 => (0, s, some 1)
  | 0xA020, 2 => (0, { s with board := { s.board with faultLog := [] } }, none)
  | 0x2020, 6 => (0, { s with power := { s.power with clearAsked := true } }, none)
  | 0x7000, 2 => lcRequest b s
  | 0x7010, 1 => kekImport b s
  | _, _ => (0, ledApply index sub b false s, none)

end Sys2Proof.Machine
end

