-- ==== Sys2Proof/Machine/Waibor.lean ====
section
/-! DEFINITION. Waibor: frames, services, segments, sessions, the bridge, the DOE mailbox, heartbeats (R374, R443 to R462). -/

namespace Sys2Proof.Machine

open Sys2Proof

/-! ## Frames (R446 to R450) -/

/-- The most payload bytes of a message on a source's path. -/
def maxPayload (src : WSource) : Nat := if isField src then 1024 else 61440

/-- The message type of a service. -/
def svcType (v : WService) : Nat :=
  match v with
  | .read _ _ => 1 | .write _ _ _ _ => 2 | .readSeg _ _ _ => 3 | .writeSegInit _ _ _ => 4 | .writeSeg _ _ _ _ _ => 5
  | .sessionOpen _ => 6 | .sessionAuth _ _ _ => 7 | .sessionClose => 8 | .malformed t => t

/-- The entry that a service names, for an abort. -/
def svcEntry (v : WService) : Nat × Nat :=
  match v with
  | .read i n => (i, n) | .write i n _ _ => (i, n) | .readSeg i n _ => (i, n) | .writeSegInit i n _ => (i, n)
  | .writeSeg i n _ _ _ => (i, n) | _ => (0, 0)

/-- A request's payload (R449, R456). -/
def svcPayload (v : WService) : Bytes :=
  match v with
  | .read i n => beBytes 2 i ++ beBytes 1 n ++ [0]
  | .write i n t b => beBytes 2 i ++ beBytes 1 n ++ beBytes 1 t ++ beBytes 2 b.length ++ [0, 0] ++ b
  | .readSeg i n o => beBytes 2 i ++ beBytes 1 n ++ [0] ++ beBytes 4 o
  | .writeSegInit i n t => beBytes 2 i ++ beBytes 1 n ++ [0] ++ beBytes 4 t
  | .writeSeg i n l o b => beBytes 2 i ++ beBytes 1 n ++ beBytes 1 (b2n l) ++ beBytes 4 o ++ b
  | .sessionOpen k => k
  | .sessionAuth m k p => beBytes 1 m ++ beBytes 1 k ++ [0, 0] ++ p
  | .sessionClose => []
  | .malformed _ => []

/-- The 12-byte header. -/
def waiborHeader (mtype wseq len flags ctr : Nat) : Bytes :=
  [0x10] ++ beBytes 1 mtype ++ beBytes 2 wseq ++ beBytes 2 len ++ beBytes 1 flags ++ [0] ++ beBytes 4 ctr

/-- A service from its payload; a payload without its layout is malformed. -/
def parseService (mtype : Nat) (p : Bytes) : WService :=
  let i := beNat (p.take 2)
  let n := beNat ((p.drop 2).take 1)
  let f (o k : Nat) : Nat := beNat ((p.drop o).take k)
  match mtype with
  | 1 => if p.length = 4 then .read i n else .malformed 1
  | 2 => if 8 ≤ p.length ∧ p.length = 8 + f 4 2 then .write i n (f 3 1) (p.drop 8) else .malformed 2
  | 3 => if p.length = 8 then .readSeg i n (f 4 4) else .malformed 3
  | 4 => if p.length = 8 then .writeSegInit i n (f 4 4) else .malformed 4
  | 5 => if 8 ≤ p.length then .writeSeg i n (bitOf (f 3 1) 0) (f 4 4) (p.drop 8) else .malformed 5
  | 6 => if p.length = 64 then .sessionOpen p else .malformed 6
  | 7 => if p.length = 68 then .sessionAuth (f 0 1) (f 1 1) (p.drop 4) else .malformed 7
  | 8 => if p.length = 0 then .sessionClose else .malformed 8
  | t => .malformed t

/-- A message's header is well formed as a request, and the bytes agree with `wlen` and the tag; a short frame may be padded
to 46 bytes. Reserved bits are ignored (R12). -/
def requestOk (src : WSource) (b : Bytes) : Bool :=
  let f (o k : Nat) : Nat := beNat ((b.drop o).take k)
  let flags := f 6 1
  let n := 12 + f 4 2 + (if bitOf flags 1 then 16 else 0)
  decide (12 ≤ b.length) && f 0 1 / 16 == 1 && decide (1 ≤ f 1 1) && decide (f 1 1 ≤ 8) && decide (f 4 2 ≤ maxPayload src) &&
  !(bitOf flags 0) && (!(bitOf flags 1) || isField src) && (bitOf flags 1 || f 8 4 == 0) &&
  (b.length == n || (isField src && decide (n < 46) && b.length == 46)) && (isField src || f 1 1 < 6)

/-- A request from the bytes of a message. -/
def parseRequest (src : WSource) (b : Bytes) : WReq :=
  let f (o k : Nat) : Nat := beNat ((b.drop o).take k)
  let len := f 4 2
  let ses := bitOf (f 6 1) 1
  { h := { source := src, wseq := f 2 2, session := ses, sessionCtr := f 8 4
           tag := if ses then BitVec.ofNat 128 (beNat ((b.drop (12 + len)).take 16)) else 0, wire := b.take (12 + len) }
    svc := parseService (f 1 1) ((b.drop 12).take len) }

/-! ## Answers -/

/-- A field source as a key: its MAC. -/
def macOf (src : WSource) : Nat :=
  match src with
  | .field m => m
  | _ => 0

/-- The last response of a source is kept, for at most eight sources (R453). -/
def cachePut (mac wseq : Nat) (b : Bytes) (l : List (Nat × Nat × Bytes)) : List (Nat × Nat × Bytes) :=
  let rest := l.filter (fun c => c.1 != mac)
  (if rest.length < 8 then rest else rest.drop 1) ++ [(mac, wseq, b)]

/-- Send a response or abort: a session's carries the next counter and a tag (R457), and there is none once the session has
ended and its key is erased (R458). -/
def sendWaibor (h : WHeader) (mtype : Nat) (payload : Bytes) (s : State) : State :=
  let ses := s.ledger.session
  if h.session && ses.st == SessState.none then s else
  let ctr := if h.session then ses.txCtr + 1 else 0
  let head := waiborHeader mtype h.wseq payload.length (if h.session then 3 else 1) ctr
  let b := head ++ payload ++ (if h.session then beBytes 16 (Config.cmac ses.key (head ++ payload)).toNat else [])
  let s := outEmit (.waibor h.source b) s
  let s := if h.session then { s with ledger := { s.ledger with session := { ses with txCtr := ctr } } } else s
  match h.source with
  | .field m => { s with ledger := { s.ledger with cache := cachePut m h.wseq b s.ledger.cache } }
  | .doe => { s with host := { s.host with doe := none } }
  | .firmware => s

/-- The response of a service. -/
def respond (r : WReq) (payload : Bytes) (s : State) : State := sendWaibor r.h (svcType r.svc) payload s

/-- An abort (R450). -/
def abortWith (r : WReq) (code : Nat) (s : State) : State :=
  let e := svcEntry r.svc
  sendWaibor r.h 0x0F (beBytes 1 code ++ [0] ++ beBytes 2 e.1 ++ beBytes 1 e.2 ++ [0, 0, 0]) (bump 0x9046 2 1 s)

/-- The response of WRITE, WRITE_SEG_INIT and WRITE_SEG. -/
def writeAnswer (index sub : Nat) : Bytes := beBytes 2 index ++ beBytes 1 sub ++ [0, 0, 0, 0, 0]

/-- The key of a source's staging and snapshot. -/
def srcKey (src : WSource) : Nat :=
  match src with
  | .doe => 0
  | .firmware => 1
  | .field m => 2 + m

/-! ## Services (R443 to R445, R449, R451, R452) -/

/-- What a read returns: what it found on arrival, where it has waited, else the entry now (R443). -/
def readFor (r : WReq) (index sub : Nat) (s : State) : Bytes × State :=
  match r.found with
  | some b => (b, s)
  | none => ledRead index sub s

/-- READ. -/
def serveRead (r : WReq) (index sub : Nat) (s : State) : State :=
  let c := accessCode s r.h false false index sub
  if c ≠ 0 then abortWith r c s else
  let (b, t) := readFor r index sub s
  if maxPayload r.h.source < b.length + 8 then abortWith r 0x08 s
  else
    let vt := if sub = 0 then 1 else match dict s.part index sub with
      | some e => e.vtype
      | none => 0
    respond r (beBytes 2 index ++ beBytes 1 sub ++ beBytes 1 vt ++ beBytes 2 b.length ++ [0, 0] ++ b) t

/-- A checked write: persistent ones wait for their commit, the others are applied and answered; a reset follows the answer
where the write asks for one. -/
def doWrite (r : WReq) (index sub : Nat) (b : Bytes) (seg : Bool) (s : State) : State :=
  let persistent := match dict s.part index sub with
    | some e => e.persistent
    | none => false
  if persistent then
    { s with ledger := { s.ledger with commit := some { h := r.h, index := index, sub := sub, value := b, seg := seg } } }
  else match ledWrite index sub b s with
    | (0, t, none) => respond r (writeAnswer index sub) t
    | (0, t, some cause) => resetModule cause (respond r (writeAnswer index sub) t)
    | (c, t, _) => abortWith r c t

/-- WRITE. An image slot is written by segments only. -/
def serveWrite (r : WReq) (index sub vtype : Nat) (b : Bytes) (s : State) : State :=
  let c := accessCode s r.h true false index sub
  if c ≠ 0 then abortWith r c s
  else if index = 0x7050 then abortWith r 0x07 s
  else
    let c := valueCode s r.h index sub (some vtype) b
    if c ≠ 0 then abortWith r c s else doWrite r index sub b false s

/-- READ_SEG: offset 0 takes a snapshot. -/
def serveReadSeg (r : WReq) (index sub offset : Nat) (s : State) : State :=
  let c := accessCode s r.h false true index sub
  if c ≠ 0 then abortWith r c s else
  let key := srcKey r.h.source
  let taken : Option (Bytes × State) :=
    if offset = 0 then some (readFor r index sub s)
    else match tfind s.ledger.snapshots key with
      | some x => if x.index = index ∧ x.sub = sub ∧ offset ≤ x.data.length ∧ s.now ≤ x.lastAt + 5000000000 then some (x.data, s) else none
      | none => none
  match taken with
  | none => abortWith r 0x09 s
  | some (b, s) =>
    let part := (b.drop offset).take (maxPayload r.h.source - 16)
    let last := decide (b.length ≤ offset + part.length)
    let snap : Snapshot := { index := index, sub := sub, data := b, lastAt := s.now }
    respond r (beBytes 2 index ++ beBytes 1 sub ++ beBytes 1 (b2n last) ++ beBytes 4 offset ++ beBytes 4 b.length ++ [0, 0, 0, 0] ++ part)
      { s with ledger := { s.ledger with snapshots := tset s.ledger.snapshots key snap } }

/-- An image slot's contents. -/
def setImage (sub : Nat) (b : Bytes) (s : State) : State :=
  if sub = 1 then { s with sec := { s.sec with imageA := b } } else { s with sec := { s.sec with imageB := b } }

/-- WRITE_SEG_INIT: any earlier staging of the source is discarded; an image slot is erased, but for the booted one. -/
def serveWriteInit (r : WReq) (index sub total : Nat) (s : State) : State :=
  let c := accessCode s r.h true true index sub
  let image := index = 0x7050
  if c ≠ 0 then abortWith r c s
  else if image ∧ s.board.mstate ≠ 3 ∧ s.sec.bootSlot + 1 = sub then abortWith r 0x03 s
  else if image ∧ 2 ^ 24 < total then abortWith r 0x04 s
  else
    let s := if image then setImage sub [] s else s
    let st : Staging := { index := index, sub := sub, total := total, data := [], lastAt := s.now }
    respond r (writeAnswer index sub)
      { s with ledger := { s.ledger with staging := tset s.ledger.staging (srcKey r.h.source) st } }

/-- The last segment of a transfer: an image is verified, another value checked and applied whole. -/
def finishSeg (r : WReq) (index sub : Nat) (b : Bytes) (s : State) : State :=
  let ended : State := { s with ledger := { s.ledger with staging := tdel s.ledger.staging (srcKey r.h.source) } }
  if index = 0x7050 then
    (if imageValid s b then
      let t := respond r (writeAnswer index sub) (setImage sub b ended)
      if s.board.mstate = 3 then resetModule 4 t else t
    else abortWith r 0x04 s)
  else
    let c := valueCode s r.h index sub none b
    if c ≠ 0 then abortWith r c s else doWrite r index sub b true ended

/-- WRITE_SEG: contiguous from 0, the last ending exactly at `total`. -/
def serveWriteSeg (r : WReq) (index sub : Nat) (last : Bool) (offset : Nat) (data : Bytes) (s : State) : State :=
  let c := accessCode s r.h true true index sub
  if c ≠ 0 then abortWith r c s else
  match tfind s.ledger.staging (srcKey r.h.source) with
  | none => abortWith r 0x09 s
  | some x =>
    let n := offset + data.length
    if x.index ≠ index ∨ x.sub ≠ sub ∨ x.data.length ≠ offset ∨ x.total < n ∨ (last = true ∧ n ≠ x.total) ∨
        x.lastAt + 5000000000 < s.now then abortWith r 0x09 s
    else if last then finishSeg r index sub (x.data ++ data) s
    else
      respond r (writeAnswer index sub) { s with ledger := { s.ledger with
        staging := tset s.ledger.staging (srcKey r.h.source) { x with data := x.data ++ data, lastAt := s.now } } }

/-! ## Sessions (R456 to R458) -/

/-- The session ends and its key is erased. -/
def endSession (s : State) : State := { s with ledger := { s.ledger with session := {} } }

def sessionAuthed (s : State) : Bool :=
  match s.ledger.session.st with
  | .auth _ => true
  | _ => false

/-- SESSION_OPEN: an unauthenticated exchange is replaced. -/
def serveOpen (r : WReq) (fieldKey : Bytes) (s : State) : State :=
  if s.board.mstate = 0 ∨ s.board.mstate = 3 then abortWith r 0x0B s
  else if sessionAuthed s || engineLocked s || !(canSign s) then abortWith r 0x0C s
  else
    let priv : BitVec 256 := BitVec.ofNat 256 (leNat (draw32 s))
    let s := drawn4 s
    let nonce := (draw32 s).take 16
    let s : State := { s with free := s.free + 2 }
    let pub := Config.ecPublic priv
    let t := Config.sha256 (fieldKey ++ pub ++ nonce ++ serialBytes)
    let key := Config.hkdf (Config.ecdh priv fieldKey) nonce (ascii "tamvor-waibor" ++ serialBytes)
    let ses : Session := { st := .opened, mac := macOf r.h.source, key := key, transcript := t, lastAt := s.now }
    respond r (pub ++ nonce ++ Config.ecdsaSign s.sec.identity t) { s with ledger := { s.ledger with session := ses } }

/-- A proof of SESSION_AUTH holds. -/
def proofOk (s : State) (mode keyIndex : Nat) (proof : Bytes) : Bool :=
  let t := s.ledger.session.transcript
  match mode with
  | 0 => s.sec.lc == LcState.provisioned && proof.all (fun b => b == 0)
  | 1 => s.sec.lc == LcState.deployed && (match s.sec.ownerKek with
      | some k => beNat (proof.take 16) == (Config.cmac k (beBytes 32 t.toNat)).toNat
      | none => false) && (proof.drop 16).all (fun b => b == 0)
  | 2 => (s.sec.lc == LcState.provisioned || s.sec.lc == LcState.deployed || s.sec.lc == LcState.returned) &&
      !(s.sec.revoked.contains keyIndex) && (match tfind s.sec.druwynKeys keyIndex with
        | some k => Config.ecdsaVerify k t proof
        | none => false)
  | _ => false

/-- SESSION_AUTH: a failed proof ends the exchange. -/
def serveAuth (r : WReq) (mode keyIndex : Nat) (proof : Bytes) (s : State) : State :=
  let ses := s.ledger.session
  if ses.st ≠ .opened ∨ ses.mac ≠ macOf r.h.source ∨ ses.lastAt + 5000000000 < s.now then abortWith r 0x0C s
  else if proofOk s mode keyIndex proof then
    respond r [] { s with ledger := { s.ledger with session := { ses with st := .auth mode, lastAt := s.now } } }
  else endSession (abortWith r 0x0C (bump 0x9046 4 1 s))

/-- SESSION_CLOSE, within the session. -/
def serveClose (r : WReq) (s : State) : State :=
  if r.h.session && sessionAuthed s then endSession (respond r [] s) else abortWith r 0x0C s

/-- What a request's tag covers: its header and payload as they came, or as they are spelled. -/
def tagCovers (r : WReq) : Bytes :=
  if r.h.wire.isEmpty then
    let p := svcPayload r.svc
    waiborHeader (svcType r.svc) r.h.wseq p.length 2 r.h.sessionCtr ++ p
  else r.h.wire

/-- A session message is the session's: its source, a counter that advances, the tag (R457). -/
def sessionMsgOk (s : State) (r : WReq) : Bool :=
  let ses := s.ledger.session
  ses.st != SessState.none && isField r.h.source && ses.mac == macOf r.h.source && decide (ses.rxCtr < r.h.sessionCtr) &&
  r.h.tag == Config.cmac ses.key (tagCovers r)

/-- A counter that has reached its end ends the session. -/
def sessionSpent (s : State) : State :=
  if s.ledger.session.rxCtr = 0xFFFFFFFF ∨ s.ledger.session.txCtr = 0xFFFFFFFF then endSession s else s

/-- One service. -/
def serveOne (r : WReq) (s : State) : State :=
  match r.svc with
  | .read i n => serveRead r i n s
  | .write i n t b => serveWrite r i n t b s
  | .readSeg i n o => serveReadSeg r i n o s
  | .writeSegInit i n t => serveWriteInit r i n t s
  | .writeSeg i n l o b => serveWriteSeg r i n l o b s
  | .sessionOpen k => if isField r.h.source then serveOpen r k s else abortWith r 0x0D s
  | .sessionAuth m k p => if isField r.h.source then serveAuth r m k p s else abortWith r 0x0D s
  | .sessionClose => if isField r.h.source then serveClose r s else abortWith r 0x0D s
  | .malformed _ => abortWith r (if isField r.h.source then 0x07 else 0x0D) s

/-- Serve a request. A session message that is not the session's is dropped and counted. -/
def serve (r : WReq) (s : State) : State :=
  if r.h.session then
    (if !(sessionMsgOk s r) then bump 0x9046 4 1 s
    else
      let ses := s.ledger.session
      let s := { s with ledger := { s.ledger with session := { ses with
        rxCtr := r.h.sessionCtr, lastAt := if sessionAuthed s then s.now else ses.lastAt } } }
      sessionSpent (serveOne r (bump 0x9046 1 1 s)))
  else serveOne r (bump 0x9046 1 1 s)

/-- The response that a source's request of the same number has had (R453). -/
def cachedFor (s : State) (h : WHeader) : Option Bytes :=
  match h.source with
  | .field m => (s.ledger.cache.filter (fun c => c.1 == m && c.2.1 == h.wseq)).head?.map (fun c => c.2.2)
  | _ => none

/-- Serve a request, or send the response to it again that its source has been sent. -/
def serveFresh (r : WReq) (s : State) : State :=
  match cachedFor s r.h with
  | some b => outEmit (.waibor r.h.source b) (bump 0x9046 5 1 s)
  | none => serve r s

/-- A read that waits answers with what the entry holds as it arrives: a write before it has not been applied yet (R443).
What the device computes, and a counter, are read when they are served. -/
def noteFound (s : State) (r : WReq) : WReq :=
  let held (i n : Nat) : Option Bytes :=
    if n = 0 || isCounter i n || (computed s i n).isSome then none else some (ledBytes s i n)
  match r.svc with
  | .read i n => { r with found := held i n }
  | .readSeg i n 0 => { r with found := held i n }
  | _ => r

/-- Serve what waits, until a commit is under way. -/
def drainWaiting : Nat → State → State
  | 0, s => s
  | n + 1, s =>
    match s.ledger.waiting, s.ledger.commit with
    | r :: rest, none => drainWaiting n (serveFresh r { s with ledger := { s.ledger with waiting := rest } })
    | _, _ => s

/-! ## Arrival (R443, R453, R455, R374) -/

/-- The field port answers: its supply is there, and the firmware, or the ROM in recovery, runs (R454, R459, R486). -/
def fieldUp (s : State) : Bool :=
  s.board.supply && s.board.fieldPwr && !s.board.fwRestarting && (decide (3 ≤ s.board.step) || s.board.mstate == 3)

/-- The source is heard. -/
def heard (s : State) (src : WSource) : Bool :=
  match src with
  | .field _ => fieldUp s
  | .doe => doeServes s
  | .firmware => s.board.supply && decide (3 ≤ s.board.step) && !s.board.fwRestarting && s.board.mstate != 3

/-- A request of the DOE mailbox is being served or waits. -/
def doeWaits (s : State) : Bool :=
  s.ledger.waiting.any (fun r => decide (r.h.source = .doe)) || (match s.ledger.commit with
    | some c => decide (c.h.source = .doe)
    | none => false)

/-- A request arrives: a repeated one has its answer sent again; while a commit is under way it waits, at most four field
requests and one of the mailbox (R453). -/
def arriveReq (r : WReq) (s : State) : State :=
  if !(heard s r.h.source) then s else
  let wait : State := { s with ledger := { s.ledger with waiting := s.ledger.waiting ++ [noteFound s r] } }
  match r.h.source with
  | .field _ =>
    if s.ledger.commit.isNone || (cachedFor s r.h).isSome then serveFresh r s
    else if (s.ledger.waiting.filter (fun x => isField x.h.source)).length < 4 then wait
    else bump 0x9046 6 1 s
  | .doe => if s.ledger.commit.isNone then serve r s else if doeWaits s then
      (let t := abortWith r 0x0A s
       { t with host := { t.host with doe := s.host.doe } })
    else wait
  | .firmware => if s.ledger.commit.isNone then serve r s else wait

/-! ## The commands -/

/-- WAIBOR_READ. -/
def execWaiborRead (h : WHeader) (index sub : Nat) (s : State) : Host.Outcome State Fault Refusal :=
  .next (arriveReq { h := h, svc := .read index sub } s)

/-- WAIBOR_WRITE. -/
def execWaiborWrite (h : WHeader) (index sub vtype : Nat) (value : Bytes) (s : State) : Host.Outcome State Fault Refusal :=
  .next (arriveReq { h := h, svc := .write index sub vtype value } s)

/-- WAIBOR_READ_SEG. -/
def execWaiborReadSeg (h : WHeader) (index sub offset : Nat) (s : State) : Host.Outcome State Fault Refusal :=
  .next (arriveReq { h := h, svc := .readSeg index sub offset } s)

/-- WAIBOR_WRITE_SEG_INIT. -/
def execWaiborWriteSegInit (h : WHeader) (index sub total : Nat) (s : State) : Host.Outcome State Fault Refusal :=
  .next (arriveReq { h := h, svc := .writeSegInit index sub total } s)

/-- WAIBOR_WRITE_SEG. -/
def execWaiborWriteSeg (h : WHeader) (index sub : Nat) (last : Bool) (offset : Nat) (data : Bytes) (s : State) :
    Host.Outcome State Fault Refusal :=
  .next (arriveReq { h := h, svc := .writeSeg index sub last offset data } s)

/-- SESSION_OPEN. -/
def execSessionOpen (h : WHeader) (fieldKey : Bytes) (s : State) : Host.Outcome State Fault Refusal :=
  .next (arriveReq { h := h, svc := if fieldKey.length = 64 then .sessionOpen fieldKey else .malformed 6 } s)

/-- SESSION_AUTH. -/
def execSessionAuth (h : WHeader) (mode keyIndex : Nat) (proof : Bytes) (s : State) : Host.Outcome State Fault Refusal :=
  .next (arriveReq { h := h, svc := if proof.length = 64 then .sessionAuth mode keyIndex proof else .malformed 7 } s)

/-- SESSION_CLOSE. -/
def execSessionClose (h : WHeader) (s : State) : Host.Outcome State Fault Refusal := .next (arriveReq { h := h, svc := .sessionClose } s)

/-- LC_REQUEST: a write of `lc_request`. -/
def execLcRequest (h : WHeader) (blob : Bytes) (s : State) : Host.Outcome State Fault Refusal :=
  .next (arriveReq { h := h, svc := .write 0x7000 2 12 blob } s)

/-- OWNER_KEK_IMPORT: a write of `owner_kek_import`. -/
def execOwnerKekImport (h : WHeader) (blob : Bytes) (s : State) : Host.Outcome State Fault Refusal :=
  .next (arriveReq { h := h, svc := .write 0x7010 1 12 blob } s)

/-- MODULE_RESET_WRITE: a write of 1 to `module_reset`, answered before the reset. -/
def execModuleResetWrite (h : WHeader) (s : State) : Host.Outcome State Fault Refusal :=
  .next (arriveReq { h := h, svc := .write 0xA000 1 1 [1] } s)

/-- FAULT_LOG_CLEAR: a write of 1 to `fault_log_clear`. -/
def execFaultLogClear (h : WHeader) (s : State) : Host.Outcome State Fault Refusal :=
  .next (arriveReq { h := h, svc := .write 0xA020 2 1 [1] } s)

/-- LEDGER_COMMIT_COMPLETE: the write is applied and answered, or aborts 0x0E; then what waits is served. -/
def execLedgerCommitComplete (ok : Bool) (s : State) : Host.Outcome State Fault Refusal :=
  .next (match s.ledger.commit with
    | none => s
    | some c =>
      let r : WReq := { h := c.h, svc := if c.seg then .writeSeg c.index c.sub true 0 [] else .write c.index c.sub 0 [] }
      let s := { s with ledger := { s.ledger with commit := none } }
      let s := if ok then respond r (writeAnswer c.index c.sub) (ledApply c.index c.sub c.value true s) else abortWith r 0x0E s
      drainWaiting s.ledger.waiting.length (sessionSpent s))

/-- SESSION_AUTH_TIMEOUT: 5 s after SESSION_OPEN. -/
def execSessionAuthTimeout (s : State) : Host.Outcome State Fault Refusal :=
  .next (match s.ledger.session.st with
    | .opened => endSession (advanceTo (s.ledger.session.lastAt + 5000000000) s)
    | _ => s)

/-- SESSION_IDLE_EXPIRY: `session_idle` without a session message. -/
def execSessionIdleExpiry (s : State) : Host.Outcome State Fault Refusal :=
  .next (match s.ledger.session.st with
    | .auth _ => endSession (advanceTo (s.ledger.session.lastAt + ledN s 0x3400 6 * 1000000000) s)
    | _ => s)

/-- SEGMENT_STAGING_EXPIRY: 5 s after the source's last segment its staging and its snapshot go. -/
def execSegmentStagingExpiry (src : WSource) (s : State) : Host.Outcome State Fault Refusal :=
  .next (
    let k := srcKey src
    let a := match tfind s.ledger.staging k with
      | some x => x.lastAt
      | none => 0
    let b := match tfind s.ledger.snapshots k with
      | some x => x.lastAt
      | none => 0
    if (tfind s.ledger.staging k).isNone && (tfind s.ledger.snapshots k).isNone then s else
    let s := advanceTo (max a b + 5000000001) s
    { s with ledger := { s.ledger with staging := tdel s.ledger.staging k, snapshots := tdel s.ledger.snapshots k } })

/-! ## The bridge (R447, R455) -/

/-- `field_mac`. -/
def fieldMac (s : State) : Nat := ledN s 0x3400 1

/-- The bridge passes a frame. -/
def bridgePasses (s : State) (f : FieldFrame) : Bool :=
  f.etherType == 0x88B5 && requestOk (.field f.srcMac) f.bytes &&
  (f.dstMac == fieldMac s || (f.dstMac == 0xFFFFFFFFFFFF && beNat ((f.bytes.drop 1).take 1) == 1)) &&
  (s.now / 1000000000 != s.ledger.bridge.1 || decide (s.ledger.bridge.2 < 2000))

/-- FIELD_FRAME_RECEIVE. -/
def execFieldFrameReceive (f : FieldFrame) (s : State) : Host.Outcome State Fault Refusal :=
  .next (
    if !(fieldUp s) then s
    else if !(bridgePasses s f) then bump 0x9046 3 1 s
    else
      let sec := s.now / 1000000000
      let n := if s.ledger.bridge.1 = sec then s.ledger.bridge.2 + 1 else 1
      arriveReq (parseRequest (.field f.srcMac) f.bytes) { s with ledger := { s.ledger with bridge := (sec, n) } })

/-! ## The DOE mailbox (R374) -/

/-- DOE_REQUEST, by its object type: vendor × 256 + type. Discovery is vendor 1 type 0, SPDM types 1 and 2 under it, a Ledger
frame the PF's vendor ID with type 1. One request is served at a time. -/
def execDoeRequest (objType : Nat) (payload : Bytes) (s : State) : Host.Outcome State Fault Refusal :=
  .next (
    if !(doeServes s) || s.host.doe.isSome || decide (65536 < payload.length) then s
    else if objType = 0x100 then outEmit (.doe (Config.doeDiscovery (payload.headD 0))) s
    else
      let taken : State := { s with host := { s.host with doe := some payload } }
      if objType = 0x101 ∨ objType = 0x102 then taken
      else if objType / 256 = Config.pfVendor.toNat ∧ objType % 256 = 1 then
        (if requestOk .doe payload then arriveReq (parseRequest .doe payload) taken
        else arriveReq { h := { source := .doe, wseq := beNat ((payload.drop 2).take 2) }, svc := .malformed 0 } taken)
      else s)

/-- DOE_ABORT: no part of the request in progress is applied. -/
def execDoeAbort (s : State) : Host.Outcome State Fault Refusal :=
  .next (
    let led := s.ledger
    let keep := led.waiting.filter (fun r => decide (r.h.source ≠ .doe))
    let commit := match led.commit with
      | some c => if c.h.source = .doe then none else led.commit
      | none => none
    let s : State := { s with host := { s.host with doe := none }, ledger := { led with waiting := keep, commit := commit } }
    drainWaiting keep.length s)

/-! ## Heartbeats and emergencies (R459, R460) -/

/-- The flags of a heartbeat. -/
def hbFlags (s : State) : Nat :=
  b2n s.host.attached + 2 * b2n s.host.linkUp + 4 * b2n s.wall.fenced + 8 * b2n s.power.fallback +
    16 * b2n (!s.power.throttled.isEmpty) + 32 * b2n s.power.thermtrip

/-- The payload of a heartbeat. -/
def hbPayload (s : State) (count : Nat) : Bytes :=
  beBytes 4 (ownId s).toNat ++ beBytes 1 s.board.mstate ++ beBytes 1 (lcCode s.sec.lc) ++ [s.sec.alarms] ++ beBytes 1 (hbFlags s) ++
    beBytes 4 count ++ beBytes 4 s.power.meter ++ beBytes 2 ((s.power.tj.map Prod.snd).foldl max 0) ++ [0, 0] ++ beBytes 8 s.now ++
    [0, 0, 0, 0]

/-- HEARTBEAT: to `field_peer_mac`, or broadcast when it is 0; the frame from its addresses on. -/
def execHeartbeat (s : State) : Host.Outcome State Fault Refusal :=
  .next (
    if !(fieldUp s) then s else
    let p := ledN s 0x3400 4 * 1000000
    let s := advanceTo ((s.now / p + 1) * p) s
    let seq := s.ledger.hbSeq + 1
    let count := s.ledger.hcount + 1
    let peer := if ledN s 0x3400 5 = 0 then 0xFFFFFFFFFFFF else ledN s 0x3400 5
    let b := hbPayload s count.toNat
    let frame := beBytes 6 peer ++ beBytes 6 (fieldMac s) ++ [0x88, 0xB5] ++ waiborHeader 0x10 seq.toNat b.length 0 0 ++ b
    let s := { s with ledger := { s.ledger with hbSeq := seq, hcount := count } }
    bump 0x9046 7 1 (outEmit (.heartbeat frame) s))

/-- EMERGENCY_REPEAT: the second copy, 10 ms after the first, under the same number. -/
def execEmergencyRepeat (s : State) : Host.Outcome State Fault Refusal :=
  .next (match s.ledger.emRepeat with
    | [] => s
    | (seq, b) :: rest =>
      let s := advanceTo (beNat ((b.drop 8).take 8) + 10000000) { s with ledger := { s.ledger with emRepeat := rest } }
      if s.board.fieldPwr && s.board.supply then bump 0x9046 8 1 (outEmit (.emergency seq b) s) else s)

end Sys2Proof.Machine
end

