-- ==== Sys2Proof/Machine/Background.lean ====
section
/-! DEFINITION. Background work, supplies and reference clocks (R312 to R315, R472 to R475, R484 to R488). -/

namespace Sys2Proof.Machine

open Sys2Proof

/-! ## Scrubbing (R312 to R315, R472, R473) -/

/-- The function and segment that a byte of a tier belongs to, with its virtual address. -/
def tierOwner (s : State) (tier a : Nat) : Option (Nat × Nat × Nat) :=
  (s.fns.map (fun f => (f.2.segs.map (fun g =>
    let seg := g.2
    if !seg.valid || seg.tier != tier then []
    else if seg.migratory then
      (f.2.pages.filter (fun p => p.1 / 2 ^ 20 == g.1 && p.2.resident && p.2.frame == a / pageBytes)).map (fun p =>
        (f.1, g.1, segBase seg + p.1 % 2 ^ 20 * pageBytes + a % pageBytes))
    else if decide (seg.tierBase ≤ a) && decide (a < seg.tierBase + seg.pages * pageBytes) then
      [(f.1, g.1, segBase seg + (a - seg.tierBase))]
    else [])).flatten)).flatten.head?

/-- Corrected words: of scrubbing, and of the memory's kind. -/
def scrubCorrected (sub : Nat) (s : State) : State := bump 0x9070 sub 1 (bump 0x90A0 2 1 s)

/-- What a scrub finds in a memory at an address. An uncorrectable granule keeps reading so until it is written whole; only
the event follows. -/
def scrubbed (m : MemId) (a owner : Nat) (place : Option (Nat × Nat × Nat)) (r : ScrubResult) (s : State) : State :=
  match r with
  | .clean => s
  | .corrected => scrubCorrected (match m with
    | .hbm => 6
    | .lpddr => 7
    | _ => 8) s
  | .uncorrectable =>
    let k := badKey m a
    let s := { s with mems := { s.mems with bad := if s.mems.bad.contains k then s.mems.bad else k :: s.mems.bad } }
    match place with
    | some (f, g, va) => memEvent f (memCode m) g va s
    | none => memEvent owner (memCode m) 0 a s

/-- PATROL_SCRUB: what the read of one place finds; a bank that cannot be finished is counted, and an uncorrectable word of
secure SRAM is an alarm. -/
def execPatrolScrub (t : ScrubTarget) (r : ScrubResult) (s : State) : Host.Outcome State Fault Refusal :=
  .next (
    if !s.board.supply then s else
    match t with
    | .hbm a => if a < hbmSize s.part then scrubbed .hbm a 0 (tierOwner s 0 a) r s else s
    | .lpddr a => if a < lpddrSize s.part then scrubbed .lpddr a 0 (tierOwner s 1 a) r s else s
    | .scratch a => if a / 2 ^ 22 < coresFitted s.part ∧ bankState s (padCore a) (padOff a / bankBytes) = 0 then
        scrubbed .scratch a ((coreFn s (padCore a)).getD 0) none r s else s
    | .clusterStore a => if a / 2 ^ 25 < coresFitted s.part / 16 then
        scrubbed .cluster a ((coreFn s (a / 2 ^ 25 * 16)).getD 0) none r s else s
    | .ksram a => if a < 2 ^ 27 then scrubbed .ksram a 0 none r s else s
    | .secureSram => (match r with
      | .clean => s
      | .corrected => scrubCorrected 8 s
      | .uncorrectable => raiseAlarm 6 (bump 0x9070 9 1 s))
    | .skippedBank core bank => if core < coresFitted s.part ∧ bank < 16 then bump 0x90A0 3 1 s else s)

/-- RFM_REFRESH: the neighbours of a row are refreshed. -/
def execRfmRefresh (_row : Nat) (s : State) : Host.Outcome State Fault Refusal := .next (if s.board.supply then bump 0x90A0 4 1 s else s)

/-- SENSOR_CALIBRATION: a sensor goes offline for at most 50 µs; the one before it is back first, and the same sensor again is
only back. -/
def execSensorCalibration (sensor : Nat) (s : State) : Host.Outcome State Fault Refusal :=
  .next (
    if decide (40 ≤ sensor) || !(unitFitted s (sensorUnit sensor)) || !s.board.supply then s else
    let off (s : State) : State :=
      { s with power := { s.power with sensorOffline := some (sensor, s.now, tget 0 s.power.tj (sensorUnit sensor)) } }
    match s.power.sensorOffline with
    | some (n, _, _) =>
      let s := { s with power := { s.power with sensorOffline := none } }
      if n = sensor then s else off s
    | none => off s)

/-- The clamps of R474. -/
def clampCtx (s : State) (c : Ctx) : Ctx :=
  { c with epochTime := max c.epochTime (nowUs s - 2 ^ 30), lastActive := max c.lastActive (nowMs s - 2 ^ 30) }

/-- TALLY_WRITEBACK_PASS: at the next `tally_wb_ms`, the dirty quiet contexts are written back, and every record's times
clamped. -/
def execTallyWritebackPass (ks : Nat) (s : State) : Host.Outcome State Fault Refusal :=
  .next (
    if !s.board.supply || decide (1 < ks) then s else
    let p := ledN s 0xA010 6 * 1000000
    let s := advanceTo ((s.now / p + 1) * p) s
    foldS (fun x t =>
      modCtx (BitVec.ofNat 32 x.1) (fun c =>
        clampCtx t { c with dirty := c.dirty && !(isQuiet t (BitVec.ofNat 32 x.1) c) }) t) (ctxsOn s ks) s)

/-! ## The supply (R484, R485) -/

/-- UNDERVOLTAGE_DIP. -/
def execUndervoltageDip (s : State) : Host.Outcome State Fault Refusal :=
  .next (if s.board.supply && s.board.dip.isNone then { s with board := { s.board with dip := some s.now } } else s)

/-- UNDERVOLTAGE_DIP_END: before 5 µs have passed, the dip is ignored. -/
def execUndervoltageDipEnd (s : State) : Host.Outcome State Fault Refusal :=
  .next (match s.board.dip with
    | some t => if s.now < t + 5000 then { s with board := { s.board with dip := none } } else s
    | none => s)

/-- Every domain loses its power; what OTP and the NOR hold stays. -/
def powerLost (s : State) : State :=
  let t := powerReset s
  { t with board := { t.board with supply := false, step := 0, boots := s.board.boots } }

/-- UNDERVOLTAGE_DECLARED: 5 µs after the dip began, `going down` for 2 µs, then no power. -/
def execUndervoltageDeclared (s : State) : Host.Outcome State Fault Refusal :=
  .next (match s.board.dip with
    | some t => if s.board.supply then powerLost (sayGoingDown (advanceTo (t + 5000) s)) else s
    | none => s)

/-- SUPPLY_RESTORE: the input rises above 47 V: power-on reset. -/
def execSupplyRestore (s : State) : Host.Outcome State Fault Refusal := .next (if s.board.supply then s else powerReset s)

/-- FIELD_PWR_LOSS: the field port is dead; the module runs. -/
def execFieldPwrLoss (s : State) : Host.Outcome State Fault Refusal := .next { s with board := { s.board with fieldPwr := false } }

/-- FIELD_PWR_RESTORE: the PHY is powered, in service when the 54 V supply is present. -/
def execFieldPwrRestore (s : State) : Host.Outcome State Fault Refusal := .next { s with board := { s.board with fieldPwr := true } }

/-! ## Reference clocks (R487, R488) -/

/-- REFCLK_LOSS. -/
def execRefclkLoss (c : RefClock) (s : State) : Host.Outcome State Fault Refusal :=
  .next (match c with
    | .cxl100 =>
      let s := { s with board := { s.board with clk100 := false } }
      if s.host.linkUp then hostLoss (linkGone s) else s
    | .eth156 =>
      let s := { s with board := { s.board with clk156 := false } }
      foldS bondDown (rangeFrom 0 8) (foldS portDown (rangeFrom 0 4) s)
    | .osc25 =>
      let s := raiseAlarm 1 { s with board := { s.board with clk25 := false } }
      if s.board.supply then { s with power := { s.power with aClocksStopped := true } } else s)

/-- REFCLK_RESTORE: the links retry by their own commands. -/
def execRefclkRestore (c : RefClock) (s : State) : Host.Outcome State Fault Refusal :=
  .next { s with board := (match c with
    | .cxl100 => { s.board with clk100 := true }
    | .eth156 => { s.board with clk156 := true }
    | .osc25 => { s.board with clk25 := true }) }

end Sys2Proof.Machine
end

