-- ==== Sys2Proof/Machine/Streaming.lean ====
section
/-! DEFINITION. Stream bindings: enabling, disabling, and the watchdog (R321 to R327). -/

namespace Sys2Proof.Machine

open Sys2Proof

/-- The binding that `STREAM_SEL` selects. -/
def selBinding (s : State) (fn : Nat) : Nat := (fnOf s fn).streamSel % 64

/-- The fields of a `STREAM_CFG` write other than `enable`: ignored while the binding is enabled (R322). -/
def bindingFields (v : Nat) (b : Binding) : Binding :=
  if b.enable then b else { b with sem := fieldOf v 2 6, core := fieldOf v 8 10, wakeTol := fieldOf v 18 12 }

/-- An enable is refused (R323). -/
def bindingRefused (s : State) (fn n : Nat) (b : Binding) : Bool :=
  let e := keyOf s (keyIdx b.key)
  decide (511 < b.core) || coreFn s b.core != some fn || decide (1000000 < b.watchdogUs) ||
  (b.key != 0 &&
    (!(keyCurrent s b.key && e.owner == fn && e.tier == 2 && !e.recvArea) || e.base / 2 ^ 22 != b.core ||
     (fnOf s fn).bindings.any (fun p => p.1 != n && p.2.enable && p.2.key == b.key)))

/-- A write of `STREAM_CFG` with `enable` = 1. -/
def streamEnable (fn v : Nat) (s : State) : State :=
  let n := selBinding s fn
  let b := { bindingFields v (bindingOf s fn n) with cfgError := false }
  if b.enable then modBinding fn n (fun _ => b) s
  else if bindingRefused s fn n b then modBinding fn n (fun _ => { b with cfgError := true }) s
  else modBinding fn n (fun _ => { b with enable := true, keyStale := false }) s

/-- A write of `STREAM_CFG` with `enable` = 0: the binding watches nothing any more. -/
def streamDisable (fn v : Nat) (s : State) : State :=
  let n := selBinding s fn
  let b := bindingFields v (bindingOf s fn n)
  let s := if (bindingOf s fn n).enable then touchCore (bindingOf s fn n).core s else s
  let s := modBinding fn n (fun _ => { b with enable := false, cfgError := false, keyStale := false }) s
  { s with enpin := { s.enpin with trackers := s.enpin.trackers.map (fun t =>
      if t.watch = some (fn, n) then { t with watch := none } else t) } }

/-- STREAM_BINDING_ENABLE. -/
def execStreamBindingEnable (fn : Nat) (value : W32) (s : State) : Host.Outcome State Fault Refusal :=
  .next (if barOpen s fn && bitOf value.toNat 0 then streamEnable fn value.toNat s else s)

/-- STREAM_BINDING_DISABLE. -/
def execStreamBindingDisable (fn : Nat) (value : W32) (s : State) : Host.Outcome State Fault Refusal :=
  .next (if barOpen s fn && !(bitOf value.toNat 0) then streamDisable fn value.toNat s else s)

/-- A stall of a watched message is due (R325). -/
def stallDue (s : State) (t : Tracker) : Bool :=
  match t.watch with
  | some (fn, b) =>
    let w := (bindingOf s fn b).watchdogUs
    !t.stalled && (bindingOf s fn b).enable && w != 0 && decide (w * 1000 ≤ s.now - t.watchAt)
  | none => false

/-- STREAM_WATCHDOG_TICK: the next whole microsecond of module time. -/
def execStreamWatchdogTick (s : State) : Host.Outcome State Fault Refusal :=
  .next (
    let s := advanceTo ((s.now / 1000 + 1) * 1000) s
    let due := s.enpin.trackers.filter (stallDue s)
    let s := { s with enpin := { s.enpin with trackers := s.enpin.trackers.map (fun t =>
      if stallDue s t then { t with stalled := true } else t) } }
    foldS (streamEvent 0) due s)

end Sys2Proof.Machine
end

