-- ==== Sys2Proof/Machine/Registers.lean ====
section
/-! DEFINITION. Register writes by address: the BAR layouts of R370 and R371, with the access codes of R13 and the rules
of R12 and R369. A register that only holds its value stores it here; one with a behaviour of its own calls that. -/

namespace Sys2Proof.Machine

open Sys2Proof

/-! ## Rings and queues (R52, R68) -/

/-- A write to the 4 KiB-aligned low half of a base. -/
def baseLoOf (v : Nat) : W32 := BitVec.ofNat 32 (v / 4096 * 4096)

/-- `QCFG_SIZE` without its reserved bits. -/
def sizeOf32 (v : Nat) : W32 := BitVec.ofNat 32 (v % 32 + fieldOf v 16 14 * 2 ^ 16)

/-- The queue that `QSEL` selects, none for a ring that the device writes and for what the function does not have. -/
def selectedQueue (s : State) (fn : Nat) : Option QRef :=
  let i := (fnOf s fn).qselIndex
  match (fnOf s fn).qselKind with
  | 0 => if ringsFor s { fn := fn, kind := .send, index := i } then some { fn := fn, kind := .send, index := i } else none
  | 1 => if i = 0 then some { fn := fn, kind := .control, index := 0 } else none
  | 4 => if fn = 0 ∧ i < 8 then some { fn := 0, kind := .admin, index := i } else none
  | _ => none

/-- Change the selected object's base or size, ignored while it is enabled (R52). A queue that is being disabled counts as
enabled until it is in RESET (DESIGN CHOICE, assumption 64). -/
def setPlace (fn : Nat) (onQueue : Queue → Queue) (onRing : OutRing → OutRing) (s : State) : State :=
  let i := (fnOf s fn).qselIndex
  match (fnOf s fn).qselKind with
  | 2 => if i < cqCountOf s fn then modCq fn i (fun r => if r.enable then r else onRing r) s else s
  | 3 => if i = 0 then modFn fn (fun f => { f with eq := if f.eq.enable then f.eq else onRing f.eq }) s else s
  | _ =>
    match selectedQueue s fn with
    | some q => modQueue q (fun x => if x.enable || x.closing then x else onQueue x) s
    | none => s

/-- Change the selected send queue's receive configuration (R68). -/
def setRecv (fn : Nat) (g : Queue → Queue) (s : State) : State :=
  if (fnOf s fn).qselKind = 0 then
    match selectedQueue s fn with
    | some q => modQueue q g s
    | none => s
  else s

/-- The registers from `QSEL` on, 4 B apart. -/
def ringRegWrite (fn k : Nat) (v : W32) (s : State) : State :=
  let n := v.toNat
  match k with
  | 0 => modFn fn (fun f => { f with qselIndex := n % 2 ^ 20, qselKind := fieldOf n 20 3 }) s
  | 1 => setPlace fn (fun x => { x with baseLo := baseLoOf n }) (fun r => { r with baseLo := baseLoOf n }) s
  | 2 => setPlace fn (fun x => { x with baseHi := v }) (fun r => { r with baseHi := v }) s
  | 3 => setPlace fn (fun x => { x with size := sizeOf32 n }) (fun r => { r with size := sizeOf32 n }) s
  | 4 => if bitOf n 0 then ctrlEnable fn n s else ctrlDisable fn n s
  | 6 => setRecv fn (fun x => if x.enable || x.closing then x else { x with recvKey := v }) s
  | 7 => setRecv fn (fun x => if x.enable || x.closing then x
      else { x with recvLog2Size := n % 32, recvLog2Slots := fieldOf n 8 5 }) s
  | 8 => recvReturn fn n s
  | 9 => setRecv fn (fun x => { x with returnError := x.returnError && !(bitOf n 16) }) s
  | _ => s

/-! ## The other groups of a function (R52, R171, R273, R300, R322) -/

/-- `EQ_HEAD`, `VDEV_STATUS`, `CNT_SEL`. -/
def eventRegWrite (fn k : Nat) (v : W32) (s : State) : State :=
  match k with
  | 0 => eqHeadWrite fn v.toNat s
  | 1 => modFn fn (fun f => { f with eventOverflow := f.eventOverflow && !(bitOf v.toNat 3) }) s
  | 2 => modFn fn (fun f => { f with cntSel := v.toNat % 4096 }) s
  | _ => s

/-- The telemetry registers. -/
def telemRegWrite (fn k : Nat) (v : W32) (s : State) : State :=
  let n := v.toNat
  let ring (g : OutRing → OutRing) (t : Telem) : Telem := if t.enable then t else { t with ring := g t.ring }
  match k with
  | 0 => modFn fn (fun f => { f with telem := ring (fun r => { r with baseLo := baseLoOf n }) f.telem }) s
  | 1 => modFn fn (fun f => { f with telem := ring (fun r => { r with baseHi := v }) f.telem }) s
  | 2 => telemWrite fn n s
  | 3 => modFn fn (fun f => { f with telem := { f.telem with first := n % 2 ^ 20, count := fieldOf n 20 7 } }) s
  | 4 => modFn fn (fun f => { f with telem := { f.telem with ring := { f.telem.ring with cons := n % 65536 } } }) s
  | _ => s

/-- A segment register that is ignored while the segment is enabled. -/
def setSeg (fn : Nat) (g : Segment → Segment) (s : State) : State :=
  modSeg fn (selSeg s fn) (fun x => if x.enable || x.disabling then x else g x) s

/-- The segment registers. -/
def segRegWrite (fn k : Nat) (v : W32) (s : State) : State :=
  let n := v.toNat
  match k with
  | 0 => modFn fn (fun f => { f with segSel := n % 16 }) s
  | 1 => setSeg fn (fun g => { g with vaLo := BitVec.ofNat 32 (n / 2 ^ 21 * 2 ^ 21) }) s
  | 2 => setSeg fn (fun g => { g with vaHi := v }) s
  | 3 => setSeg fn (fun g => { g with hostLo := baseLoOf n }) s
  | 4 => setSeg fn (fun g => { g with hostHi := v }) s
  | 5 => setSeg fn (fun g => { g with pages := n % 2 ^ 20 }) s
  | 6 => if bitOf n 5 then segEnable fn n s else segDisable fn n s
  | 7 => modSeg fn (selSeg s fn) (fun g => { g with flushPinned := g.flushPinned && !(bitOf n 2) }) s
  | _ => s

/-- The stream binding registers. -/
def streamRegWrite (fn k : Nat) (v : W32) (s : State) : State :=
  let n := v.toNat
  match k with
  | 0 => modFn fn (fun f => { f with streamSel := n % 64 }) s
  | 1 => modBinding fn (selBinding s fn) (fun b => if b.enable then b else { b with key := v }) s
  | 2 => if bitOf n 0 then streamEnable fn n s else streamDisable fn n s
  | 3 => modBinding fn (selBinding s fn) (fun b => { b with watchdogUs := n % 2 ^ 20 }) s
  | _ => s

/-! ## MSI-X (R373) -/

/-- Vectors of a function. -/
def vectorsOf (fn : Nat) : Nat := if fn = 0 then 73 else 65

/-- A vector's mask is written; one that is unmasked sends the message it has pending. -/
def maskWrite (fn vec : Nat) (masked : Bool) (s : State) : State :=
  let off (l : List Nat) : List Nat := l.filter (fun x => x != vec)
  if masked then modFn fn (fun f => { f with msixUnmasked := off f.msixUnmasked }) s
  else
    let due := (fnOf s fn).msixPending.contains vec && hostOk s
    let s := modFn fn (fun f => { f with msixUnmasked := vec :: off f.msixUnmasked }) s
    if due then msix fn vec (modFn fn (fun f => { f with msixPending := off f.msixPending }) s) else s

/-- A word of the MSI-X table: 16 B to a vector, address low, high, data, vector control. -/
def msixWrite (fn k : Nat) (v : W32) (s : State) : State :=
  let vec := k / 4
  if vectorsOf fn ≤ vec then s
  else if k % 4 = 3 then maskWrite fn vec (bitOf v.toNat 0) s
  else modFn fn (fun f => { f with msixTable := tset f.msixTable k (if k % 4 = 0 then BitVec.ofNat 32 (v.toNat / 4 * 4) else v) }) s

/-! ## The key page (R399) -/

/-- The registers that page 0 alone has. -/
def tagRegWrite (k : Nat) (v : W32) (s : State) : State :=
  match k with
  | 64 => { s with sec := { s.sec with tagSel := v.toNat % 2048 } }
  | 65 =>
    if 1 ≤ s.sec.tagSel ∧ s.sec.tagSel ≤ 1024 then modKeyPage s.sec.tagSel (fun p => { p with tag := v }) s else s
  | _ => s

/-- The registers of a key page. -/
def keyRegWrite (fn k : Nat) (v : W32) (s : State) : State :=
  let n := v.toNat
  if k < 16 then modKeyPage fn (fun p => if p.busy then p else { p with blob := p.blob.set k v }) s
  else match k with
    | 16 => keyCmdWrite fn (n % 8) (fieldOf n 16 12) s
    | 17 =>
      if bitOf n 8 && !(s.sec.wipeCleared.contains fn) then
        { s with sec := { s.sec with wipeCleared := fn :: s.sec.wipeCleared } }
      else s
    | 19 => modKeyPage fn (fun p => { p with rxSel := n % 4096 }) s
    | 21 => modKeyPage fn (fun p => { p with rxRequired := bitOf n 0 }) s
    | _ => if fn = 0 then tagRegWrite k v s else s

/-! ## A function's block (R370) -/

/-- An aligned write at an offset from 0xC000 on of a function's layout, as page and word. -/
def blockWrite (fn off : Nat) (v : W32) (s : State) : State :=
  let k := off % 256 / 4
  match off / 256 with
  | 0xC1 => ringRegWrite fn k v s
  | 0xC2 => cqHeadWrite fn k v.toNat s
  | 0xC3 => eventRegWrite fn k v s
  | 0xC4 => telemRegWrite fn k v s
  | 0xC5 => if k = 0 ∧ coresFitted s.part ≠ 0 then modFn fn (fun f => { f with coreSel := v.toNat % 1024 }) s else s
  | 0xC6 => segRegWrite fn k v s
  | 0xC7 => if coresFitted s.part = 0 then s else streamRegWrite fn k v s
  | _ =>
    if off / 4096 = 0xD then msixWrite fn (off % 4096 / 4) v s
    else if off / 4096 = 0xF then keyRegWrite fn (off % 4096 / 4) v s
    else s

/-- A write at an offset of a function's layout. A doorbell takes a write of any alignment; any other misaligned write is
ignored (R369). -/
def layoutWrite (fn off : Nat) (v : W32) (s : State) : State :=
  if 0xC000 ≤ off ∧ off < 0xC004 then ringDoorbell { fn := fn, kind := .control, index := 0 } s
  else if off % 4 = 0 then blockWrite fn off v s
  else s

/-! ## What PF BAR0 has beside (R371) -/

/-- Change the shaper that `SHAPER_SEL` selects (R165). -/
def setShaper (g : Shaper → Shaper) (s : State) : State :=
  let sel := s.host.shaperSel.toNat
  let fn := sel % 2048
  if 1024 < fn then s
  else
    let key := (fieldOf sel 14 1 * 2048 + fn) * 8 + fieldOf sel 11 3
    { s with shapers := tset s.shapers key (g (tget {} s.shapers key)) }

/-- The shaper registers. -/
def shaperRegWrite (k : Nat) (v : W32) (s : State) : State :=
  let n := v.toNat
  match k with
  | 0 => { s with host := { s.host with shaperSel := BitVec.ofNat 32 (n % 2 ^ 15) } }
  | 1 => setShaper (fun h => { h with wSlope := n % 2 ^ 24 }) s
  | 2 => setShaper (fun h => { h with wHi := n }) s
  | 3 => setShaper (fun h => { h with wLo := n }) s
  | _ => s

/-- The cut rule registers, which a part without the cut path does not have (R337). -/
def cutRegWrite (k : Nat) (v : W32) (s : State) : State :=
  if !(cutFitted s.part) then s else
  match k with
  | 0 => { s with cut := { s.cut with sel := v.toNat % 64 } }
  | 1 => if bitOf v.toNat 0 then cutEnable s else cutDisable s
  | _ => s

/-- A port's registers (R364). -/
def portRegWrite (port k : Nat) (v : W32) (s : State) : State :=
  if !(portFitted s port) then s else
  let n := v.toNat
  let rx (g : OutRing → OutRing) : State := modPort port (fun x => if x.rxr.enable then x else { x with rxr := g x.rxr }) s
  let tx (g : Port → Port) : State := modPort port (fun x => if x.txEnable then x else g x) s
  match k with
  | 4 => rx (fun r => { r with baseLo := baseLoOf n })
  | 5 => rx (fun r => { r with baseHi := v })
  | 6 => ethRingWrite port false n s
  | 7 => ethHeadWrite port n s
  | 8 => tx (fun x => { x with txBaseLo := baseLoOf n })
  | 9 => tx (fun x => { x with txBaseHi := v })
  | 10 => ethRingWrite port true n s
  | 12 => txDoorbell port s
  | 13 => modPort port (fun x => { x with txError := x.txError && !(bitOf n 16) }) s
  | 16 => modPort port (fun x => { x with statSel := n % 256 }) s
  | _ => s

/-- Change the exchange window that `XW_SEL` selects, while it is not enabled (R376). -/
def setXw (g : Xw → Xw) (s : State) : State :=
  if 1024 < s.host.xwSel then s
  else modFn s.host.xwSel (fun f => { f with xw := if f.xw.enable then f.xw else g f.xw }) s

/-- `HOST_LINK_STATUS`, `HOST_ATTACH` (R378) and the window registers. -/
def hostRegWrite (off : Nat) (v : W32) (s : State) : State :=
  let n := v.toNat
  match off / 4 with
  | 0 => { s with host := { s.host with lost := s.host.lost && !(bitOf n 2) } }
  | 1 => if hostOk s then s else if n % 4 = 1 then attachResume s else if n % 4 = 2 then attachFresh s else s
  | 64 => { s with host := { s.host with xwSel := n % 2048 } }
  | 65 => setXw (fun w => { w with baseLo := baseLoOf n }) s
  | 66 => setXw (fun w => { w with baseHi := v }) s
  | 67 => setXw (fun w => { w with pages := n % 2 ^ 17 }) s
  | 68 => xwWrite n s
  | _ => s

/-- The shared page (R419, R420): the alias and `LOCK_FUNC` take writes only while the lock is held. -/
def sharedWrite (off : Nat) (v : W32) (s : State) : State :=
  if off = 0 then lockWrite v.toNat s
  else if off = 4 ∨ (0x100 ≤ off ∧ off < 0x200) then
    if s.sec.lockToken.isNone then bump 0x9080 5 1 s
    else if off = 4 then { s with sec := { s.sec with lockFunc := v.toNat % 2048 } }
    else keyRegWrite s.sec.lockFunc ((off - 0x100) / 4) v s
  else s

/-- An aligned write beyond the function block of PF BAR0. -/
def pfWrite (off : Nat) (v : W32) (s : State) : State :=
  if off / 0x1000 = 0x810 then shaperRegWrite (off % 0x1000 / 4) v s
  else if off / 0x1000 = 0x811 then cutRegWrite (off % 0x1000 / 4) v s
  else if off / 0x10000 = 0x82 then portRegWrite (off % 0x10000 / 0x1000) (off % 0x1000 / 4) v s
  else if off / 0x1000 = 0x830 then hostRegWrite (off % 0x1000) v s
  else if off / 0x1000 = 0x840 then sharedWrite (off % 0x1000) v s
  else s

/-- A write to PF BAR0. -/
def pfBarWrite (off : Nat) (v : W32) (s : State) : State :=
  if off < 0x800000 then
    (if off % 8 < 4 then ringDoorbell { fn := 0, kind := .send, index := off / 8 } s else s)
  else if off < 0x800040 then
    (if off % 8 < 4 then ringDoorbell { fn := 0, kind := .admin, index := (off - 0x800000) / 8 } s else s)
  else if 0x80C000 ≤ off ∧ off < 0x810000 then layoutWrite 0 (off - 0x800000) v s
  else if off % 4 = 0 then pfWrite off v s
  else s

/-- A write to a VF's BAR, closed from an FLR until its drains end (R383). -/
def vfBarWrite (fn off : Nat) (v : W32) (s : State) : State :=
  if decide (1024 < fn) || !(barOpen s fn) then s
  else if off < 0xC000 then
    (if off % 8 < 4 then ringDoorbell { fn := fn, kind := .send, index := off / 8 } s else s)
  else layoutWrite fn off v s

/-- REGISTER_WRITE: a write of a 32-bit value at an offset of a function's BAR. -/
def execRegisterWrite (fn offset : Nat) (value : W32) (s : State) : Host.Outcome State Fault Refusal :=
  .next (
    if !s.board.supply then s
    else if fn = 0 then pfBarWrite offset value s
    else vfBarWrite fn offset value s)

end Sys2Proof.Machine
end

