-- ==== Sys2Proof/Machine/Dispatch.lean ====
section
/-! DEFINITION. The dispatch: one arm per command, in the order of spec/opcode_table.json. -/

namespace Sys2Proof.Machine

open Sys2Proof

/-- The effect of a command on everything but the queue. -/
def exec (i : Instr) (s : State) : Host.Outcome State Fault Refusal :=
  match i with
  | .doorbell q => Sys2Proof.Machine.execDoorbell q s
  | .rescanTimerExpiry q => Sys2Proof.Machine.execRescanTimerExpiry q s
  | .tornLimitExceeded q => Sys2Proof.Machine.execTornLimitExceeded q s
  | .write q e => Sys2Proof.Machine.execWrite q e s
  | .writeSignal q e => Sys2Proof.Machine.execWriteSignal q e s
  | .read q e => Sys2Proof.Machine.execRead q e s
  | .fetchAdd q e => Sys2Proof.Machine.execFetchAdd q e s
  | .compareSwap q e => Sys2Proof.Machine.execCompareSwap q e s
  | .send q e => Sys2Proof.Machine.execSend q e s
  | .multicastWrite q e => Sys2Proof.Machine.execMulticastWrite q e s
  | .waitCount q e => Sys2Proof.Machine.execWaitCount q e s
  | .fence q e => Sys2Proof.Machine.execFence q e s
  | .localCopy q e => Sys2Proof.Machine.execLocalCopy q e s
  | .collective q e => Sys2Proof.Machine.execCollective q e s
  | .launch q e => Sys2Proof.Machine.execLaunch q e s
  | .signalOnly q e => Sys2Proof.Machine.execSignalOnly q e s
  | .waitCountRelease q => Sys2Proof.Machine.execWaitCountRelease q s
  | .fenceRelease q => Sys2Proof.Machine.execFenceRelease q s
  | .headHoldRelease q => Sys2Proof.Machine.execHeadHoldRelease q s
  | .cqHeadWrite fn ring value => Sys2Proof.Machine.execCqHeadWrite fn ring value s
  | .eqHeadWrite fn value => Sys2Proof.Machine.execEqHeadWrite fn value s
  | .queueEnable fn value => Sys2Proof.Machine.execQueueEnable fn value s
  | .queueDisable fn value => Sys2Proof.Machine.execQueueDisable fn value s
  | .cntValueRead fn => Sys2Proof.Machine.execCntValueRead fn s
  | .registerWrite fn offset value => Sys2Proof.Machine.execRegisterWrite fn offset value s
  | .regionRegister q e => Sys2Proof.Machine.execRegionRegister q e s
  | .regionDeregister q e => Sys2Proof.Machine.execRegionDeregister q e s
  | .windowOpen q e => Sys2Proof.Machine.execWindowOpen q e s
  | .windowRevoke q e => Sys2Proof.Machine.execWindowRevoke q e s
  | .keyDrainEnd index => Sys2Proof.Machine.execKeyDrainEnd index s
  | .settle q e => Sys2Proof.Machine.execSettle q e s
  | .settleComplete q idx => Sys2Proof.Machine.execSettleComplete q idx s
  | .recvReturn fn value => Sys2Proof.Machine.execRecvReturn fn value s
  | .dataReceive rx p => Sys2Proof.Machine.execDataReceive rx p s
  | .readRequestReceive rx p => Sys2Proof.Machine.execReadRequestReceive rx p s
  | .readResponseReceive rx p => Sys2Proof.Machine.execReadResponseReceive rx p s
  | .atomicReceive rx p => Sys2Proof.Machine.execAtomicReceive rx p s
  | .atomicResponseReceive rx p => Sys2Proof.Machine.execAtomicResponseReceive rx p s
  | .abortReceive rx p => Sys2Proof.Machine.execAbortReceive rx p s
  | .ackReceive rx p => Sys2Proof.Machine.execAckReceive rx p s
  | .nackReceive rx p => Sys2Proof.Machine.execNackReceive rx p s
  | .rnrReceive rx p => Sys2Proof.Machine.execRnrReceive rx p s
  | .openingReceive rx p => Sys2Proof.Machine.execOpeningReceive rx p s
  | .writtenNotice peer seq => Sys2Proof.Machine.execWrittenNotice peer seq s
  | .packetWriteDone peer seq => Sys2Proof.Machine.execPacketWriteDone peer seq s
  | .ackDelayExpiry peer => Sys2Proof.Machine.execAckDelayExpiry peer s
  | .packetTransmit peer draw => Sys2Proof.Machine.execPacketTransmit peer draw s
  | .retransmitTimeout peer seq => Sys2Proof.Machine.execRetransmitTimeout peer seq s
  | .rnrBackoffExpiry peer => Sys2Proof.Machine.execRnrBackoffExpiry peer s
  | .giveUpExpiry peer seq => Sys2Proof.Machine.execGiveUpExpiry peer seq s
  | .responseGiveUp peer msgId => Sys2Proof.Machine.execResponseGiveUp peer msgId s
  | .openingGiveUp peer => Sys2Proof.Machine.execOpeningGiveUp peer s
  | .abortGiveUp peer seq => Sys2Proof.Machine.execAbortGiveUp peer seq s
  | .contextFetchComplete ks peer qp result => Sys2Proof.Machine.execContextFetchComplete ks peer qp result s
  | .bankerWaitExpiry ks peer seq => Sys2Proof.Machine.execBankerWaitExpiry ks peer seq s
  | .tallyContextAvailable q idx => Sys2Proof.Machine.execTallyContextAvailable q idx s
  | .contextPeriodicTouch peer => Sys2Proof.Machine.execContextPeriodicTouch peer s
  | .pacingTouch peer => Sys2Proof.Machine.execPacingTouch peer s
  | .shaperTick => Sys2Proof.Machine.execShaperTick s
  | .telemetrySample fn => Sys2Proof.Machine.execTelemetrySample fn s
  | .telemetryEnable fn value => Sys2Proof.Machine.execTelemetryEnable fn value s
  | .bondFrameReceive link f way => Sys2Proof.Machine.execBondFrameReceive link f way s
  | .bondFrameSend link vc => Sys2Proof.Machine.execBondFrameSend link vc s
  | .idleFlitSend link => Sys2Proof.Machine.execIdleFlitSend link s
  | .idleFlitReceive link bytes => Sys2Proof.Machine.execIdleFlitReceive link bytes s
  | .bondIdleTimeout link => Sys2Proof.Machine.execBondIdleTimeout link s
  | .bondFecErrorLimit loss => Sys2Proof.Machine.execBondFecErrorLimit loss s
  | .bondLinkTrained link => Sys2Proof.Machine.execBondLinkTrained link s
  | .bondGoingDownExpiry link => Sys2Proof.Machine.execBondGoingDownExpiry link s
  | .bondEnableWrite link value => Sys2Proof.Machine.execBondEnableWrite link value s
  | .announcementReceive link bytes => Sys2Proof.Machine.execAnnouncementReceive link bytes s
  | .announcePeriodic => Sys2Proof.Machine.execAnnouncePeriodic s
  | .announcementStale peer => Sys2Proof.Machine.execAnnouncementStale peer s
  | .circuitLay q e => Sys2Proof.Machine.execCircuitLay q e s
  | .circuitControlReceive link c => Sys2Proof.Machine.execCircuitControlReceive link c s
  | .circuitLayAnswer link c => Sys2Proof.Machine.execCircuitLayAnswer link c s
  | .circuitLift q e => Sys2Proof.Machine.execCircuitLift q e s
  | .circuitLiftAnswer link c => Sys2Proof.Machine.execCircuitLiftAnswer link c s
  | .fenceModule q e => Sys2Proof.Machine.execFenceModule q e s
  | .unfenceModule q e => Sys2Proof.Machine.execUnfenceModule q e s
  | .lineContextReopen axis => Sys2Proof.Machine.execLineContextReopen axis s
  | .deadlockWindowExpiry launch => Sys2Proof.Machine.execDeadlockWindowExpiry launch s
  | .waitSatisfied core => Sys2Proof.Machine.execWaitSatisfied core s
  | .groupCreate q e => Sys2Proof.Machine.execGroupCreate q e s
  | .groupDestroy q e => Sys2Proof.Machine.execGroupDestroy q e s
  | .treeDataReceive link p => Sys2Proof.Machine.execTreeDataReceive link p s
  | .upAck link p => Sys2Proof.Machine.execUpAck link p s
  | .downAck link p => Sys2Proof.Machine.execDownAck link p s
  | .treeAbort link p => Sys2Proof.Machine.execTreeAbort link p s
  | .fallback link p => Sys2Proof.Machine.execFallback link p s
  | .controlAck link p => Sys2Proof.Machine.execControlAck link p s
  | .busy link p => Sys2Proof.Machine.execBusy link p s
  | .treeHopTimeout group inst member chunk down => Sys2Proof.Machine.execTreeHopTimeout group inst member chunk down s
  | .fallbackRingReceive rx p => Sys2Proof.Machine.execFallbackRingReceive rx p s
  | .tieReceive link p => Sys2Proof.Machine.execTieReceive link p s
  | .tieTimeout group inst => Sys2Proof.Machine.execTieTimeout group inst s
  | .collGiveUp group inst => Sys2Proof.Machine.execCollGiveUp group inst s
  | .cmd1Write core cmd0 cmd1 => Sys2Proof.Machine.execCmd1Write core cmd0 cmd1 s
  | .loadw core => Sys2Proof.Machine.execLoadw core s
  | .stream core => Sys2Proof.Machine.execStream core s
  | .acc core => Sys2Proof.Machine.execAcc core s
  | .epilogue core => Sys2Proof.Machine.execEpilogue core s
  | .move core => Sys2Proof.Machine.execMove core s
  | .doorwaySend core => Sys2Proof.Machine.execDoorwaySend core s
  | .wait core => Sys2Proof.Machine.execWait core s
  | .signal core => Sys2Proof.Machine.execSignal core s
  | .phase core => Sys2Proof.Machine.execPhase core s
  | .tileCommandFinish core unit => Sys2Proof.Machine.execTileCommandFinish core unit s
  | .coreTrap core cause addr => Sys2Proof.Machine.execCoreTrap core cause addr s
  | .ecall core a7 a0 pc => Sys2Proof.Machine.execEcall core a7 a0 pc s
  | .launchComplete launch => Sys2Proof.Machine.execLaunchComplete launch s
  | .bankPwrWrite core value => Sys2Proof.Machine.execBankPwrWrite core value s
  | .bankStateChange core bank => Sys2Proof.Machine.execBankStateChange core bank s
  | .bankWakeComplete core bank => Sys2Proof.Machine.execBankWakeComplete core bank s
  | .bankStarvation core bank mover waited => Sys2Proof.Machine.execBankStarvation core bank mover waited s
  | .corePcRead fn => Sys2Proof.Machine.execCorePcRead fn s
  | .segmentEnable fn value => Sys2Proof.Machine.execSegmentEnable fn value s
  | .segmentDisable fn value => Sys2Proof.Machine.execSegmentDisable fn value s
  | .segmentDisableEnd fn seg => Sys2Proof.Machine.execSegmentDisableEnd fn seg s
  | .segmentFlush fn value => Sys2Proof.Machine.execSegmentFlush fn value s
  | .segmentFlushEnd fn seg => Sys2Proof.Machine.execSegmentFlushEnd fn seg s
  | .walkerReadComplete ks walker result => Sys2Proof.Machine.execWalkerReadComplete ks walker result s
  | .migrationStart ks record => Sys2Proof.Machine.execMigrationStart ks record s
  | .migrationWritebackComplete ks record result => Sys2Proof.Machine.execMigrationWritebackComplete ks record result s
  | .migrationReadComplete ks record poisoned => Sys2Proof.Machine.execMigrationReadComplete ks record poisoned s
  | .stampReport => Sys2Proof.Machine.execStampReport s
  | .residencyStampPass => Sys2Proof.Machine.execResidencyStampPass s
  | .streamBindingEnable fn value => Sys2Proof.Machine.execStreamBindingEnable fn value s
  | .streamBindingDisable fn value => Sys2Proof.Machine.execStreamBindingDisable fn value s
  | .streamWatchdogTick => Sys2Proof.Machine.execStreamWatchdogTick s
  | .cutRuleEnable value => Sys2Proof.Machine.execCutRuleEnable value s
  | .cutRuleDisable value => Sys2Proof.Machine.execCutRuleDisable value s
  | .pd23PowerOn => Sys2Proof.Machine.execPd23PowerOn s
  | .cutterIncrement rule slot => Sys2Proof.Machine.execCutterIncrement rule slot s
  | .stampReadComplete rule => Sys2Proof.Machine.execStampReadComplete rule s
  | .answerTimeout rule slot => Sys2Proof.Machine.execAnswerTimeout rule slot s
  | .ethFrameReceive port f => Sys2Proof.Machine.execEthFrameReceive port f s
  | .ethFrameTransmit port => Sys2Proof.Machine.execEthFrameTransmit port s
  | .ethTxComplete port => Sys2Proof.Machine.execEthTxComplete port s
  | .ethTxrDoorbell port => Sys2Proof.Machine.execEthTxrDoorbell port s
  | .ethRingEnable port tx value => Sys2Proof.Machine.execEthRingEnable port tx value s
  | .ethRxrHeadWrite port value => Sys2Proof.Machine.execEthRxrHeadWrite port value s
  | .ethStatRead port => Sys2Proof.Machine.execEthStatRead port s
  | .pauseFrameReceive port pfc classMask quanta => Sys2Proof.Machine.execPauseFrameReceive port pfc classMask quanta s
  | .pauseTimerExpiry port cls => Sys2Proof.Machine.execPauseTimerExpiry port cls s
  | .xoffRepeat port prio => Sys2Proof.Machine.execXoffRepeat port prio s
  | .ethLinkUp port => Sys2Proof.Machine.execEthLinkUp port s
  | .ethLinkDown port => Sys2Proof.Machine.execEthLinkDown port s
  | .ethEnableWrite port value => Sys2Proof.Machine.execEthEnableWrite port value s
  | .verifyTimeout port => Sys2Proof.Machine.execVerifyTimeout port s
  | .verifyResponseReceive port => Sys2Proof.Machine.execVerifyResponseReceive port s
  | .hostDataLinkDown => Sys2Proof.Machine.execHostDataLinkDown s
  | .hostDataLinkUp x16 gt64 => Sys2Proof.Machine.execHostDataLinkUp x16 gt64 s
  | .perstAssert => Sys2Proof.Machine.execPerstAssert s
  | .perstDeassert => Sys2Proof.Machine.execPerstDeassert s
  | .hostAttachResume => Sys2Proof.Machine.execHostAttachResume s
  | .hostAttachFresh => Sys2Proof.Machine.execHostAttachFresh s
  | .cxlCompletionTimeout a => Sys2Proof.Machine.execCxlCompletionTimeout a s
  | .snoopReceive line => Sys2Proof.Machine.execSnoopReceive line s
  | .vfFlr fn => Sys2Proof.Machine.execVfFlr fn s
  | .pfFlr => Sys2Proof.Machine.execPfFlr s
  | .flrDrainEnd fn => Sys2Proof.Machine.execFlrDrainEnd fn s
  | .exchangeWindowEnable value => Sys2Proof.Machine.execExchangeWindowEnable value s
  | .doeRequest objType payload => Sys2Proof.Machine.execDoeRequest objType payload s
  | .doeAbort => Sys2Proof.Machine.execDoeAbort s
  | .getVersion => Sys2Proof.Machine.execGetVersion s
  | .getCapabilities => Sys2Proof.Machine.execGetCapabilities s
  | .negotiateAlgorithms algs => Sys2Proof.Machine.execNegotiateAlgorithms algs s
  | .getDigests => Sys2Proof.Machine.execGetDigests s
  | .getCertificate slot offset length => Sys2Proof.Machine.execGetCertificate slot offset length s
  | .challenge slot nonce => Sys2Proof.Machine.execChallenge slot nonce s
  | .getMeasurements index signed nonce => Sys2Proof.Machine.execGetMeasurements index signed nonce s
  | .keyExchange peerKey => Sys2Proof.Machine.execKeyExchange peerKey s
  | .finish mac => Sys2Proof.Machine.execFinish mac s
  | .endSession => Sys2Proof.Machine.execEndSession s
  | .vdevCreate q e => Sys2Proof.Machine.execVdevCreate q e s
  | .vdevDestroy q e => Sys2Proof.Machine.execVdevDestroy q e s
  | .vdevFreeze q e => Sys2Proof.Machine.execVdevFreeze q e s
  | .vdevFreezeDrainEnd vdev => Sys2Proof.Machine.execVdevFreezeDrainEnd vdev s
  | .vdevSave q e => Sys2Proof.Machine.execVdevSave q e s
  | .vdevSaveComplete vdev => Sys2Proof.Machine.execVdevSaveComplete vdev s
  | .vdevRestore q e => Sys2Proof.Machine.execVdevRestore q e s
  | .vdevRestoreComplete vdev => Sys2Proof.Machine.execVdevRestoreComplete vdev s
  | .vdevReset q e => Sys2Proof.Machine.execVdevReset q e s
  | .vdevDrainEnd vdev => Sys2Proof.Machine.execVdevDrainEnd vdev s
  | .clusterReturn cluster => Sys2Proof.Machine.execClusterReturn cluster s
  | .keyInstallTransmit fn index => Sys2Proof.Machine.execKeyInstallTransmit fn index s
  | .keyInstallReceive fn index => Sys2Proof.Machine.execKeyInstallReceive fn index s
  | .keyRemoveTransmit fn index => Sys2Proof.Machine.execKeyRemoveTransmit fn index s
  | .keyRemoveReceive fn index => Sys2Proof.Machine.execKeyRemoveReceive fn index s
  | .keyCommandEnd => Sys2Proof.Machine.execKeyCommandEnd s
  | .alarm bit => Sys2Proof.Machine.execAlarm bit s
  | .secureWipeEnd => Sys2Proof.Machine.execSecureWipeEnd s
  | .lockRead => Sys2Proof.Machine.execLockRead s
  | .lockRelease token => Sys2Proof.Machine.execLockRelease token s
  | .lockTimeout => Sys2Proof.Machine.execLockTimeout s
  | .drbgReseed => Sys2Proof.Machine.execDrbgReseed s
  | .lcRequest h blob => Sys2Proof.Machine.execLcRequest h blob s
  | .ownerKekImport h blob => Sys2Proof.Machine.execOwnerKekImport h blob s
  | .controlPeriod => Sys2Proof.Machine.execControlPeriod s
  | .opChangeComplete die => Sys2Proof.Machine.execOpChangeComplete die s
  | .probeIntervalExpiry die => Sys2Proof.Machine.execProbeIntervalExpiry die s
  | .droopDetect cluster => Sys2Proof.Machine.execDroopDetect cluster s
  | .attributionRecord => Sys2Proof.Machine.execAttributionRecord s
  | .meterSample watts => Sys2Proof.Machine.execMeterSample watts s
  | .disagreeHoldExpiry => Sys2Proof.Machine.execDisagreeHoldExpiry s
  | .refitComplete => Sys2Proof.Machine.execRefitComplete s
  | .fallbackClear => Sys2Proof.Machine.execFallbackClear s
  | .thermalCeilingStep unit tj => Sys2Proof.Machine.execThermalCeilingStep unit tj s
  | .thermtrip unit => Sys2Proof.Machine.execThermtrip unit s
  | .idleStateEntry u => Sys2Proof.Machine.execIdleStateEntry u s
  | .unitWakeComplete u => Sys2Proof.Machine.execUnitWakeComplete u s
  | .waiborRead h index sub => Sys2Proof.Machine.execWaiborRead h index sub s
  | .waiborWrite h index sub vtype value => Sys2Proof.Machine.execWaiborWrite h index sub vtype value s
  | .waiborReadSeg h index sub offset => Sys2Proof.Machine.execWaiborReadSeg h index sub offset s
  | .waiborWriteSegInit h index sub total => Sys2Proof.Machine.execWaiborWriteSegInit h index sub total s
  | .waiborWriteSeg h index sub last offset data => Sys2Proof.Machine.execWaiborWriteSeg h index sub last offset data s
  | .sessionOpen h fieldKey => Sys2Proof.Machine.execSessionOpen h fieldKey s
  | .sessionAuth h mode keyIndex proof => Sys2Proof.Machine.execSessionAuth h mode keyIndex proof s
  | .sessionClose h => Sys2Proof.Machine.execSessionClose h s
  | .sessionAuthTimeout => Sys2Proof.Machine.execSessionAuthTimeout s
  | .sessionIdleExpiry => Sys2Proof.Machine.execSessionIdleExpiry s
  | .segmentStagingExpiry src => Sys2Proof.Machine.execSegmentStagingExpiry src s
  | .ledgerCommitComplete ok => Sys2Proof.Machine.execLedgerCommitComplete ok s
  | .moduleResetWrite h => Sys2Proof.Machine.execModuleResetWrite h s
  | .faultLogClear h => Sys2Proof.Machine.execFaultLogClear h s
  | .heartbeat => Sys2Proof.Machine.execHeartbeat s
  | .emergencyRepeat => Sys2Proof.Machine.execEmergencyRepeat s
  | .fieldFrameReceive f => Sys2Proof.Machine.execFieldFrameReceive f s
  | .powerOnReset => Sys2Proof.Machine.execPowerOnReset s
  | .moduleReset cause => Sys2Proof.Machine.execModuleReset cause s
  | .startupStepComplete o => Sys2Proof.Machine.execStartupStepComplete o s
  | .positionWaitExpiry => Sys2Proof.Machine.execPositionWaitExpiry s
  | .watchdogExpiry => Sys2Proof.Machine.execWatchdogExpiry s
  | .firmwareRestartEnd => Sys2Proof.Machine.execFirmwareRestartEnd s
  | .fatalAutoResetExpiry => Sys2Proof.Machine.execFatalAutoResetExpiry s
  | .d2dCrcFailure link => Sys2Proof.Machine.execD2dCrcFailure link s
  | .d2dFailureTimeout link => Sys2Proof.Machine.execD2dFailureTimeout link s
  | .patrolScrub t r => Sys2Proof.Machine.execPatrolScrub t r s
  | .rfmRefresh row => Sys2Proof.Machine.execRfmRefresh row s
  | .sensorCalibration sensor => Sys2Proof.Machine.execSensorCalibration sensor s
  | .tallyWritebackPass ks => Sys2Proof.Machine.execTallyWritebackPass ks s
  | .undervoltageDip => Sys2Proof.Machine.execUndervoltageDip s
  | .undervoltageDeclared => Sys2Proof.Machine.execUndervoltageDeclared s
  | .supplyRestore => Sys2Proof.Machine.execSupplyRestore s
  | .refclkLoss c => Sys2Proof.Machine.execRefclkLoss c s
  | .segmentZeroingEnd fn seg => Sys2Proof.Machine.execSegmentZeroingEnd fn seg s
  | .contextWaitGiveUp q idx => Sys2Proof.Machine.execContextWaitGiveUp q idx s
  | .droopStretchEnd cluster ns => Sys2Proof.Machine.execDroopStretchEnd cluster ns s
  | .undervoltageDipEnd => Sys2Proof.Machine.execUndervoltageDipEnd s
  | .fieldPwrLoss => Sys2Proof.Machine.execFieldPwrLoss s
  | .fieldPwrRestore => Sys2Proof.Machine.execFieldPwrRestore s
  | .refclkRestore c => Sys2Proof.Machine.execRefclkRestore c s

end Sys2Proof.Machine
end

