-- ==== Sys2Proof/Machine/Rv.lean ====
section
/-! DEFINITION. The control unit: RV64IMAC in machine mode, over the address map of R250. The manual names the instruction
set and gives its map; the instructions themselves are those of the RISC-V unprivileged specification (PRESUMED, assumption
65). One instruction of each running core is executed for each nanosecond that an empty command queue lets pass. -/

namespace Sys2Proof.Machine

open Sys2Proof

/-! ## Memory through the map of R250 -/

/-- What an access through the map meets. -/
inductive RvPlace where
  /-- A byte memory. -/
  | mem (m : MemId) (a : Nat)
  /-- The own scratchpad, in a bank that is not on. -/
  | asleep (off : Nat)
  /-- The control block and the route table, at an offset from 0x3000_0000. -/
  | ctl (off : Nat)
  | outside
deriving DecidableEq, Repr

/-- Where an access of `n` bytes at `a` goes; a misaligned one goes nowhere. -/
def rvPlace (s : State) (core a n : Nat) : RvPlace :=
  if a % n ≠ 0 then .outside
  else if a < 0x10000 then .mem .istore (istoreBase core + a)
  else if 0x10000000 ≤ a ∧ a < 0x10400000 then
    (if rangeOn s core (a - 0x10000000) n then .mem .scratch (scratchBase core + (a - 0x10000000)) else .asleep (a - 0x10000000))
  else if 0x20000000 ≤ a ∧ a < 0x22000000 then .mem .cluster (clusterBase (coreCluster core) + (a - 0x20000000))
  else
    let o := a - 0x30000000
    if 0x30000000 ≤ a ∧ (o < 0x18 ∨ (0x100 ≤ o ∧ o < 0x180) ∨ (0x200 ≤ o ∧ o < 0x218) ∨ (0x1000 ≤ o ∧ o < 0x1800)) then .ctl o
    else .outside

/-- The 8-byte register that holds an offset of the control block; WO registers read 0. -/
def ctlReg (s : State) (core o : Nat) : Nat :=
  let k := coreOf s core
  if o < 0x10 then 0
  else if o < 0x18 then mkN (32 - k.cmdq.length) k.door.length
  else if o < 0x180 then
    let i := (o - 0x100) / 8 * 4
    tget 0 k.sems i + tget 0 k.sems (i + 1) * 2 ^ 16 + tget 0 k.sems (i + 2) * 2 ^ 32 + tget 0 k.sems (i + 3) * 2 ^ 48
  else if o < 0x208 then
    (match launchOf s core with
     | some l => core + (core - l.first) * 2 ^ 16 + l.count * 2 ^ 32
     | none => core)
  else if o < 0x210 then s.now % 2 ^ 64
  else k.bankReq.toNat
where
  /-- `CMDQ`: free slots and doorway messages outstanding. -/
  mkN (free door : Nat) : Nat := free + door * 2 ^ 8

/-- `n` little-endian bytes of the control block or the route table. -/
def ctlRead (s : State) (core o n : Nat) : Nat :=
  if 0x1000 ≤ o then leNat (mreadN (coreOf s core).routes (o - 0x1000) n)
  else fieldOf (ctlReg s core o) (8 * (o % 8)) (8 * n)

/-- A register's 8 bytes with `n` of them replaced. -/
def mergeAt (old : Nat) (o n v : Nat) : Nat :=
  old - fieldOf old (8 * (o % 8)) (8 * n) * 2 ^ (8 * (o % 8)) + v % 2 ^ (8 * n) * 2 ^ (8 * (o % 8))

/-- A store to the control block: the RO registers ignore it (R13). A store narrower than 8 B replaces its bytes of CMD0 and
BANK_PWR, and issues a command whose other high bytes are 0 at CMD1 (DESIGN CHOICE, assumption 65). -/
def ctlWrite (core o n v : Nat) (s : State) : State :=
  let k := coreOf s core
  if o < 8 then modCore core (fun k => { k with cmd0 := BitVec.ofNat 64 (mergeAt k.cmd0.toNat o n v) }) s
  else if o < 0x10 then issueCmd core k.cmd0 (BitVec.ofNat 64 (mergeAt 0 o n v)) s
  else if 0x1000 ≤ o then modCore core (fun k => { k with routes := mwriteN k.routes (o - 0x1000) (leBytes n v) }) s
  else if 0x210 ≤ o then bankPwrWrite core (BitVec.ofNat 32 (mergeAt k.bankReq.toNat o n v)) s
  else s

/-- A load's outcome: a value, or the state in which the core traps or holds. -/
inductive RvLoad where
  | value (v : Nat)
  | stop (s : State)

/-- A load of `n` bytes. -/
def rvLoad (core a n : Nat) (s : State) : RvLoad :=
  match rvPlace s core a n with
  | .outside => .stop (trapCore core 2 stLocalAccess a s)
  | .asleep o => .stop (wakeRange core o n s)
  | .ctl o => .value (ctlRead s core o n)
  | .mem m x =>
    match badIn m x n s with
    | some y => .stop (loadTrap core (a + (y - x)) s)
    | none => .value (leNat (memRead m x n s))

/-- A store of `n` bytes; `done` is what follows it. -/
def rvStore (core a n v : Nat) (done : State → State) (s : State) : State :=
  match rvPlace s core a n with
  | .outside => trapCore core 2 stLocalAccess a s
  | .asleep o => wakeRange core o n s
  | .ctl o => done (ctlWrite core o n v s)
  | .mem m x => if m = .istore then trapCore core 2 stLocalAccess a s else done (memWrite m x (leBytes n v) s)

/-! ## Registers and immediates -/

def rvReg (k : Core) (r : Nat) : W64 := if r = 0 then 0 else tget 0 k.regs r
/-- Write a register and the program counter; x0 discards. -/
def rvSet (core rd : Nat) (v pc : W64) (s : State) : State :=
  modCore core (fun k => { k with pc := pc, regs := if rd = 0 then k.regs else tset k.regs rd v }) s

def immI (i : Nat) : W64 := (BitVec.ofNat 12 (i / 2 ^ 20)).signExtend 64
def immS (i : Nat) : W64 := (BitVec.ofNat 12 (fieldOf i 25 7 * 32 + fieldOf i 7 5)).signExtend 64
def immB (i : Nat) : W64 :=
  (BitVec.ofNat 13 (fieldOf i 31 1 * 2 ^ 12 + fieldOf i 7 1 * 2 ^ 11 + fieldOf i 25 6 * 2 ^ 5 + fieldOf i 8 4 * 2)).signExtend 64
def immU (i : Nat) : W64 := (BitVec.ofNat 32 (i / 2 ^ 12 * 2 ^ 12)).signExtend 64
def immJ (i : Nat) : W64 :=
  (BitVec.ofNat 21 (fieldOf i 31 1 * 2 ^ 20 + fieldOf i 12 8 * 2 ^ 12 + fieldOf i 20 1 * 2 ^ 11 + fieldOf i 21 10 * 2)).signExtend 64

/-! ## Arithmetic -/

/-- Sign-extend the low `n` bytes. -/
def sextBytes (n v : Nat) : W64 := (BitVec.ofNat (8 * n) v).signExtend 64
def word (a : W64) : W32 := a.setWidth 32
def sextW (a : W32) : W64 := a.signExtend 64
def bool64 (b : Bool) : W64 := if b then 1 else 0

def divS {w : Nat} (a b : BitVec w) : BitVec w := if b = 0 then BitVec.allOnes w else a.sdiv b
def divU {w : Nat} (a b : BitVec w) : BitVec w := if b = 0 then BitVec.allOnes w else a / b
def remS {w : Nat} (a b : BitVec w) : BitVec w := if b = 0 then a else a.srem b
def remU {w : Nat} (a b : BitVec w) : BitVec w := if b = 0 then a else a % b
/-- The high half of a product. -/
def mulHigh (a b : BitVec 128) : W64 := ((a * b) >>> 64).setWidth 64

/-- OP, and OP-IMM with the immediate for `b`: `alt` is SUB or SRA. -/
def rvAlu (f3 : Nat) (alt : Bool) (a b : W64) : W64 :=
  let n := b.toNat % 64
  match f3 with
  | 0 => if alt then a - b else a + b
  | 1 => a <<< n
  | 2 => bool64 (a.slt b)
  | 3 => bool64 (a.ult b)
  | 4 => a ^^^ b
  | 5 => if alt then a.sshiftRight n else a >>> n
  | 6 => a ||| b
  | _ => a &&& b

/-- The M operations. -/
def rvMul (f3 : Nat) (a b : W64) : W64 :=
  match f3 with
  | 0 => a * b
  | 1 => mulHigh (a.signExtend 128) (b.signExtend 128)
  | 2 => mulHigh (a.signExtend 128) (b.setWidth 128)
  | 3 => mulHigh (a.setWidth 128) (b.setWidth 128)
  | 4 => divS a b
  | 5 => divU a b
  | 6 => remS a b
  | _ => remU a b

/-- The 32-bit operations, none for a function they do not have. -/
def rvAluW (f3 : Nat) (alt : Bool) (a b : W64) : Option W64 :=
  let x := word a
  let n := b.toNat % 32
  match f3 with
  | 0 => some (sextW (if alt then x - word b else x + word b))
  | 1 => if alt then none else some (sextW (x <<< n))
  | 5 => some (sextW (if alt then x.sshiftRight n else x >>> n))
  | _ => none

def rvMulW (f3 : Nat) (a b : W64) : Option W64 :=
  let x := word a
  let y := word b
  match f3 with
  | 0 => some (sextW (x * y))
  | 4 => some (sextW (divS x y))
  | 5 => some (sextW (divU x y))
  | 6 => some (sextW (remS x y))
  | 7 => some (sextW (remU x y))
  | _ => none

/-- OP and OP-32 by `funct7`. -/
def rvOp (w : Bool) (f3 f7 : Nat) (a b : W64) : Option W64 :=
  if f7 = 1 then (if w then rvMulW f3 a b else some (rvMul f3 a b))
  else if f7 = 0 then (if w then rvAluW f3 false a b else some (rvAlu f3 false a b))
  else if f7 = 32 ∧ (f3 = 0 ∨ f3 = 5) then (if w then rvAluW f3 true a b else some (rvAlu f3 true a b))
  else none

/-- OP-IMM and OP-IMM-32; shifts have `shamt` where the immediate stands. -/
def rvOpImm (w : Bool) (f3 : Nat) (i : Nat) (a : W64) : Option W64 :=
  let hi := if w then fieldOf i 25 7 * 2 else fieldOf i 26 6 * 4
  let sh := BitVec.ofNat 64 (fieldOf i 20 6)
  if f3 = 1 ∨ f3 = 5 then
    (if hi = 0 then (if w then rvAluW f3 false a sh else some (rvAlu f3 false a sh))
     else if hi = 64 ∧ f3 = 5 then (if w then rvAluW f3 true a sh else some (rvAlu f3 true a sh))
     else none)
  else if w then (if f3 = 0 then rvAluW 0 false a (immI i) else none)
  else some (rvAlu f3 false a (immI i))

/-- A branch's condition, none for a function that no branch has. -/
def rvTaken (f3 : Nat) (a b : W64) : Option Bool :=
  match f3 with
  | 0 => some (a == b)
  | 1 => some (a != b)
  | 4 => some (a.slt b)
  | 5 => some (!(a.slt b))
  | 6 => some (a.ult b)
  | 7 => some (!(a.ult b))
  | _ => none

/-- What an AMO stores, in its width. -/
def rvAmo {w : Nat} (f5 : Nat) (old b : BitVec w) : Option (BitVec w) :=
  match f5 with
  | 0x00 => some (old + b)
  | 0x01 => some b
  | 0x04 => some (old ^^^ b)
  | 0x08 => some (old ||| b)
  | 0x0C => some (old &&& b)
  | 0x10 => some (if old.slt b then old else b)
  | 0x14 => some (if old.slt b then b else old)
  | 0x18 => some (if old.ult b then old else b)
  | 0x1C => some (if old.ult b then b else old)
  | _ => none

/-! ## The C extension, as the instructions it stands for -/

def encI (op f3 rd rs1 imm : Nat) : Nat := op + rd * 2 ^ 7 + f3 * 2 ^ 12 + rs1 * 2 ^ 15 + imm % 4096 * 2 ^ 20
def encR (op f3 f7 rd rs1 rs2 : Nat) : Nat := op + rd * 2 ^ 7 + f3 * 2 ^ 12 + rs1 * 2 ^ 15 + rs2 * 2 ^ 20 + f7 * 2 ^ 25
def encS (f3 rs1 rs2 imm : Nat) : Nat :=
  0x23 + fieldOf imm 0 5 * 2 ^ 7 + f3 * 2 ^ 12 + rs1 * 2 ^ 15 + rs2 * 2 ^ 20 + fieldOf imm 5 7 * 2 ^ 25
def encB (f3 rs1 imm : Nat) : Nat :=
  0x63 + fieldOf imm 11 1 * 2 ^ 7 + fieldOf imm 1 4 * 2 ^ 8 + f3 * 2 ^ 12 + rs1 * 2 ^ 15 + fieldOf imm 5 6 * 2 ^ 25 + fieldOf imm 12 1 * 2 ^ 31
def encJ (rd imm : Nat) : Nat :=
  0x6F + rd * 2 ^ 7 + fieldOf imm 12 8 * 2 ^ 12 + fieldOf imm 11 1 * 2 ^ 20 + fieldOf imm 1 10 * 2 ^ 21 + fieldOf imm 20 1 * 2 ^ 31

/-- Sign-extend `v` from `w` bits to `t` bits, as naturals. -/
def sextTo (w t v : Nat) : Nat := if v < 2 ^ (w - 1) then v else v + 2 ^ t - 2 ^ w

/-- The 6-bit immediate of CI. -/
def cImm6 (c : Nat) : Nat := fieldOf c 12 1 * 32 + fieldOf c 2 5

/-- Quadrant 0. -/
def expand0 (c : Nat) : Option Nat :=
  let rd := fieldOf c 2 3 + 8
  let rs := fieldOf c 7 3 + 8
  let w := fieldOf c 10 3 * 8 + fieldOf c 6 1 * 4 + fieldOf c 5 1 * 64
  let d := fieldOf c 10 3 * 8 + fieldOf c 5 2 * 64
  match fieldOf c 13 3 with
  | 0 =>
    let n := fieldOf c 11 2 * 16 + fieldOf c 7 4 * 64 + fieldOf c 6 1 * 4 + fieldOf c 5 1 * 8
    if n = 0 then none else some (encI 0x13 0 rd 2 n)
  | 2 => some (encI 0x03 2 rd rs w)
  | 3 => some (encI 0x03 3 rd rs d)
  | 6 => some (encS 2 rs rd w)
  | 7 => some (encS 3 rs rd d)
  | _ => none

/-- The register operations of quadrant 1, function 4. -/
def expandAlu (c : Nat) : Option Nat :=
  let rd := fieldOf c 7 3 + 8
  let rs := fieldOf c 2 3 + 8
  match fieldOf c 10 2 with
  | 0 => some (encI 0x13 5 rd rd (cImm6 c))
  | 1 => some (encI 0x13 5 rd rd (cImm6 c + 1024))
  | 2 => some (encI 0x13 7 rd rd (sextTo 6 12 (cImm6 c)))
  | _ =>
    match fieldOf c 12 1 * 4 + fieldOf c 5 2 with
    | 0 => some (encR 0x33 0 32 rd rd rs)
    | 1 => some (encR 0x33 4 0 rd rd rs)
    | 2 => some (encR 0x33 6 0 rd rd rs)
    | 3 => some (encR 0x33 7 0 rd rd rs)
    | 4 => some (encR 0x3B 0 32 rd rd rs)
    | 5 => some (encR 0x3B 0 0 rd rd rs)
    | _ => none

/-- Quadrant 1. -/
def expand1 (c : Nat) : Option Nat :=
  let rd := fieldOf c 7 5
  let i := sextTo 6 12 (cImm6 c)
  let b := sextTo 9 13 (fieldOf c 12 1 * 256 + fieldOf c 10 2 * 8 + fieldOf c 5 2 * 64 + fieldOf c 3 2 * 2 + fieldOf c 2 1 * 32)
  match fieldOf c 13 3 with
  | 0 => some (encI 0x13 0 rd rd i)
  | 1 => if rd = 0 then none else some (encI 0x1B 0 rd rd i)
  | 2 => some (encI 0x13 0 rd 0 i)
  | 3 =>
    if cImm6 c = 0 then none
    else if rd = 2 then
      some (encI 0x13 0 2 2 (sextTo 10 12 (fieldOf c 12 1 * 512 + fieldOf c 6 1 * 16 + fieldOf c 5 1 * 64 + fieldOf c 3 2 * 128 +
        fieldOf c 2 1 * 32)))
    else some (0x37 + rd * 2 ^ 7 + sextTo 6 20 (cImm6 c) * 2 ^ 12)
  | 4 => expandAlu c
  | 5 =>
    some (encJ 0 (sextTo 12 21 (fieldOf c 12 1 * 2048 + fieldOf c 11 1 * 16 + fieldOf c 9 2 * 256 + fieldOf c 8 1 * 1024 +
      fieldOf c 7 1 * 64 + fieldOf c 6 1 * 128 + fieldOf c 3 3 * 2 + fieldOf c 2 1 * 32)))
  | 6 => some (encB 0 (fieldOf c 7 3 + 8) b)
  | _ => some (encB 1 (fieldOf c 7 3 + 8) b)

/-- Quadrant 2. -/
def expand2 (c : Nat) : Option Nat :=
  let rd := fieldOf c 7 5
  let rs := fieldOf c 2 5
  match fieldOf c 13 3 with
  | 0 => some (encI 0x13 1 rd rd (cImm6 c))
  | 2 => if rd = 0 then none else some (encI 0x03 2 rd 2 (fieldOf c 12 1 * 32 + fieldOf c 4 3 * 4 + fieldOf c 2 2 * 64))
  | 3 => if rd = 0 then none else some (encI 0x03 3 rd 2 (fieldOf c 12 1 * 32 + fieldOf c 5 2 * 8 + fieldOf c 2 3 * 64))
  | 4 =>
    if fieldOf c 12 1 = 0 then
      (if rs = 0 then (if rd = 0 then none else some (encI 0x67 0 0 rd 0)) else some (encR 0x33 0 0 rd 0 rs))
    else if rs = 0 then (if rd = 0 then some 0x00100073 else some (encI 0x67 0 1 rd 0))
    else some (encR 0x33 0 0 rd rd rs)
  | 6 => some (encS 2 2 rs (fieldOf c 9 4 * 4 + fieldOf c 7 2 * 64))
  | 7 => some (encS 3 2 rs (fieldOf c 10 3 * 8 + fieldOf c 7 3 * 64))
  | _ => none

/-- The 32-bit instruction that a 16-bit one stands for, none for a reserved code. -/
def expandC (c : Nat) : Option Nat :=
  match c % 4 with
  | 0 => expand0 c
  | 1 => expand1 c
  | 2 => expand2 c
  | _ => none

/-! ## Execution -/

/-- An illegal instruction, EBREAK included (R262). -/
def rvIllegal (core : Nat) (s : State) : State := trapCore core 4 stLocalAccess (coreOf s core).pc.toNat s

/-- Write a result if there is one. -/
def rvResult (core rd : Nat) (v : Option W64) (next : W64) (s : State) : State :=
  match v with
  | some x => rvSet core rd x next s
  | none => rvIllegal core s

/-- A load: `f3` gives its width and extension. -/
def rvLoadInto (core rd f3 a : Nat) (next : W64) (s : State) : State :=
  if f3 = 7 then rvIllegal core s else
  let n := 2 ^ (f3 % 4)
  match rvLoad core a n s with
  | .stop t => t
  | .value v => rvSet core rd (if f3 < 4 then sextBytes n v else BitVec.ofNat 64 v) next s

/-- LR, SC and the AMOs, on `n` bytes. -/
def rvAtomic (core rd f5 n : Nat) (a b : W64) (rs2 : Nat) (next : W64) (s : State) : State :=
  let at_ := a.toNat
  if !([0x00, 0x01, 0x02, 0x03, 0x04, 0x08, 0x0C, 0x10, 0x14, 0x18, 0x1C].contains f5) then rvIllegal core s
  else if f5 = 0x02 then
    (if rs2 ≠ 0 then rvIllegal core s else
     match rvLoad core at_ n s with
     | .stop t => t
     | .value v => rvSet core rd (sextBytes n v) next
         (modCore core (fun k => { k with reservation := some (at_, BitVec.ofNat 64 v) }) s))
  else
    match rvLoad core at_ n s with
    | .stop t => t
    | .value v =>
      if f5 = 0x03 then
        let ok := (coreOf s core).reservation == some (at_, BitVec.ofNat 64 v)
        let drop (t : State) : State := modCore core (fun k => { k with reservation := none }) t
        if ok then rvStore core at_ n b.toNat (fun t => rvSet core rd 0 next (drop t)) s
        else rvSet core rd 1 next (drop s)
      else
        let stored : Option Nat := if n = 4 then (rvAmo f5 (BitVec.ofNat 32 v) (word b)).map BitVec.toNat
          else (rvAmo f5 (BitVec.ofNat 64 v) b).map BitVec.toNat
        match stored with
        | some x => rvStore core at_ n x (rvSet core rd (sextBytes n v) next) s
        | none => rvIllegal core s

/-- Execute the instruction `i` of a core; `next` is the program counter behind it. -/
def rvExec (core i : Nat) (next : W64) (s : State) : State :=
  let k := coreOf s core
  let rd := fieldOf i 7 5
  let f3 := fieldOf i 12 3
  let rs2 := fieldOf i 20 5
  let f7 := fieldOf i 25 7
  let a := rvReg k (fieldOf i 15 5)
  let b := rvReg k rs2
  match i % 128 with
  | 0x37 => rvSet core rd (immU i) next s
  | 0x17 => rvSet core rd (k.pc + immU i) next s
  | 0x6F => rvSet core rd next (k.pc + immJ i) s
  | 0x67 => if f3 = 0 then rvSet core rd next ((a + immI i) &&& ~~~1#64) s else rvIllegal core s
  | 0x63 =>
    (match rvTaken f3 a b with
     | some t => rvSet core 0 0 (if t then k.pc + immB i else next) s
     | none => rvIllegal core s)
  | 0x03 => rvLoadInto core rd f3 (a + immI i).toNat next s
  | 0x23 => if 3 < f3 then rvIllegal core s else rvStore core (a + immS i).toNat (2 ^ f3) b.toNat (rvSet core 0 0 next) s
  | 0x13 => rvResult core rd (rvOpImm false f3 i a) next s
  | 0x1B => rvResult core rd (rvOpImm true f3 i a) next s
  | 0x33 => rvResult core rd (rvOp false f3 f7 a b) next s
  | 0x3B => rvResult core rd (rvOp true f3 f7 a b) next s
  | 0x0F => if f3 = 0 then rvSet core 0 0 next s else rvIllegal core s
  | 0x2F => if f3 = 2 ∨ f3 = 3 then rvAtomic core rd (f7 / 4) (2 ^ f3) a b rs2 next s else rvIllegal core s
  | 0x73 => if i = 0x73 then ecallAt core (rvReg k 17) (rvReg k 10) k.pc s else rvIllegal core s
  | _ => rvIllegal core s

/-- Two bytes of the instruction store. -/
def rvHalf (s : State) (core a : Nat) : Nat := leNat (memRead .istore (istoreBase core + a) 2 s)

/-- Fetch and execute: an address outside the instruction store traps. -/
def rvStep (core : Nat) (s : State) : State :=
  let pc := (coreOf s core).pc.toNat
  let outside (a : Nat) : State := trapCore core 2 stLocalAccess a s
  if 0x10000 ≤ pc then outside pc
  else
    let h := rvHalf s core pc
    if h % 4 ≠ 3 then
      (match expandC h with
       | some i => rvExec core i (BitVec.ofNat 64 (pc + 2)) s
       | none => rvIllegal core s)
    else if 0x10000 ≤ pc + 2 then outside (pc + 2)
    else rvExec core (h + rvHalf s core (pc + 2) * 2 ^ 16) (BitVec.ofNat 64 (pc + 4)) s

/-- One instruction of a core whose program runs and whose store to CMD1 does not stall. -/
def rvTick (core : Nat) (s : State) : State :=
  if programOn s core && (coreOf s core).stalled.isNone then rvStep core s else s

end Sys2Proof.Machine
end

