-- ==== Sys2Proof/Machine/Idle.lean ====
section
/-! DEFINITION. What an empty queue lets happen: module time moves on, and core programs run (assumptions 5 and 65). -/

namespace Sys2Proof.Machine

open Sys2Proof

/-- One nanosecond passes while the module has its supply, and each core whose program runs executes one instruction. -/
def idle (s : State) : State :=
  if s.board.supply then foldS rvTick (s.compute.cores.map Prod.fst) { s with now := s.now + 1 } else s

end Sys2Proof.Machine
end

