-- ==== Sys2Proof/Machine/Flags.lean ====
section
/-! DEFINITION. What a read of a register returns and what the status pins show: the status bits computed from the state
(R13, R52, R68, R165, R171, R273, R300, R322, R337, R364, R372, R376, R378, R399, R419, R489). The reads that change the
state are commands (`CNT_VALUE_LO`, `CORE_PC_LO`, `ETH_STAT_LO`, `LOCK`); their latched halves are read here. -/

namespace Sys2Proof.Machine

open Sys2Proof

/-- A register's value made of fields: first bit, width, value. -/
def mkReg : List (Nat × Nat × Nat) → Nat
  | [] => 0
  | (lo, w, v) :: t => v % 2 ^ w * 2 ^ lo + mkReg t

/-! ## Rings and queues (R52, R68) -/

/-- `QCFG_CTRL`'s fields. -/
def ctrlValue (enable cfgError : Bool) (cq weight burst : Nat) : Nat :=
  mkReg [(0, 1, b2n enable), (1, 1, b2n cfgError), (2, 6, cq), (8, 8, weight), (16, 6, burst)]

/-- The registers that `QSEL` addresses, for a queue. -/
def queueRegValue (x : Queue) (k : Nat) : Nat :=
  match k with
  | 1 => x.baseLo.toNat
  | 2 => x.baseHi.toNat
  | 3 => x.size.toNat
  | 4 => ctrlValue x.enable x.cfgError x.cq x.weight x.burstM1
  | 5 => mkReg [(0, 16, x.head), (16, 2, if x.closing ∧ x.st = .active then 0 else qstateCode x.st), (18, 1, b2n x.doorbellPending), (19, 1, b2n (headHeld x)),
      (20, 4, min x.tornCount 15), (24, 8, x.lastStatus)]
  | 6 => x.recvKey.toNat
  | 7 => mkReg [(0, 5, x.recvLog2Size), (8, 5, x.recvLog2Slots)]
  | 9 => mkReg [(0, 16, x.recvNext), (16, 1, b2n x.returnError)]
  | 10 => mkReg [(0, 17, x.recvFree)]
  | _ => 0

/-- The same for a ring that the device writes: `QSTAT` shows its producer index. -/
def ringRegValue (r : OutRing) (k : Nat) : Nat :=
  match k with
  | 1 => r.baseLo.toNat
  | 2 => r.baseHi.toNat
  | 3 => r.size.toNat
  | 4 => ctrlValue r.enable r.cfgError r.cq r.weight r.burstM1
  | 5 => mkReg [(0, 16, r.prod), (16, 2, b2n r.enable), (24, 8, r.lastStatus)]
  | _ => 0

/-- `QSEL` and what it addresses. A control queue or an event ring of another index does not exist: it shows `cfg_error`
only. -/
def qselValue (s : State) (fn k : Nat) : Nat :=
  let f := fnOf s fn
  let i := f.qselIndex
  let none_ := if k = 4 then 2 * b2n (f.qselRefused.contains (f.qselKind, i)) else 0
  if k = 0 then mkReg [(0, 20, i), (20, 3, f.qselKind)]
  else match f.qselKind with
    | 0 => queueRegValue (queueOf s { fn := fn, kind := .send, index := i }) k
    | 1 => if i ≠ 0 then none_ else if 5 < k then 0 else queueRegValue f.control k
    | 2 => ringRegValue (cqOf s fn i) k
    | 3 => if i ≠ 0 then none_ else ringRegValue f.eq k
    | 4 => if fn ≠ 0 then none_ else if 5 < k then 0 else queueRegValue (queueOf s { fn := 0, kind := .admin, index := i }) k
    | _ => 0

/-- `VDEV_STATUS`: 7 while the device is FATAL. -/
def vdevStatus (s : State) (fn : Nat) : Nat :=
  let f := fnOf s fn
  let st := if isFatal s then 7 else match f.vstate with
    | .halted => 2
    | .frozen => 3
    | _ => 1
  mkReg [(0, 3, st), (3, 1, b2n f.eventOverflow), (8, 8, f.haltStatus)]

/-- `EQ_HEAD` to `CNT_VALUE_HI`. -/
def eventRegValue (s : State) (fn k : Nat) : Nat :=
  let f := fnOf s fn
  match k with
  | 0 => f.eq.cons % 65536
  | 1 => vdevStatus s fn
  | 2 => f.cntSel
  | 3 => (counterOf s fn f.cntSel).toNat % 2 ^ 32
  | 4 => f.cntHi.toNat
  | _ => 0

/-! ## Telemetry, cores, segments, bindings (R171, R273, R300, R322) -/

def telemRegValue (s : State) (fn k : Nat) : Nat :=
  let t := (fnOf s fn).telem
  match k with
  | 0 => t.ring.baseLo.toNat
  | 1 => t.ring.baseHi.toNat
  | 2 => mkReg [(0, 5, ringLog2 t.ring.size), (5, 1, b2n (ringSram t.ring.size)), (6, 1, b2n t.enable), (7, 1, b2n t.ports),
      (8, 8, t.intervalM1), (16, 1, b2n t.ring.cfgError)]
  | 3 => mkReg [(0, 20, t.first), (20, 7, t.count)]
  | 4 => t.ring.cons % 65536
  | _ => 0

/-- `CORE_STATUS.state`. -/
def coreStateCode (x : CoreState) : Nat :=
  match x with
  | .idle => 0 | .loading => 1 | .running => 2 | .blocked => 3 | .halted => 4 | .ended => 5

/-- `CORE_SEL` to `CORE_EXIT`: a core that the function may not select reads 0, as all of them do on a part without cores (R6). -/
def coreRegValue (s : State) (fn k : Nat) : Nat :=
  let f := fnOf s fn
  if coresFitted s.part = 0 then 0
  else if k = 0 then f.coreSel
  else if k = 3 then f.pcHi.toNat
  else match selCore s fn with
    | none => 0
    | some c =>
      let x := coreOf s c
      match k with
      | 1 => mkReg [(0, 3, if isBlocked x then 3 else coreStateCode x.st), (4, 6, if isBlocked x then x.waitSem else 0), (16, 4, x.cause)]
      | 2 => x.pc.toNat % 2 ^ 32
      | 4 => x.exit.toNat
      | _ => 0

/-- `SEG_STAT.resident`. -/
def segResident (s : State) (fn i : Nat) : Nat :=
  let g := segOf s fn i
  if g.tier = 2 then 0 else if g.migratory then (residentOf s fn i).length else if g.enable then g.pages else 0

def segRegValue (s : State) (fn k : Nat) : Nat :=
  let i := selSeg s fn
  let g := segOf s fn i
  match k with
  | 0 => i
  | 1 => g.vaLo.toNat
  | 2 => g.vaHi.toNat
  | 3 => g.hostLo.toNat
  | 4 => g.hostHi.toNat
  | 5 => g.pages
  | 6 => mkReg [(0, 2, g.tier), (2, 1, b2n g.read), (3, 1, b2n g.write), (4, 1, b2n g.migratory), (5, 1, b2n g.enable),
      (6, 1, b2n g.cfgError)]
  | 7 => mkReg [(0, 1, b2n (g.valid && g.enable && !g.disabling)), (1, 1, b2n g.flushing), (2, 1, b2n g.flushPinned), (3, 1, b2n g.disabling),
      (4, 20, segResident s fn i)]
  | _ => 0

/-- Trackers of the messages that a binding watches: open until the tracker is freed (R325). -/
def watchedOpen (s : State) (fn n : Nat) : List Tracker :=
  s.enpin.trackers.filter (fun t => decide (t.watch = some (fn, n)))

def streamRegValue (s : State) (fn k : Nat) : Nat :=
  let n := selBinding s fn
  let b := bindingOf s fn n
  if coresFitted s.part = 0 then 0 else
  match k with
  | 0 => n
  | 1 => b.key.toNat
  | 2 => mkReg [(0, 1, b2n b.enable), (1, 1, b2n b.cfgError), (2, 6, b.sem), (8, 10, b.core), (18, 12, b.wakeTol)]
  | 3 => b.watchdogUs
  | 4 =>
    let w := watchedOpen s fn n
    mkReg [(0, 1, b2n b.enable), (1, 1, b2n b.keyStale), (2, 1, b2n (w.any (fun t => t.stalled))), (3, 13, min w.length 8191)]
  | _ => 0

/-! ## Capabilities (R372) -/

/-- Dies on which a virtual device holds clusters, 8 clusters to a die. -/
def grantDies (g : Grant) : Nat := ((rangeFrom 0 4).map (fun d => if fieldOf g.clusters.toNat (8 * d) 8 = 0 then 0 else 2 ^ d)).foldl (· + ·) 0

/-- `VF_CAP`: the grant of a VF, the whole module on the PF. -/
def vfCap (s : State) (fn : Nat) : Nat :=
  let cut := b2n (cutFitted s.part)
  if fn = 0 then
    mkReg [(0, 4, 2 ^ diesFitted s.part - 1), (4, 1, b2n (decide (0 < diesFitted s.part))), (5, 1, 1), (6, 1, cut), (7, 1, 1),
      (8, 1, 1), (9, 1, 1), (16, 7, 64)]
  else match grantOf s fn with
    | none => mkReg [(6, 1, cut)]
    | some g =>
      mkReg [(0, 4, grantDies g), (4, 1, b2n (decide (0 < g.hbmFrames))), (5, 1, b2n (decide (0 < g.lpddrFrames))), (6, 1, cut),
        (7, 1, b2n g.secure), (8, 1, b2n (decide (0 < g.sramQueues))), (9, 1, b2n (decide (0 < g.mortarSlots))), (16, 7, g.cqCount)]

def capRegValue (s : State) (fn k : Nat) : Nat :=
  match k with
  | 0 => vfCap s fn
  | 1 => if fn = 0 then 0 else match grantOf s fn with
    | some g => g.qpBase
    | none => 0
  | 2 => if fn = 0 then 0 else match grantOf s fn with
    | some g => g.queues
    | none => 0
  | _ => 0

/-! ## MSI-X and the key page (R373, R399) -/

/-- A word of the MSI-X table; a vector is masked until software unmasks it. -/
def msixValue (s : State) (fn k : Nat) : Nat :=
  if vectorsOf fn ≤ k / 4 then 0
  else if k % 4 = 3 then b2n (!((fnOf s fn).msixUnmasked.contains (k / 4)))
  else (tget 0 (fnOf s fn).msixTable k).toNat

/-- A word of the pending bits. -/
def pbaValue (s : State) (fn k : Nat) : Nat :=
  ((rangeFrom (32 * k) 32).map (fun v => if (fnOf s fn).msixPending.contains v then 2 ^ (v - 32 * k) else 0)).foldl (· + ·) 0

def saCode (x : SaState) : Nat :=
  match x with
  | .empty => 0 | .live => 1 | .wiped => 2 | .exhausted => 3

/-- An alarm has voided the function's associations, and software has not cleared the bit (R399, R409). -/
def wipedBit (s : State) (fn : Nat) : Bool := s.sec.wipedAll && !(s.sec.wipeCleared.contains fn)

def keyRegValue (s : State) (fn k : Nat) : Nat :=
  let p := keyPageOf s fn
  match k with
  | 17 => mkReg [(0, 1, b2n p.busy), (4, 4, p.result), (8, 1, b2n (wipedBit s fn)), (16, 16, p.doneCount.toNat)]
  | 18 => mkReg [(0, 2, saCode p.txState), (16, 12, p.txPeerSa)]
  | 19 => p.rxSel
  | 20 =>
    (match tfind s.sec.rxSas p.rxSel with
     | some a => if a.owner = fn then saCode a.st else 0
     | none => 0)
  | 21 => b2n p.rxRequired
  | 64 => if fn = 0 then s.sec.tagSel else 0
  | 65 => if fn = 0 ∧ 1 ≤ s.sec.tagSel ∧ s.sec.tagSel ≤ 1024 then (keyPageOf s s.sec.tagSel).tag.toNat else 0
  | 66 => if fn = 0 then lcCode s.sec.lc else 0
  | 67 => if fn = 0 then s.sec.alarms.toNat else 0
  | _ => 0

/-! ## PF BAR0 (R371) -/

def shaperRegValue (s : State) (k : Nat) : Nat :=
  let sel := s.host.shaperSel.toNat
  let h : Shaper := tget {} s.shapers ((fieldOf sel 14 1 * 2048 + sel % 2048) * 8 + fieldOf sel 11 3)
  match k with
  | 0 => sel
  | 1 => h.wSlope
  | 2 => h.wHi
  | 3 => h.wLo
  | 4 => ((h.stat / 8) % 2 ^ 32).toNat
  | _ => 0

def cutRegValue (s : State) (k : Nat) : Nat :=
  if !(cutFitted s.part) then 0 else
  let r : CutRule := tget {} s.cut.rules s.cut.sel
  match k with
  | 0 => s.cut.sel
  | 1 => mkReg [(0, 1, b2n r.enable), (1, 1, b2n r.cfgError)]
  | 2 => mkReg [(0, 1, b2n (r.enable && s.cut.pd23 && r.active)), (1, 5, r.reqs.length), (6, 24, r.nextSeq)]
  | _ => 0

/-- `ETH_STATUS.verify`. -/
def verifyCode (v : Verify) : Nat :=
  match v with
  | .disabled => 0 | .waitLink => 1 | .verifying _ => 2 | .succeeded => 3 | .failed => 4

/-- `ETH_STATUS` (R364); an absent port's block reads 0. -/
def ethStatus (s : State) (p : Nat) : Nat :=
  let x := portOf s p
  let bits (l : List Nat) : Nat := ((rangeFrom 0 8).map (fun n => if l.contains n then 2 ^ n else 0)).foldl (· + ·) 0
  mkReg [(0, 1, b2n x.linkUp), (1, 2, if s.eth.mode = 1 then 2 else 1), (3, 1, b2n x.paused.isSome), (4, 1, b2n (preemptActive s p)),
    (5, 3, verifyCode x.verify), (8, 8, bits (x.pfc.map Prod.fst)), (16, 8, bits (x.xoff.map Prod.fst))]

def ringCfgValue (log2 m : Nat) (sram enable cfgError : Bool) : Nat :=
  mkReg [(0, 5, log2), (5, 2, m), (7, 1, b2n sram), (8, 1, b2n enable), (9, 1, b2n cfgError)]

def portRegValue (s : State) (p k : Nat) : Nat :=
  if !(portFitted s p) then 0 else
  let x := portOf s p
  match k with
  | 0 => ethStatus s p
  | 4 => x.rxr.baseLo.toNat
  | 5 => x.rxr.baseHi.toNat
  | 6 => ringCfgValue (ringLog2 x.rxr.size) x.rxM (ringSram x.rxr.size) x.rxr.enable x.rxr.cfgError
  | 7 => x.rxr.cons % 65536
  | 8 => x.txBaseLo.toNat
  | 9 => x.txBaseHi.toNat
  | 10 => ringCfgValue x.txLog2 x.txM x.txSram x.txEnable x.txCfgError
  | 13 => mkReg [(0, 16, x.txHead), (16, 1, b2n x.txError)]
  | 16 => x.statSel
  | 18 => x.statHi.toNat
  | _ => 0

/-- `HOST_LINK_STATUS` (R378). -/
def hostLinkStatus (s : State) : Nat :=
  mkReg [(0, 1, b2n s.host.linkUp), (1, 1, b2n s.host.attached), (2, 1, b2n s.host.lost), (3, 2, s.host.width), (5, 2, s.host.speed),
    (8, 8, s.host.losses)]

def hostRegValue (s : State) (k : Nat) : Nat :=
  let w : Xw := if s.host.xwSel ≤ 1024 then (fnOf s s.host.xwSel).xw else {}
  match k with
  | 0 => hostLinkStatus s
  | 64 => s.host.xwSel
  | 65 => w.baseLo.toNat
  | 66 => w.baseHi.toNat
  | 67 => w.pages
  | 68 => mkReg [(0, 1, b2n w.enable), (1, 1, b2n w.cfgError)]
  | _ => 0

/-- The shared page, `LOCK` apart, whose read may acquire the lock. -/
def sharedValue (s : State) (off : Nat) : Nat :=
  if off = 4 then s.sec.lockFunc
  else if 0x100 ≤ off ∧ off < 0x200 then keyRegValue s s.sec.lockFunc ((off - 0x100) / 4)
  else 0

/-! ## A read by address -/

/-- A function's block. -/
def blockValue (s : State) (fn off : Nat) : Nat :=
  let k := off % 256 / 4
  match off / 256 with
  | 0xC1 => qselValue s fn k
  | 0xC2 => (cqOf s fn k).cons % 65536
  | 0xC3 => eventRegValue s fn k
  | 0xC4 => telemRegValue s fn k
  | 0xC5 => coreRegValue s fn k
  | 0xC6 => segRegValue s fn k
  | 0xC7 => streamRegValue s fn k
  | 0xC8 => capRegValue s fn k
  | _ =>
    if off / 4096 = 0xD then msixValue s fn (off % 4096 / 4)
    else if off / 4096 = 0xE then pbaValue s fn (off % 4096 / 4)
    else if off / 4096 = 0xF then keyRegValue s fn (off % 4096 / 4)
    else 0

/-- What a read at an offset of a function's BAR returns (R369 to R371): an offset that no table lists reads 0, and so does
a closed or unpowered BAR. -/
def regValue (s : State) (fn off : Nat) : Nat :=
  if off % 4 ≠ 0 ∨ s.board.supply = false then 0
  else if fn ≠ 0 then (if barOpen s fn && decide (off < 0x10000) then blockValue s fn off else 0)
  else if 0x80C000 ≤ off ∧ off < 0x810000 then blockValue s 0 (off - 0x800000)
  else if off / 0x1000 = 0x810 then shaperRegValue s (off % 0x1000 / 4)
  else if off / 0x1000 = 0x811 then cutRegValue s (off % 0x1000 / 4)
  else if off / 0x10000 = 0x82 then portRegValue s (off % 0x10000 / 0x1000) (off % 0x1000 / 4)
  else if off / 0x1000 = 0x830 then hostRegValue s (off % 0x1000 / 4)
  else if off / 0x1000 = 0x840 then sharedValue s (off % 0x1000)
  else 0

/-! ## Pins and domains (R435, R438, R489) -/

/-- A record waits for a ring in host memory, or an event for the PF's event ring (R379). -/
def hostRecords (s : State) : Bool :=
  s.fns.any (fun f => f.2.cqs.any (fun r => r.2.inHost && !r.2.held.isEmpty)) || decide (0 < (fnOf s 0).eventsDropped)

/-- WAKE# is asserted: the host link is down after READY, the device is detached and holds records for the host. -/
def wakePin (s : State) : Bool := s.board.supply && isReady s && !s.host.linkUp && !(hostOk s) && hostRecords s

/-- THERMTRIP# is asserted. -/
def thermtripPin (s : State) : Bool := s.power.thermtrip

/-- Domains PD08 and PD12 (K0's and K1's Ethernet) are off when neither of their ports is enabled (R437). -/
def ethDomainOff (s : State) (ks : Nat) : Bool :=
  (rangeFrom (2 * ks) 2).all (fun p => !(portFitted s p) || ledN s (portCfg p) 2 == 0)

end Sys2Proof.Machine
end

