-- ==== Sys2Proof/Safety.lean ====
section
/-! DEFINITION. What holds of every state of a run, in the terms that statements use. -/

namespace Sys2Proof.Machine

open Sys2Proof

/-- Every byte memory is in canonical form: addresses strictly rising, no listed zero. -/
def memsOk (m : Mems) : Bool :=
  mwf m.host && mwf m.hbm && mwf m.lpddr && mwf m.ksram && mwf m.scratch && mwf m.cluster && mwf m.istore

/-- The state's memories are in canonical form. -/
def State.memWf (s : State) : Bool := memsOk s.mems

end Sys2Proof.Machine
end

