-- ==== Sys2Proof/Certificates/Slice0/Obligations.lean ====
section
/-! DEFINITION. The statements. `Obl` holds the terms they share; each statement is a proposition `Obligations.<Name>`. -/

open Sys2Proof Sys2Proof.Machine

namespace Sys2Proof.Obl

/-- The entry stands ready at its queue's head: its queue is served, it is whole and well-formed, there is room for it, neither
fence flag, ready admin entry nor shaper keeps it, and no entry in progress has its index (R29, R34, R36, R37, R147). -/
def Ready (s : State) (q : QRef) (e : Entry) : Prop :=
  queueServed s q = true ∧ headIs s q e = true ∧ entryMalformed s q e = false ∧ roomToTake s q = true ∧
  fenceBlocks s q e = false ∧ (q.kind != .admin && adminReady s) = false ∧ entryShaped s q e = true ∧
  (queueOf s q).taken.all (fun t => !(t.idx == (queueOf s q).head && t.status.isNone)) = true

/-- The queue's head has moved on by one entry (R24, R31). -/
def HeadMoved (s t : State) (q : QRef) : Prop :=
  ((queueOf t q).head, (queueOf t q).phase) = ringNext (ringLog2 (queueOf s q).size) (queueOf s q).head (queueOf s q).phase

/-- The entry at index `idx` is in progress. -/
def InProgress (s : State) (q : QRef) (idx : Nat) (e : Entry) : Prop := ∃ t, takenAt? s q idx = some t ∧ t.entry = e

/-- No entry at index `idx` is in progress any more. -/
def Ended (s : State) (q : QRef) (idx : Nat) : Prop := takenAt? s q idx = none

/-- The head entry has been taken and has ended OK: what its completion started from is `u`. -/
def EndedOk (s t u : State) (q : QRef) : Prop := t = completeOk q (queueOf s q).head u ∧ HeadMoved s t q ∧ Ended t q (queueOf s q).head

end Sys2Proof.Obl

open Sys2Proof.Obl

/-- The step takes the command at the front of the queue and runs it on the rest; with nothing waiting the module idles
(assumption 5). -/
def Obligations.StepRunsTheFrontCommand : Prop :=
  (∀ (c : Instr) (s : State), step { s with pending := c :: s.pending } = exec c s) ∧
  (∀ s : State, s.pending = [] → step s = .next (idle s))

/-- WRITE, WRITE_SIGNAL, SEND and SIGNAL_ONLY: a ready entry to a module that has a context leaves as the messages that its bytes
need (R27, R102 to R104, R209). The last one ends where the source ends and carries the signal; the head has moved on, the entry
is in progress, and no memory, no key and no other queue has changed. -/
def Obligations.SendEntriesBecomeMessages : Prop :=
  ∀ (q : QRef) (e : Entry) (s : State) (k : Ctx) (c : Instr),
    (c = .write q e ∧ eOp e = 0x01) ∨ (c = .writeSignal q e ∧ eOp e = 0x02) ∨ (c = .send q e ∧ eOp e = 0x06) ∨
      (c = .signalOnly q e ∧ eOp e = 0x21) →
    Ready s q e → destReady s (eDest e) = true → ctxOf s (eDest e) = some k →
    0 < segmentSize s k.ethForm →
    (eOp e = 0x21 ∨ xlateRights s (queueFn q) (eLocal e) (eLength e) false = .ok) →
    ∃ (t : State) (k' : Ctx) (m : TxMsg), exec c s = .next t ∧ HeadMoved s t q ∧ InProgress t q (queueOf s q).head e ∧
      ctxOf t (eDest e) = some k' ∧ k'.msgs.getLast? = some m ∧ m.owner = .entry q (queueOf s q).head ∧
      m.ptype = .data ∧ m.dstQp = eDestQp e ∧ m.tc = eClass e ∧ m.secure = eSecure e ∧ m.chained = false ∧
      m.sig = (if eSignalled e then some (eSignal e) else none) ∧
      m.src = .va (queueFn q) (BitVec.ofNat 64 (eLocal e)) ∧
      m.start + m.len = (if eOp e = 0x21 then 0 else eLength e) ∧
      m.msgId + 1 = k'.msgNext ∧
      (eOp e = 0x01 ∨ eOp e = 0x02 → m.ext = .data (eKey e) (BitVec.ofNat 64 (eOffset e)) (globalQp s q) (eOp e) 0 0) ∧
      (eOp e = 0x06 → m.ext = .data (BitVec.ofNat 32 (eImm e)) 0 (globalQp s q) 0x06 0 0) ∧
      (eOp e = 0x21 → m.ext = .data 0 0 (globalQp s q) 0x21 0 0) ∧
      t.mems = s.mems ∧ t.keys = s.keys ∧
      (∀ r : QRef, r.kind ≠ q.kind ∨ (r.kind ≠ .admin ∧ r.fn ≠ q.fn) ∨ (r.kind ≠ .control ∧ r.index ≠ q.index) →
        queueOf t r = queueOf s r)

/-- READ, FETCH_ADD and COMPARE_SWAP: a ready entry whose local range translates for writing sends its request and waits for the
response (R89, R90, R131, R303). -/
def Obligations.RequestEntriesAwaitAResponse : Prop :=
  ∀ (q : QRef) (e : Entry) (s : State) (k : Ctx) (c : Instr),
    (c = .read q e ∧ eOp e = 0x03) ∨ (c = .fetchAdd q e ∧ eOp e = 0x04) ∨ (c = .compareSwap q e ∧ eOp e = 0x05) →
    Ready s q e → destReady s (eDest e) = true → ctxOf s (eDest e) = some k → 0 < segmentSize s k.ethForm →
    xlate s (queueFn q) (eLocal e) (eLength e) true = .ok →
    ∃ (t : State) (k' : Ctx) (m : TxMsg) (r : PendReq), exec c s = .next t ∧ HeadMoved s t q ∧
      InProgress t q (queueOf s q).head e ∧ ctxOf t (eDest e) = some k' ∧
      k'.msgs = k.msgs ++ [m] ∧ k'.reqs = k.reqs ++ [r] ∧ m.msgId = k.msgNext ∧ k'.msgNext = k.msgNext + 1 ∧
      m.owner = .entry q (queueOf s q).head ∧ m.dstQp = eDestQp e ∧ m.len = 0 ∧ m.pktCount = 1 ∧
      m.ptype = (if eOp e = 0x03 then .readRequest else .atomic) ∧
      m.ext = (if eOp e = 0x03 then
          .data (eKey e) (BitVec.ofNat 64 (eOffset e)) (globalQp s q) 0x03 (BitVec.ofNat 64 (eLength e)) 0
        else if eOp e = 0x04 then .data (eKey e) (BitVec.ofNat 64 (eOffset e)) (globalQp s q) 0x04 (eArgA e) 0
        else .data (eKey e) (BitVec.ofNat 64 (eOffset e)) (globalQp s q) 0x05 (eArgA e) (eArgB e)) ∧
      r.msgId = k.msgNext ∧ r.owner = .entry q (queueOf s q).head ∧ r.localVa = BitVec.ofNat 64 (eLocal e) ∧
      r.length = eLength e ∧ r.received = 0 ∧ t.mems = s.mems ∧ t.keys = s.keys

namespace Sys2Proof.Obl

/-- The queue with no torn head counted and nothing held, as a scan takes its head. -/
def fresh (q : QRef) (s : State) : State := modQueue q (fun x => { x with tornCount := 0, hold := .none, heldEntry := none }) s

/-- What taking an entry does: the head moves on and the entry starts. -/
def taking (q : QRef) (e : Entry) (s : State) : State :=
  askLaunchWakes q e (startOf q (queueOf s q).head e (advanceHead e q s))

/-- No head but this queue's waits: a scan of the queue serves it alone. -/
def Lone (s : State) (q : QRef) : Prop :=
  q.kind ≠ .admin → (∀ n, n < 8 → (queueOf s { fn := 0, kind := .admin, index := n }).heldEntry = none) ∧
    (waitingQueues s (queueKs s q) = [] ∨ waitingQueues s (queueKs s q) = [q])

/-- A scan goes no further: the queue is not served, or the device does not own its head; and no admin ring's head waits. -/
def NothingMore (s : State) (q : QRef) : Prop :=
  ((queueServed s q || queueFlushes s q) = false ∨
    (eOwner (headEntry s q) ≠ (queueOf s q).phase ∧ (queueOf s q).heldEntry = none)) ∧
  (q.kind ≠ .admin → ∀ n, n < 8 → (queueOf s { fn := 0, kind := .admin, index := n }).heldEntry = none)

/-- A round begins (R35): the next one's start point is noted. An admin ring has no rounds. -/
def rounding (ks : Nat) (q : QRef) (s : State) : State :=
  match q.kind with
  | .admin => s
  | _ => moveStart ks [q] s

/-- What a scan that takes one entry leaves: a queue of weight 1 whose head moved has used its credit and is looked at once more in a
second round. -/
def scanned (q : QRef) (e : Entry) (s : State) : State :=
  let t := taking q e (fresh q (rounding (queueKs s q) q s))
  if (queueOf s q).weight = 1 ∧ (queueOf t q).head ≠ (queueOf s q).head then rounding (queueKs s q) q t else t

/-- The scan takes `e`, the head as it is read afresh. -/
def Takes (q : QRef) (e : Entry) (s : State) : Prop :=
  Lone s q ∧ 0 < (queueOf s q).weight ∧ queueServed s q = true ∧ headEntry s q = e ∧
  eOwner e = (queueOf s q).phase ∧ eWhole e = true ∧ Ready (fresh q (rounding (queueKs s q) q s)) q e ∧
  holdOf (fresh q (rounding (queueKs s q) q s)) q e = .none ∧
  NothingMore (taking q e (fresh q (rounding (queueKs s q) q s))) q

/-- The scan finds the head torn, and the limit allows another rescan (R32). -/
def FindsTorn (q : QRef) (s : State) : Prop :=
  Lone s q ∧ 0 < (queueOf s q).weight ∧ queueServed s q = true ∧ eOwner (headEntry s q) = (queueOf s q).phase ∧
  eWhole (headEntry s q) = false ∧
  (queueOf s q).tornCount + 1 ≤ (if (queueOf s q).tornCount = 0 then ledN s 0x4100 2 else (queueOf s q).rescanLimit)

/-- The head stays torn: one more is counted, and a rescan is armed with the delay and the limit of now (R32). -/
def TornAgain (q : QRef) (s t : State) (now : Nat) : Prop :=
  (queueOf t q).tornCount = (queueOf s q).tornCount + 1 ∧ (queueOf t q).rescanAt = some (now + ledN s 0x4100 1) ∧
  (queueOf t q).rescanLimit = ledN s 0x4100 2 ∧ (queueOf t q).head = (queueOf s q).head ∧ t.mems = s.mems ∧ t.enpin = s.enpin

end Sys2Proof.Obl

/-- DOORBELL and RESCAN_TIMER_EXPIRY scan a queue from its head (R30 to R32, R35). A ready head entry that nothing holds is
taken; a torn one is counted and the rescan is armed. WAIT_COUNT_RELEASE, FENCE_RELEASE and HEAD_HOLD_RELEASE: a held head that
nothing holds any more is read afresh and taken (R31, R36, R37, R44). TORN_LIMIT_EXCEEDED (R29, R32, R50, R51): past the limit a
torn head of a queue in service counts as malformed. On a send or control queue of an ACTIVE virtual device the device halts
with status 0x40; on an admin ring the module goes FATAL. -/
def Obligations.HeadsAreTakenHeldOrTorn : Prop :=
  (
  (∀ (q : QRef) (s : State), barOpen s q.fn = true → ringsFor s q = true → (queueOf s q).enable = true →
    (queueOf s q).st = .active → (queueOf s q).rescanAt = none →
    (∀ e, Takes q e s → exec (.doorbell q) s = .next (scanned q e s)) ∧
    (FindsTorn q s → ∃ t, exec (.doorbell q) s = .next t ∧ TornAgain q s t s.now)) ∧
  (∀ (q : QRef) (at_ : Nat) (s u : State), (queueOf s q).rescanAt = some at_ →
    u = modQueue q (fun x => { x with rescanAt := none }) (advanceTo at_ s) →
    (∀ e, Takes q e u → exec (.rescanTimerExpiry q) s = .next (scanned q e u)) ∧
    (FindsTorn q u → ∃ t, exec (.rescanTimerExpiry q) s = .next t ∧ t.now = max s.now at_ ∧ TornAgain q u t (max s.now at_)))) ∧
  (
  ∀ (q : QRef) (e : Entry) (s : State) (c : Instr),
    (c = .waitCountRelease q ∧ (queueOf s q).hold = .waitCount) ∨
    (c = .fenceRelease q ∧ ((queueOf s q).hold = .fence ∨ (queueOf s q).hold = .fenceFlag)) ∨
    (c = .headHoldRelease q ∧ ((queueOf s q).hold = .head ∨ (queueOf s q).hold = .gate)) →
    (queueOf s q).heldEntry.isSome = true → Takes q e s → exec c s = .next (scanned q e s)) ∧
  (
  ∀ (q : QRef) (s : State), (queueOf s q).rescanAt.isSome = true → (queueOf s q).rescanLimit ≤ (queueOf s q).tornCount →
    (queueOf s q).tornCount ≠ 0 → eOwner (headEntry s q) = (queueOf s q).phase → eWhole (headEntry s q) = false →
    queueServed s q = true →
    ∃ t, exec (.tornLimitExceeded q) s = .next t ∧
      (q.kind ≠ .admin → (fnOf s q.fn).vstate = .active → (fnOf t q.fn).vstate = .halted ∧
        (fnOf t q.fn).haltStatus = stMalformed) ∧
      (q.kind = .admin → t.board.mstate = 2))

/-- CNT_VALUE_READ: the low half of the selected counter is read and its high half latched (R52). REGISTER_WRITE: a write at a
register's address in a function's BAR does what the command that the table names for that register does (R369 to R371), and a
register that only holds a value takes it. -/
def Obligations.RegistersByAddress : Prop :=
  (
  ∀ (fn : Nat) (s : State), barOpen s fn = true →
    ∃ t, exec (.cntValueRead fn) s = .next t ∧
      t.out = .regRead ((counterOf s fn (fnOf s fn).cntSel).setWidth 32) :: s.out ∧
      (fnOf t fn).cntHi = BitVec.ofNat 32 ((counterOf s fn (fnOf s fn).cntSel).toNat / 2 ^ 32) ∧
      (∀ i, counterOf t fn i = counterOf s fn i) ∧ t.mems = s.mems ∧ ∀ q, queueOf t q = queueOf s q) ∧
  (
  (∀ (fn i : Nat) (v : W32) (s : State), s.board.supply = true → 1 ≤ fn → fn ≤ 1024 → barOpen s fn = true → 8 * i < 0xC000 →
    exec (.registerWrite fn (8 * i) v) s = exec (.doorbell { fn := fn, kind := .send, index := i }) s) ∧
  (∀ (fn : Nat) (v : W32) (s : State), s.board.supply = true → 1 ≤ fn → fn ≤ 1024 → barOpen s fn = true →
    exec (.registerWrite fn 0xC000 v) s = exec (.doorbell { fn := fn, kind := .control, index := 0 }) s ∧
    exec (.registerWrite fn 0xC300 v) s = exec (.eqHeadWrite fn v) s ∧
    exec (.registerWrite fn 0xC110 v) s = (if bitOf v.toNat 0 then exec (.queueEnable fn v) s else exec (.queueDisable fn v) s) ∧
    exec (.registerWrite fn 0xC408 v) s = exec (.telemetryEnable fn v) s ∧
    (∀ ring, ring < 64 → exec (.registerWrite fn (0xC200 + 4 * ring) v) s = exec (.cqHeadWrite fn ring v) s) ∧
    (∃ t, exec (.registerWrite fn 0xC100 v) s = .next t ∧ (fnOf t fn).qselIndex = v.toNat % 2 ^ 20 ∧
      (fnOf t fn).qselKind = fieldOf v.toNat 20 3 ∧ t.mems = s.mems ∧ ∀ q, queueOf t q = queueOf s q) ∧
    (∃ t, exec (.registerWrite fn 0xC308 v) s = .next t ∧ (fnOf t fn).cntSel = v.toNat % 4096 ∧ t.mems = s.mems ∧
      ∀ q, queueOf t q = queueOf s q)) ∧
  (∀ (i : Nat) (v : W32) (s : State), s.board.supply = true →
    (8 * i < 0x800000 → exec (.registerWrite 0 (8 * i) v) s = exec (.doorbell { fn := 0, kind := .send, index := i }) s) ∧
    (i < 8 → exec (.registerWrite 0 (0x800000 + 8 * i) v) s = exec (.doorbell { fn := 0, kind := .admin, index := i }) s)))

namespace Sys2Proof.Obl

/-- The key-table entry that a registration writes (R61). -/
def newKey (q : QRef) (e : Entry) (window : Bool) (gen : W16) (tier base : Nat) (pinned : Option (Nat × Nat × Nat)) : KeyEntry :=
  { generation := gen, owner := q.fn, valid := true, window := window, recvArea := bitOf (eRights e) 3, rights := eRights e % 8,
    tier := tier, base := base, length := ef e 4 4, pinned := pinned }

/-- The state in which a taken registration looks for its place: the entry is taken, the key's address has been translated, and its
page is held (R302). -/
def atKey (q : QRef) (e : Entry) (s : State) : State :=
  holdPages q.fn (eKeyAddr e) 4 true (vtouch (ksAgent (queueKs (advanceHead e q s) q)) q.fn (eKeyAddr e) 4 (advanceHead e q s))

/-- The registration has ended OK after the key of index `i` was written at its address (R63). -/
def KeyGiven (s t : State) (q : QRef) (e : Entry) (i : Nat) : Prop :=
  ∃ w, EndedOk s t (vwrite q.fn (eKeyAddr e) (leBytes 4 (mkKey i (keyOf s i).generation).toNat) w) q

end Sys2Proof.Obl

/-- REGION_REGISTER and WINDOW_OPEN (R54 to R56, R61 to R63): a registration that R61 does not refuse takes the first free index,
keeps the index's generation, makes the entry valid for its owner with the place that its target names (a core's scratchpad, a range of
a segment, or the frames that its pages are pinned in), then writes the key at its address, then ends OK. -/
def Obligations.RegistrationMakesAKey : Prop :=
  ∀ (q : QRef) (e : Entry) (window : Bool) (s s' : State) (i : Nat) (c : Instr),
    (c = .regionRegister q e ∧ eOp e = 0x88 ∧ window = false) ∨ (c = .windowOpen q e ∧ eOp e = 0x8A ∧ window = true) →
    Ready s q e → keyRefusal s q.fn window e = none → keysUsed s q.fn window < keyGrant s q.fn window →
    xlate s q.fn (eKeyAddr e) 4 true = .ok → allocKey window s = some (i, s') →
    (eKeyTarget e = 1 →
      ∃ t, exec c s = .next t ∧ KeyGiven s t q e i ∧
        t.keys = { s'.keys with table := tset s'.keys.table i (newKey q e window (keyOf s i).generation 2
          (scratchBase (eKeyCore e) + eLocal e) none) }) ∧
    (∀ g, eKeyTarget e ≠ 1 → segHolding s q.fn (eLocal e) (eKeyLen e) = some g → (segOf s q.fn g).migratory = false →
      ∃ t, exec c s = .next t ∧ KeyGiven s t q e i ∧
        t.keys = { s'.keys with table := tset s'.keys.table i (newKey q e window (keyOf s i).generation (segOf s q.fn g).tier
          ((segOf s q.fn g).tierBase + (eLocal e - segBase (segOf s q.fn g))) none) }) ∧
    (∀ g a u, eKeyTarget e ≠ 1 → segHolding s q.fn (eLocal e) (eKeyLen e) = some g → (segOf s q.fn g).migratory = true →
      (segOf s q.fn g).migrationsFail = false → hostOk s = true →
      (pagesOf (eLocal e - segBase (segOf s q.fn g)) (eKeyLen e)).all (fun p =>
        !(pageOf s q.fn g p).lost && !(pageOf s q.fn g p).migrating && (pageOf s q.fn g p).pins != 4095) = true →
      pinRun q.fn g (pagesOf (eLocal e - segBase (segOf s q.fn g)) (eKeyLen e))
        ((fnOf (vtouch (ksAgent (queueKs (advanceHead e q s) q)) q.fn (eKeyAddr e) 4 (advanceHead e q s)) q.fn).pages.length + 1)
        (atKey q e s) = some (a, u) →
      ∃ t w, exec c s = .next t ∧ t = completeOk q (queueOf s q).head
          (vwrite q.fn (eKeyAddr e) (leBytes 4 (mkKey i (keyOf s i).generation).toNat) w) ∧ (keyOf t i).valid = true ∧ (keyOf t i).owner = q.fn ∧ (keyOf t i).tier = (segOf s q.fn g).tier ∧
        (keyOf t i).base = frameAddr a + (eLocal e - segBase (segOf s q.fn g)) % pageBytes ∧ (keyOf t i).window = window)

/-- REGION_DEREGISTER and WINDOW_REVOKE (R64 to R66): a current key of the right kind, named by its owner or the manager, loses its
validity at once: its generation advances, it drains, and the entry waits for the drain. A key that is not current and does not
drain ends OK and changes no key. -/
def Obligations.RevocationBeginsADrain : Prop :=
  ∀ (q : QRef) (e : Entry) (window : Bool) (s : State) (c : Instr),
    (c = .regionDeregister q e ∧ eOp e = 0x89 ∧ window = false) ∨ (c = .windowRevoke q e ∧ eOp e = 0x8B ∧ window = true) →
    Ready s q e →
    (keyCurrent s (eKey e) = true → (keyOf s (keyIdx (eKey e))).owner = q.fn ∨ q.fn = 0 →
      (keyOf s (keyIdx (eKey e))).window = window →
      ∃ t, exec c s = .next t ∧ HeadMoved s t q ∧ InProgress t q (queueOf s q).head e ∧
        keyOf t (keyIdx (eKey e)) = { keyOf s (keyIdx (eKey e)) with
          generation := nextGen (keyOf s (keyIdx (eKey e))).generation, valid := false, revoking := true } ∧
        keyCurrent t (eKey e) = false ∧
        t.keys.waits = s.keys.waits ++ [.key (keyIdx (eKey e)) q (queueOf s q).head] ∧ t.mems = s.mems ∧ t.enpin = s.enpin) ∧
    (keyCurrent s (eKey e) = false → (keyOf s (keyIdx (eKey e))).revoking = false →
      exec c s = .next (completeOk q (queueOf s q).head (advanceHead e q s)) ∧
      ∃ t, exec c s = .next t ∧ HeadMoved s t q ∧ Ended t q (queueOf s q).head ∧ t.keys = s.keys ∧ t.enpin = s.enpin)

/-- KEY_DRAIN_END (R56, R65): when nothing admitted under a revoked index is in progress, the index is free again under its new
generation, at the tail of its range's free list, and nothing waits for it; an entry that waited for it alone ends OK. SETTLE
and SETTLE_COMPLETE (R76): a SETTLE waits for the accesses admitted before it; when all of them have ended it ends OK. -/
def Obligations.DrainsAndSettlesEnd : Prop :=
  (
  ∀ (i : Nat) (s : State), (keyOf s i).revoking = true → keyDrained s i = true →
    ∃ t, exec (.keyDrainEnd i) s = .next t ∧ (keyOf t i).valid = false ∧ (keyOf t i).revoking = false ∧
      (keyOf t i).generation = (keyOf s i).generation ∧
      (i < 0xC000 → t.keys.regionFreed = s.keys.regionFreed ++ [i] ∧ t.keys.windowFreed = s.keys.windowFreed) ∧
      (0xC000 ≤ i → t.keys.windowFreed = s.keys.windowFreed ++ [i] ∧ t.keys.regionFreed = s.keys.regionFreed) ∧
      (∀ w ∈ t.keys.waits, ∀ q idx, w ≠ .key i q idx) ∧
      (∀ q idx, s.keys.waits = [.key i q idx] → ∃ u, t = completeOk q idx u ∧ queueOf u q = queueOf s q)) ∧
  (
  (∀ (q : QRef) (e : Entry) (s : State), eOp e = 0x8C → Ready s q e →
    ∃ t, exec (.settle q e) s = .next t ∧ HeadMoved s t q ∧ InProgress t q (queueOf s q).head e ∧
      t.keys = { s.keys with waits := s.keys.waits ++ [.settle q (queueOf s q).head s.enpin.admNext] } ∧ t.mems = s.mems) ∧
  (∀ (q : QRef) (idx upTo : Nat) (u : Taken) (s : State), isFatal s = false → s.keys.waits = [.settle q idx upTo] →
    settled s q.fn upTo = true → takenAt? s q idx = some u → (queueOf s q).st = .active → (queueOf s q).closing = false →
    ∃ t, exec (.settleComplete q idx) s = .next t ∧ t = completeOk q idx { s with keys := { s.keys with waits := [] } } ∧
      Ended t q idx ∧ t.keys.waits = [] ∧ t.keys.table = s.keys.table))

/-- R38 to R43: the end of the only entry in progress of a queue in service writes its record in the queue's completion ring,
when the ring is enabled, has room and can be reached: an OK one whose entry asks for a record gets status 0 and the queue stays
in service; a failed one gets its status, and the queue is in ERROR. CQ_HEAD_WRITE and EQ_HEAD_WRITE: the consumer's index is
what software wrote, and the ring is armed (R42, R47, R373). QUEUE_ENABLE and QUEUE_DISABLE (R24, R48, R49). An enable that R49
does not refuse makes the selected queue ACTIVE with head 0 and phase 1; one that it refuses sets `cfg_error` and leaves the
queue in its state. A disable of a queue with nothing in progress or held returns it to RESET; one with work in progress ends no
entry. RECV_RETURN (R68, R69): the slots that software gives back are free again; a return beyond those it holds is not taken
and sets `return_error`. -/
def Obligations.RingRegistersWork : Prop :=
  (
  ∀ (q : QRef) (t : Taken) (res : W64) (peer : W32) (s : State), (queueOf s q).taken = [t] → t.status = none →
    (queueOf s q).st = .active → (queueOf s q).closing = false → isFatal s = false →
    (cqOf s (queueFn q) (queueOf s q).cq).held = [] → (cqOf s (queueFn q) (queueOf s q).cq).full = false →
    (cqOf s (queueFn q) (queueOf s q).cq).enable = true →
    ((cqOf s (queueFn q) (queueOf s q).cq).inHost = true → hostOk s = true) →
    (eBatch t.entry = true →
      ∃ u, complete q t.idx stOk res peer s = cqWriteNow (queueFn q) (queueOf s q).cq
          (entryRec q { t with status := some stOk, info := entryInfo t.entry, result := res, peer := peer, cflags := 0 } stOk 1) u ∧
        (queueOf u q).taken = [] ∧ (queueOf u q).lastStatus = 0 ∧ (queueOf u q).st = .active ∧ u.mems = s.mems) ∧
    (∀ st, 3 ≤ st → st ≤ 255 → st ≠ stFlushed → eOp t.entry ≠ 0x10 → eOp t.entry ≠ 0x20 → (queueOf s q).heldEntry = none →
      (queueOf (complete q t.idx st res peer s) q).st = .error ∧ (queueOf (complete q t.idx st res peer s) q).taken = [] ∧
      (queueOf (complete q t.idx st res peer s) q).lastStatus = st ∧
      ∃ u, u.mems = s.mems ∧ (complete q t.idx st res peer s).mems = (cqWriteNow (queueFn q) (queueOf s q).cq
        (entryRec q { t with status := some st, info := entryInfo t.entry, result := res, peer := peer, cflags := 0 } st 1) u).mems)) ∧
  (
  (∀ (fn ring : Nat) (v : W32) (s : State), barOpen s fn = true → ring < 64 →
    ∃ t, exec (.cqHeadWrite fn ring v) s = .next t ∧ (cqOf t fn ring).cons = v.toNat % 65536 ∧
      ((cqOf s fn ring).held = [] → (cqOf t fn ring).armed = (cqOf s fn ring).enable ∧
        (cqOf t fn ring).prod = (cqOf s fn ring).prod ∧ t.mems = s.mems)) ∧
  (∀ (fn : Nat) (v : W32) (s : State), barOpen s fn = true →
    ∃ t, exec (.eqHeadWrite fn v) s = .next t ∧ (fnOf t fn).eq.cons = v.toNat % 65536 ∧
      ((fnOf s fn).eventsDropped = 0 → (fnOf t fn).eq.armed = (fnOf s fn).eq.enable ∧ t.mems = s.mems) ∧
      ((fnOf s fn).eventsDropped ≠ 0 → (fnOf s fn).eq.enable = true →
        ({ (fnOf s fn).eq with cons := v.toNat % 65536, armed := true } : OutRing).full = false → hostOk s = true →
        (fnOf t fn).eventsDropped = 0 ∧
        (fnOf t fn).eq.prod = (ringNext (ringLog2 (fnOf s fn).eq.size) (fnOf s fn).eq.prod (fnOf s fn).eq.phase).1))) ∧
  (
  (∀ (fn : Nat) (v : W32) (s : State) (q : QRef), barOpen s fn = true → bitOf v.toNat 0 = true → q.fn = fn →
    ((fnOf s fn).qselKind = 0 ∧ q.kind = .send ∧ q.index = (fnOf s fn).qselIndex) ∨
      ((fnOf s fn).qselKind = 1 ∧ (fnOf s fn).qselIndex = 0 ∧ q.kind = .control ∧ q.index = 0) ∨
      ((fnOf s fn).qselKind = 4 ∧ fn = 0 ∧ q.kind = .admin ∧ q.index = (fnOf s fn).qselIndex) →
    (queueOf s q).enable = false →
    (fieldOf v.toNat 8 8 ≠ 0 → queueRefused s q (fieldOf v.toNat 2 6) = false →
      ∃ t, exec (.queueEnable fn v) s = .next t ∧ (queueOf t q).enable = true ∧ (queueOf t q).st = .active ∧
        (queueOf t q).head = 0 ∧ (queueOf t q).phase = true ∧ (queueOf t q).cq = fieldOf v.toNat 2 6 ∧
        (queueOf t q).weight = fieldOf v.toNat 8 8 ∧ (queueOf t q).cfgError = false ∧ (queueOf t q).taken = [] ∧ t.mems = s.mems) ∧
    (fieldOf v.toNat 8 8 = 0 ∨ queueRefused s q (fieldOf v.toNat 2 6) = true →
      ∃ t, exec (.queueEnable fn v) s = .next t ∧ (queueOf t q).cfgError = true ∧ (queueOf t q).enable = false ∧
        (queueOf t q).st = (queueOf s q).st ∧ t.mems = s.mems)) ∧
  (∀ (fn : Nat) (v : W32) (s : State) (q : QRef), barOpen s fn = true → bitOf v.toNat 0 = false → q.fn = fn →
    ((fnOf s fn).qselKind = 0 ∧ q.kind = .send ∧ q.index = (fnOf s fn).qselIndex) ∨
      ((fnOf s fn).qselKind = 1 ∧ (fnOf s fn).qselIndex = 0 ∧ q.kind = .control ∧ q.index = 0) ∨
      ((fnOf s fn).qselKind = 4 ∧ fn = 0 ∧ q.kind = .admin ∧ q.index = (fnOf s fn).qselIndex) →
    (queueOf s q).enable = true → (queueOf s q).st = .active → (queueOf s q).hold ≠ .waitCount → isFatal s = false →
    ((queueOf s q).taken = [] →
      ∃ t, exec (.queueDisable fn v) s = .next t ∧ (queueOf t q).enable = false ∧ (queueOf t q).hold = .none ∧
        ((cqOf s fn (queueOf s q).cq).held = [] → (queueOf t q).st = .reset ∧ (queueOf t q).closing = false)) ∧
    (∀ u, (queueOf s q).taken = [u] → u.status = none →
      ∃ t, exec (.queueDisable fn v) s = .next t ∧ (queueOf t q).enable = false ∧ (queueOf t q).st = .active ∧
        (queueOf t q).closing = true ∧ (queueOf t q).taken = [u]))) ∧
  (
  ∀ (fn : Nat) (v : W32) (s : State), barOpen s fn = true → (fnOf s fn).qselKind = 0 →
    (queueOf s (selQueue s fn)).enable = true → (queueOf s (selQueue s fn)).recvKey ≠ 0 →
    ∃ t, exec (.recvReturn fn v) s = .next t ∧
      (queueOf t (selQueue s fn)).recvFree = (queueOf s (selQueue s fn)).recvFree +
        min (v.toNat % 2 ^ 17) (2 ^ (queueOf s (selQueue s fn)).recvLog2Slots - (queueOf s (selQueue s fn)).recvFree -
          (queueOf s (selQueue s fn)).slotsUsed.length) ∧
      (2 ^ (queueOf s (selQueue s fn)).recvLog2Slots - (queueOf s (selQueue s fn)).recvFree -
          (queueOf s (selQueue s fn)).slotsUsed.length < v.toNat % 2 ^ 17 → (queueOf t (selQueue s fn)).returnError = true) ∧
      (queueOf t (selQueue s fn)).slotsUsed = (queueOf s (selQueue s fn)).slotsUsed ∧ t.mems = s.mems ∧ t.keys = s.keys)

namespace Sys2Proof.Obl

/-- The state in which a sequenced packet of an open context meets the window: taken from its port, its context touched, the
acknowledgement that it carries taken. -/
def atWindow (rx : RxInfo) (w p : Packet) (s : State) : State :=
  let u := takeIn rx w s
  let u := modCtx (ctxPeer p) (fun c => { c with lastActive := nowMs (touchCtx (ctxPeer p) u), dirty := true }) (touchCtx (ctxPeer p) u)
  if p.epoch = 0 then u else piggyback (ctxPeer p) p.ackSeq u

/-- The packet passes the wire's checks and authentication, which reads it as `p`, belongs to the epoch of a context that is open and
on chip, lies in its window, has not come before, and is admitted, which leaves `v` (R71, R101, R112, R123, R128). -/
def Admits (rx : RxInfo) (w p : Packet) (s v : State) : Prop :=
  isSequenced w = true ∧ w.epoch ≠ 0 ∧ wireBad (takeIn rx w s) w = none ∧ authentic (takeIn rx w s) w = true ∧
  openSecure (takeIn rx w s) w = .ok p ∧ p.epoch ≠ 0 ∧
  (∃ c, ctxOf (takeIn rx w s) (ctxPeer p) = some c ∧ c.onChip = true ∧ c.st = .opened ∧ p.epoch = c.epoch) ∧
  countWrong (takeIn rx w s) p = false ∧ refusesAll (atWindow rx w p s) = false ∧
  (∃ k, ctxOf (atWindow rx w p s) (ctxPeer p) = some k ∧ 0 ≤ sdist p.seq k.rxBase ∧ sdist p.seq k.rxBase < 1024 ∧
    winBit k.seen (sdist p.seq k.rxBase).toNat = false) ∧
  rxOps.judge rx p (atWindow rx w p s) = (.admitted, v)

/-- The state in which an admitted packet is executed: its mark counted, its number seen. -/
def executing (rx : RxInfo) (p : Packet) (v : State) : State :=
  modCtx (ctxPeer p) (seeSeq p.seq) (countMark rx (ctxPeer p) v)

/-- The message of the packet has not ended. -/
def MessageOpen (s : State) (p : Packet) : Prop := ∀ t, trackerOf s (ctxPeer p) p.msgId = some t → t.st = .open

end Sys2Proof.Obl

/-- DATA_RECEIVE, READ_REQUEST_RECEIVE, READ_RESPONSE_RECEIVE, ATOMIC_RECEIVE, ATOMIC_RESPONSE_RECEIVE, ABORT_RECEIVE and
FALLBACK_RING_RECEIVE (R71, R83, R112, R128): a packet that is admitted is executed as its type has it, its number seen, its mark
counted; one that was sealed is the packet that its text spells. -/
def Obligations.AdmittedPacketsAreExecuted : Prop :=
  ∀ (rx : RxInfo) (w p : Packet) (s v : State) (c : Instr),
    (c = .dataReceive rx w ∧ w.ptype = .data) ∨ (c = .readRequestReceive rx w ∧ w.ptype = .readRequest) ∨
    (c = .readResponseReceive rx w ∧ w.ptype = .readResponse) ∨ (c = .atomicReceive rx w ∧ w.ptype = .atomic) ∨
    (c = .atomicResponseReceive rx w ∧ w.ptype = .atomicResponse) ∨ (c = .abortReceive rx w ∧ w.ptype = .abort) ∨
    (c = .fallbackRingReceive rx w ∧ w.ptype = .collective) →
    Admits rx w p s v → exec c s = .next (rxOps.exec rx p (executing rx p v))

/-- What the execution of an admitted packet leaves (R72, R89, R90, R105, R107, R129, R131). A data packet with a payload is in
progress until it is written; a read request has queued its response; an atomic has stored the new value where it read the old
one; a response packet's data is on its way to the local range; an atomic response has ended its request; an ABORT has ended the
tracker that it names. -/
def Obligations.ExecutedPacketsTakeEffect : Prop :=
  (∀ (rx : RxInfo) (w p : Packet) (s v : State) (key : W32) (off : W64) (qp op : Nat) (a b : W64), Admits rx w p s v →
    w.ptype = .data → p.ptype = .data → p.ext = .data key off qp op a b → p.payload ≠ [] → MessageOpen (executing rx p v) p →
    ∃ t m, exec (.dataReceive rx w) s = .next t ∧ t.enpin.adms.getLast? = some m ∧ m.seq = p.seq ∧ m.data = p.payload ∧
      m.msgId = p.msgId ∧ m.peer = ctxPeer p ∧ m.answers = none ∧ m.written = false ∧ m.num = (executing rx p v).enpin.admNext) ∧
  (∀ (rx : RxInfo) (w p : Packet) (s v : State), Admits rx w p s v → w.ptype = .readRequest → p.ptype = .readRequest →
    trackerOf (executing rx p v) (ctxPeer p) p.msgId = none →
    ∃ t k m x, exec (.readRequestReceive rx w) s = .next t ∧ ctxOf t (ctxPeer p) = some k ∧ m ∈ k.msgs ∧
      m.ptype = .readResponse ∧ m.owner = .response p.msgId (BitVec.ofNat 32 (executing rx p v).enpin.admNext) ∧
      x ∈ t.enpin.adms ∧ x.response = some p.msgId ∧ x.num = (executing rx p v).enpin.admNext) ∧
  (∀ (rx : RxInfo) (w p : Packet) (s v : State) (key : W32) (off : W64) (qp op : Nat) (a b : W64), Admits rx w p s v →
    w.ptype = .atomic → p.ptype = .atomic → p.ext = .data key off qp op a b →
    trackerOf (executing rx p v) (ctxPeer p) p.msgId = none → v.memWf = true →
    let u := executing rx p v
    let m := tierMem (keyOf u (keyIdx (accessOf u p).key)).tier
    let at_ := (keyOf u (keyIdx (accessOf u p).key)).base + (accessOf u p).off
    badIn m at_ 8 u = none →
    ∃ t, exec (.atomicReceive rx w) s = .next t ∧
      memRead m at_ 8 t =
        leBytes 8 (atomicNew (accessOf u p).op a b (BitVec.ofNat 64 (leNat (memRead m at_ 8 u)))).toNat) ∧
  (∀ (rx : RxInfo) (w p : Packet) (s v : State) (r : PendReq), Admits rx w p s v → w.ptype = .readResponse →
    p.ptype = .readResponse → MessageOpen (executing rx p v) p → requestOf (executing rx p v) p = some r →
    (responseOffset p).toNat + p.payload.length ≤ r.length → r.length ≠ 0 →
    ∃ t m, exec (.readResponseReceive rx w) s = .next t ∧ t.enpin.adms.getLast? = some m ∧ m.seq = p.seq ∧
      m.data = p.payload ∧ m.tgt = .va r.fn (r.localVa + responseOffset p) ∧ m.answers = some r.msgId ∧ m.msgId = p.msgId) ∧
  (∀ (rx : RxInfo) (w p : Packet) (s v : State) (r : PendReq), Admits rx w p s v → w.ptype = .atomicResponse →
    p.ptype = .atomicResponse → requestOf (executing rx p v) p = some r → r.owner = .none →
    ∃ t k, exec (.atomicResponseReceive rx w) s = .next t ∧ ctxOf t (ctxPeer p) = some k ∧
      ∀ x ∈ k.reqs, x.msgId ≠ r.msgId) ∧
  (∀ (rx : RxInfo) (w p : Packet) (s v : State) (st : Nat) (last : W32) (x : Tracker), Admits rx w p s v → w.ptype = .abort →
    p.ptype = .abort → p.ext = .abort st last → trackerOf (executing rx p v) (ctxPeer p) p.msgId = some x → x.st = .refused →
    (∀ k, ctxOf (executing rx p v) (ctxPeer p) = some k → ∀ r ∈ k.reqs, p.msgId ∉ r.resp) →
    ∃ t, exec (.abortReceive rx w) s = .next t ∧
      ∀ y, trackerOf t (ctxPeer p) p.msgId = some y → y.st = .aborted ∧ y.lastSeq = last)

/-- OPENING_RECEIVE (R119, R120, R124): an opening to a context that is unopened and never lived begins its life: the epoch is drawn
(the source's choice on a line), the window starts at the opening's number, and the packet is handled on as one of the new epoch. An
opening under another number ends an open context's life, when its hold has passed, and begins one of the next epoch; within the hold
it is dropped and counted; one under the number that opened it is handled on. -/
def Obligations.OpeningsBeginALife : Prop :=
  ∀ (rx : RxInfo) (w p : Packet) (c : Ctx) (s u : State), isSequenced w = true → w.epoch = 0 → u = takeIn rx w s →
    wireBad u w = none → authentic u w = true → openSecure u w = .ok p → p.epoch = 0 →
    ctxOf u (ctxPeer p) = some c → c.onChip = true →
    (c.st = .unopened → c.epoch = 0 →
      exec (.openingReceive rx w) s = .next (enterWindow rxOps rx p
        (setCtx (ctxPeer p) (startLife u (lifeEpoch u p) p.seq c) (drawn u))) ∧
      (startLife u (lifeEpoch u p) p.seq c).st = .opened ∧ (startLife u (lifeEpoch u p) p.seq c).rxBase = p.seq ∧
      (startLife u (lifeEpoch u p) p.seq c).openSeq = p.seq ∧
      (isLine (ctxPeer p) = false → 1 ≤ lifeEpoch u p ∧ lifeEpoch u p ≤ 255)) ∧
    (c.st = .opened → c.openSeq = p.seq → exec (.openingReceive rx w) s = .next (enterWindow rxOps rx p u)) ∧
    (c.st = .opened → c.openSeq ≠ p.seq →
      ((nowUs u - c.epochTime) * 1000 < timerN u 9 u.now → exec (.openingReceive rx w) s = .next (bump 0x9041 0x0F 1 u)) ∧
      (timerN u 9 u.now ≤ (nowUs u - c.epochTime) * 1000 → isLine (ctxPeer p) = false →
        let v := dropParked (ctxPeer p) (abortTrackers (ctxPeer p)
          (endOutstanding (ctxPeer p) stRemoteReset p.src false (bump 0x9041 0x0E 1 u)))
        exec (.openingReceive rx w) s = .next (enterWindow rxOps rx p
          (modCtx (ctxPeer p) (startLife v (c.epoch % 255 + 1) p.seq) v))))

/-- ACK_RECEIVE, NACK_RECEIVE and RNR_RECEIVE of the current epoch (R73, R94, R95, R97, R121, R131, R135). An ACK takes every
record that its cumulative number or its bitmap covers off the context; a NACK takes the refused record and what its cumulative
number covers off, and the refused packet's message fails with the NACK's status; an RNR stops new packets of the context for
the back-off. WRITTEN_NOTICE and PACKET_WRITE_DONE (R105, R129): a notice counts its packet as written in the tracker of its
message; a packet's data is in memory when its write is done, and the packet is then accounted as written. -/
def Obligations.AnswersAndWritesAreCounted : Prop :=
  (
  (∀ (rx : RxInfo) (p : Packet) (c : Ctx) (base : W32) (bm : W64) (s : State), p.ptype = .ack → p.ext = .ack base bm →
    wireBad (takeIn rx p s) p = none → isLine (ctxPeer p) = false → ctxOf (takeIn rx p s) (ctxPeer p) = some c →
    c.onChip = true → c.st = .opened → p.epoch = c.epoch →
    let u := touchCtx (ctxPeer p) (takeIn rx p s)
    let covered := fun (o : OutPkt) => cumCovers (ccTouch (takeIn rx p s) c) p.ackSeq o || sackCovers base bm o.seq
    exec (.ackReceive rx p) s = .next (settleAcks (ctxPeer p) (c.outs.filter covered) p.ecnEcho
      (modCtx (ctxPeer p) (fun c => { c with outs := c.outs.filter (fun o => !(covered o)) }) u))) ∧
  (∀ (rx : RxInfo) (p : Packet) (c : Ctx) (st cur : Nat) (q : W32) (off : W64) (s : State), p.ptype = .nack →
    p.ext = .nack st cur q off → st ≠ stRemoteReset → wireBad (takeIn rx p s) p = none → isLine (ctxPeer p) = false →
    ctxOf (takeIn rx p s) (ctxPeer p) = some c → c.onChip = true → c.st = .opened → p.epoch = c.epoch →
    ∃ u k, exec (.nackReceive rx p) s = .next (settleAcks (ctxPeer p)
        (c.outs.filter (fun o => o.seq == q) ++ c.outs.filter (fun o => o.seq != q && cumCovers c p.ackSeq o)) p.ecnEcho
        (foldS (refuseOut (ctxPeer p) (memberPlace (lineAxis (ctxPeer p)) p.src) st off p.src)
          (c.outs.filter (fun o => o.seq == q)) u)) ∧
      ctxOf u (ctxPeer p) = some k ∧ k.msgs = c.msgs ∧
      k.outs = c.outs.filter (fun o => !(o.seq == q || cumCovers c p.ackSeq o)) ∧
      (∀ o m idx ring, o.seq = q → o.abort = none → m.owner = .entry ring idx →
        (c.msgs.filter (fun m => m.msgId == o.msgId && m.ptype != .abort)).head? = some m →
        refuseOut (ctxPeer p) (memberPlace (lineAxis (ctxPeer p)) p.src) st off p.src o u =
          complete ring idx st (if st = stRemoteAccess ∨ st = stStaleKey then off else 0) p.src u)) ∧
  (∀ (rx : RxInfo) (p : Packet) (c : Ctx) (cause hint : Nat) (q : W32) (o : OutPkt) (s : State), p.ptype = .rnr →
    p.ext = .rnr cause hint q → wireBad (takeIn rx p s) p = none → isLine (ctxPeer p) = false →
    ctxOf (takeIn rx p s) (ctxPeer p) = some c → c.onChip = true → c.st = .opened → p.epoch = c.epoch →
    c.outs = [o] → o.seq = q → c.rnrUntil = none →
    ∃ t k, exec (.rnrReceive rx p) s = .next t ∧ ctxOf t (ctxPeer p) = some k ∧
      k.rnrUntil = some (q, s.now + min (timerN s 6 o.firstSent) (max (hint * 1000) (timerN s 5 o.firstSent) * 2 ^ o.rnrs)) ∧
      k.outs = [{ o with rnrs := o.rnrs + 1, lastRnr := true, rnrWait := true }])) ∧
  (
  (∀ (peer seq msgId : W32) (x : Tracker) (rest : List (W32 × W32 × W32)) (s : State),
    s.enpin.notices = (peer, seq, msgId) :: rest → trackerOf s peer msgId = some x → x.written + 1 < x.pktCount →
    ∃ t, exec (.writtenNotice peer seq) s = .next t ∧ trackerOf t peer msgId = some { x with written := x.written + 1 } ∧
      t.enpin.notices = rest ∧ t.mems = s.mems) ∧
  (∀ (peer seq : W32) (a : Adm) (rest : List Adm) (s : State), s.enpin.adms = a :: rest → a.peer = peer → a.seq = seq →
    a.written = false → a.response = none → padWait s a = none →
    exec (.packetWriteDone peer seq) s = .next (packetWritten a
      (if a.answers.isNone then storeData a s else responseWritten a (storeData a s))) ∧
    (∀ ti b, a.tgt = .tier ti b → s.memWf = true → memRead (tierMem ti) b a.data.length (storeData a s) = a.data)))

/-- The message carries its source's bytes. -/
def Sys2Proof.Obl.carries (m : TxMsg) : Prop := m.ptype = .data ∨ m.ptype = .readResponse ∨ m.ptype = .collective

/-- A packet's records with the one that timed out flagged to be sent again, its timeout doubled up to the limit (R133). -/
def Sys2Proof.Obl.timedOut (limit : Nat) (seq : W32) (os : List OutPkt) : List OutPkt :=
  modFirst (fun x => x.seq == seq) (fun x => { x with resend := true, timeout := min (2 * x.timeout) limit }) os

/-- PACKET_TRANSMIT (R110, R126, R147): the next packet of a context's first message leaves under the next number, with a record
of it outstanding, the bucket charged and the message one packet further. RETRANSMIT_TIMEOUT and RNR_BACKOFF_EXPIRY (R133,
R135): the packet that timed out is flagged to be sent again with its timeout doubled, up to the limit; after the back-off the
lowest refused packet and every later one are. -/
def Obligations.PacketsAreSentAndSentAgain : Prop :=
  (
  ∀ (peer : W32) (draw : Nat) (s u : State) (c : Ctx) (m : TxMsg) (bytes : List Byte), isReady s = true →
    (ctxOf s peer).isSome = true → ((ctxOf (touchCtx peer s) peer).bind nextResend) = none →
    (((ctxOf (touchCtx peer s) peer).bind (nextMsg (touchCtx peer s) peer)).isSome = true) →
    u = ensureOpening peer (renewSelf peer (touchCtx peer s)) → ctxOf u peer = some c → nextMsg u peer c = some m →
    m.ptype ≠ .abort → c.st = .opened ∨ (c.st = .opening ∧ c.outs = []) → sdist c.txNext c.txAcked < 1024 → c.rnrUntil = none →
    gatesOpen u c = true → outRoom u (builderKs u m.owner peer c.home) = true →
    (m.secure = true → (fnOf u m.fn).keyPage.txState = .live) → srcBank u m (pktSpan m m.next).1 (pktSpan m m.next).2 = none →
    (carries m → srcRead u m (pktSpan m m.next).1 (pktSpan m m.next).2 = .ok bytes) →
    (∀ ks, ownerShaper u m.owner peer = some ks → shaperOpen u ks m.fn m.tc = true) →
    ∃ t k o, exec (.packetTransmit peer draw) s = .next t ∧ ctxOf t peer = some k ∧ k.txNext = c.txNext + 1 ∧
      k.outs = c.outs ++ [o] ∧ o.seq = c.txNext ∧ o.msgId = m.msgId ∧ o.index = m.next ∧ o.sends = 1 ∧
      k.cc.tokens = c.cc.tokens - Int.ofNat o.charged ∧
      k.msgs = c.msgs.map (fun x => if x.msgId = m.msgId then { x with next := m.next + 1, lastSeq := c.txNext } else x)) ∧
  (
  (∀ (peer seq : W32) (o : OutPkt) (s : State), outOf s peer seq = some o → o.resend = false → isReady s = true →
    exec (.retransmitTimeout peer seq) s = .next (resendNow peer [seq]
      (modCtx peer (fun c => losePath o.path { c with outs := timedOut (timerN s 4 o.firstSent) seq c.outs })
        (ccEcho peer (touchCtx peer (bump 0x9041 0x0A 1 (advanceTo (o.lastSent + o.timeout) s))))))) ∧
  (∀ (peer q : W32) (t0 : Nat) (c : Ctx) (s : State), ctxOf s peer = some c → c.rnrUntil = some (q, t0) →
    (isReady s = false → ∃ t k, exec (.rnrBackoffExpiry peer) s = .next t ∧ ctxOf t peer = some k ∧ k.rnrUntil = none ∧
      k.outs = c.outs.map (fun o => { o with rnrWait := false }) ∧ t.now = max s.now t0) ∧
    (∀ r seqs, isReady s = true → lowestWaiting c = some r →
      seqs = (c.outs.filter (fun o => decide (0 ≤ sdist o.seq r))).map (fun o => o.seq) →
      exec (.rnrBackoffExpiry peer) s = .next (resendNow peer seqs (flagResend peer seqs (setCtx peer { c with
        rnrUntil := none, outs := c.outs.map (fun o => { o with rnrWait := false }) } (advanceTo t0 s))))) ∧
    (isReady s = true → c.outs = [] → ∃ t k, exec (.rnrBackoffExpiry peer) s = .next t ∧ ctxOf t peer = some k ∧
      k.rnrUntil = none ∧ t.now = max s.now t0)))

/-- GIVE_UP_EXPIRY and RESPONSE_GIVE_UP (R41, R131, R136): the entry whose packet, or whose response, has not come within the
give-up time ends with TRANSPORT_TIMEOUT, or with RECEIVER_NOT_READY_GIVEUP where the packet's last answer was an RNR, and its
queue is in ERROR. OPENING_GIVE_UP and ABORT_GIVE_UP (R119, R139): an opening that no answer came to leaves its context unopened
with nothing outstanding, and what it carried fails; an ABORT that reaches the give-up time breaks its context, what was
outstanding on it ends, and the next send opens it again. -/
def Obligations.GiveUpsEndWhatWaits : Prop :=
  (
  (∀ (peer seq : W32) (o : OutPkt) (c : Ctx) (m : TxMsg) (q : QRef) (idx : Nat) (u : Taken) (s : State),
    outOf s peer seq = some o → ctxOf s peer = some c → o.abort = none → c.st = .opened → isReady s = true →
    isLine peer = false → (c.msgs.filter (fun m => m.msgId == o.msgId && m.ptype != .abort)).head? = some m →
    m.owner = .entry q idx →
    exec (.giveUpExpiry peer seq) s = .next (complete q idx (if o.lastRnr then stRnrGiveup else stTimeout) 0 0
      (bump 0x9041 0x11 1 (advanceTo (o.firstSent + timerN s 2 o.firstSent) s))) ∧
    (takenAt? s q idx = some u → (queueOf s q).st = .active → (queueOf s q).closing = false →
      ∃ t, exec (.giveUpExpiry peer seq) s = .next t ∧ Ended t q idx ∧ (queueOf t q).st = .error)) ∧
  (∀ (peer msgId : W32) (r : PendReq) (c : Ctx) (q : QRef) (idx : Nat) (u : Taken) (s : State),
    ctxOf s peer = some c → (c.reqs.filter (fun r => r.msgId == msgId)).head? = some r → r.acked = true → isReady s = true →
    r.owner = .entry q idx →
    exec (.responseGiveUp peer msgId) s = .next (complete q idx stTimeout 0 0
      (bump 0x9041 0x11 1 (advanceTo (r.since + timerN s 2 r.since) s))) ∧
    (takenAt? s q idx = some u → (queueOf s q).st = .active → (queueOf s q).closing = false →
      ∃ t, exec (.responseGiveUp peer msgId) s = .next t ∧ Ended t q idx ∧ (queueOf t q).st = .error))) ∧
  (
  (∀ (peer : W32) (o : OutPkt) (outs : List OutPkt) (c : Ctx) (s : State), ctxOf s peer = some c → c.st = .opening →
    c.outs = o :: outs → isReady s = true → isLine peer = false →
    (∀ m, (c.msgs.filter (fun m => m.msgId == o.msgId)).head? = some m →
      exec (.openingGiveUp peer) s = .next (failOwner m.owner (if o.lastRnr then stRnrGiveup else stTimeout) 0 0 (bump 0x9041 0x11 1
        (setCtx peer { c with st := .unopened, outs := [], rnrUntil := none, memberAcks := [] }
          (advanceTo (o.firstSent + timerN s 2 o.firstSent) s))))) ∧
    (c.msgs = [] → ∃ t k, exec (.openingGiveUp peer) s = .next t ∧ ctxOf t peer = some k ∧ k.st = .unopened ∧ k.outs = [] ∧
      k.rnrUntil = none ∧ t.now = max s.now (o.firstSent + timerN s 2 o.firstSent))) ∧
  (∀ (peer seq : W32) (o : OutPkt) (c : Ctx) (s : State), ctxOf s peer = some c → outOf s peer seq = some o →
    o.abort.isSome = true → o.abortSent = true → isReady s = true →
    exec (.abortGiveUp peer seq) s = .next (endOutstanding peer stTimeout 0 true (setCtx peer { c with st := .unopened }
      (bump 0x9041 0x0E 1 (advanceTo (o.firstSent + timerN s 2 o.firstSent) s)))) ∧
    (c.reqs = [] → c.msgs = [] →
      ∃ t k, exec (.abortGiveUp peer seq) s = .next t ∧ ctxOf t peer = some k ∧ k.st = .unopened ∧ k.outs = [] ∧
        t.now = max s.now (o.firstSent + timerN s 2 o.firstSent))))

/-- ACK_DELAY_EXPIRY, CONTEXT_PERIODIC_TOUCH and PACING_TOUCH (R130, R157, R158): after the ack delay what is unreported is
acknowledged; a touch brings one context's rate, weights and bucket up to now and no other context. CONTEXT_FETCH_COMPLETE,
BANKER_WAIT_EXPIRY and TALLY_CONTEXT_AVAILABLE (R116, R117, R141, R142): a fetched context or QP is on chip; the packet that
waited longest leaves the banker; an entry that waited for a context is sent, its messages queued. -/
def Obligations.ContextTimersAndFetches : Prop :=
  (
  (∀ (peer : W32) (c : Ctx) (s : State), ctxOf s peer = some c → c.unreported ≠ 0 → isReady s = true →
    exec (.ackDelayExpiry peer) s = .next (ackNow peer (advanceTo (c.unreportedAt + timerN s 7 c.unreportedAt) s)) ∧
    ∃ k, ctxOf (ackNow peer (advanceTo (c.unreportedAt + timerN s 7 c.unreportedAt) s)) peer = some k ∧ k.unreported = 0) ∧
  (∀ (peer : W32) (c : Ctx) (s : State), ctxOf s peer = some c → c.onChip = true →
    ∃ t, exec (.contextPeriodicTouch peer) s = .next t ∧ ctxOf t peer = some (ccTouch s c) ∧
      (∀ r, r ≠ peer → ctxOf t r = ctxOf s r) ∧ t.mems = s.mems) ∧
  (∀ (peer : W32) (c : Ctx) (s : State), ctxOf s peer = some c → c.onChip = true → ctxWaits s peer c = true →
    ∃ t, exec (.pacingTouch peer) s = .next t ∧ ctxOf t peer = some (ccTouch s c) ∧
      (∀ r, r ≠ peer → ctxOf t r = ctxOf s r) ∧ t.mems = s.mems)) ∧
  (
  (∀ (ks : Nat) (peer : W32) (c : Ctx) (r : ScrubResult) (s : State), ctxOf s peer = some c → c.onChip = false →
    r ≠ .uncorrectable → s.enpin.banker0 = [] → s.enpin.banker1 = [] → chipRoom s c.home = true →
    ∃ t k, exec (.contextFetchComplete ks peer none r) s = .next t ∧ ctxOf t peer = some k ∧ k.onChip = true ∧ t.mems = s.mems) ∧
  (∀ (ks : Nat) (peer : W32) (qp : Nat) (r : ScrubResult) (s : State), r ≠ .uncorrectable → hostOk s = true →
    s.enpin.banker0 = [] → s.enpin.banker1 = [] →
    ∃ t, exec (.contextFetchComplete ks peer (some qp) r) s = .next t ∧ qp ∈ t.enpin.qpOnChip ∧ t.mems = s.mems) ∧
  (∀ (ks : Nat) (peer seq : W32) (x : Parked) (rest : List Parked) (s : State), bankerOf s (ks % 2) = x :: rest →
    ctxPeer x.pkt = peer → x.pkt.seq = seq →
    ∃ t, exec (.bankerWaitExpiry ks peer seq) s = .next t ∧ bankerOf t (ks % 2) = rest ∧
      t.now = max s.now (x.at_ + timerN s 0x0A x.at_) ∧ t.mems = s.mems) ∧
  (∀ (q : QRef) (idx : Nat) (u : Taken) (s : State), takenAt? s q idx = some u → u.waitsContext = true →
    exec (.tallyContextAvailable q idx) s = .next (if eOp u.entry = 0x07 then sendMulticast q idx u.entry s
      else sendEntry q idx u.entry s) ∧
    (∀ k, eOp u.entry = 0x01 → destReady s (eDest u.entry) = true → ctxOf s (eDest u.entry) = some k →
      0 < segmentSize s k.ethForm →
      ∃ t k' m u', exec (.tallyContextAvailable q idx) s = .next t ∧ ctxOf t (eDest u.entry) = some k' ∧
        k'.msgs.getLast? = some m ∧ m.owner = .entry q idx ∧ m.start + m.len = eLength u.entry ∧
        takenAt? t q idx = some u' ∧ u'.waitsContext = false)))

/-- SHAPER_TICK (R163, R165): at the next whole microsecond every shaper loads what software wrote, its credit within the
written bounds, or 0 where it is just enabled; one whose slope is not 0 then moves its credit by the code of R163: up to the
high bound while something waits for it, else towards 0. TELEMETRY_ENABLE and TELEMETRY_SAMPLE (R167, R170, R171): a valid
enable starts the ring from record 0 at phase 1; a sample falls at the next whole multiple of the interval, and a sample that a
full ring cannot take is lost and counted. -/
def Obligations.ShapersTickAndTelemetrySamples : Prop :=
  (
  ∀ (s u : State), u = advanceTo ((s.now / 1000 + 1) * 1000) s →
    ∃ t, exec .shaperTick s = .next t ∧ t.now = (s.now / 1000 + 1) * 1000 ∧
    t.shapers.map Prod.fst = s.shapers.map Prod.fst ∧ t.mems = s.mems ∧ t.fns = s.fns ∧ t.enpin = s.enpin ∧
    (∀ key h (c : Int), tfind s.shapers key = some h →
      c = (if h.slope = 0 ∧ h.wSlope ≠ 0 then 0 else max (-(Int.ofNat (8 * h.wLo))) (min (Int.ofNat (8 * h.wHi)) h.credit)) →
      ∃ h', tfind t.shapers key = some h' ∧ h'.slope = h.wSlope ∧ h'.hi = h.wHi ∧ h'.lo = h.wLo ∧ h'.active = false ∧
        h'.stat = h'.credit ∧ (h.wSlope = 0 → h'.credit = c) ∧
        (h.wSlope ≠ 0 → (h.active || shaperHeld u (key / 8 / 2048) (key / 8 % 2048) (key % 8) || classPaused u (key % 8)) = true →
          h'.credit = min (Int.ofNat (8 * h.wHi)) (c + Int.ofNat h.wSlope)) ∧
        (h.wSlope ≠ 0 → (h.active || shaperHeld u (key / 8 / 2048) (key / 8 % 2048) (key % 8) || classPaused u (key % 8)) = false →
          h'.credit = if 0 < c then 0 else min 0 (c + Int.ofNat h.wSlope)))) ∧
  (
  (∀ (fn : Nat) (v : W32) (s : State), barOpen s fn = true → bitOf v.toNat 6 = true → (fnOf s fn).telem.enable = false →
    6 ≤ v.toNat % 32 → v.toNat % 32 ≤ 16 → bitOf v.toNat 5 = false → (fnOf s fn).telem.count ≤ 64 →
    ringSram (BitVec.ofNat 32 (v.toNat % 32)) = false → ringLog2 (BitVec.ofNat 32 (v.toNat % 32)) = v.toNat % 32 →
    ∃ t, exec (.telemetryEnable fn v) s = .next t ∧ (fnOf t fn).telem.enable = true ∧ (fnOf t fn).telem.ring.prod = 0 ∧
      (fnOf t fn).telem.ring.phase = true ∧ (fnOf t fn).telem.intervalM1 = fieldOf v.toNat 8 8 ∧ t.mems = s.mems) ∧
  (∀ (fn : Nat) (s : State), (fnOf s fn).telem.enable = true →
    ∃ t, exec (.telemetrySample fn) s = .next t ∧ t.now = (s.now / telemInterval s fn + 1) * telemInterval s fn ∧
      ((fnOf s fn).telem.count = 1 → (fnOf s fn).telem.ports = false → telemRoom s fn = false →
        tget 0 (fnOf t fn).telem.skipped (fnOf s fn).telem.first =
          tget 0 (fnOf s fn).telem.skipped (fnOf s fn).telem.first + 1 ∧ t.mems = s.mems)))

namespace Sys2Proof.Obl

/-- The bytes that a LOCAL_COPY copies next: up to the next page boundary of its source or its destination (R303). -/
def pieceLen (e : Entry) (copied : Nat) : Nat :=
  min (eLength e - copied) (min (pageBytes - (eLocal e + copied) % pageBytes) (pageBytes - (eOffset e + copied) % pageBytes))

/-- The state in which a piece of a LOCAL_COPY is copied: both its pages translated. -/
def atPiece (q : QRef) (e : Entry) (copied : Nat) (s : State) : State :=
  vtouch (ksAgent (queueKs s q)) (queueFn q) (eOffset e + copied) (pieceLen e copied)
    (vtouch (ksAgent (queueKs s q)) (queueFn q) (eLocal e + copied) (pieceLen e copied) s)

end Sys2Proof.Obl

/-- LOCAL_COPY (R303): a ready copy whose two ranges it may use is copied page by page: a piece whose two pages are resident
puts the source's bytes at the destination; when all of them are copied the entry ends OK. WAIT_COUNT and FENCE (R37, R44): a
ready WAIT_COUNT whose counter is at or past its target ends OK, and so does a ready FENCE when no earlier entry of its queue is
in progress; until then each stays at its queue's head, with the hold that names why. -/
def Obligations.LocalEntriesHoldOrEnd : Prop :=
  (
  (∀ (q : QRef) (e : Entry) (s : State), eOp e = 0x0A → Ready s q e →
    xlateRights s (queueFn q) (eLocal e) (eLength e) false = .ok → xlateRights s (queueFn q) (eOffset e) (eLength e) true = .ok →
    exec (.localCopy q e) s =
      .next (copyOn q (queueOf s q).head e (2 * (eLength e / pageBytes) + 4) (advanceHead e q s))) ∧
  (∀ (q : QRef) (idx fuel : Nat) (e : Entry) (t : Taken) (b : List Byte) (s : State), takenAt? s q idx = some t →
    (eLength e ≤ t.copied → copyOn q idx e (fuel + 1) s = completeOk q idx s) ∧
    (t.copied < eLength e →
      xlate s (queueFn q) (eLocal e + t.copied) (pieceLen e t.copied) false = .ok →
      xlate s (queueFn q) (eOffset e + t.copied) (pieceLen e t.copied) true = .ok →
      getVa (atPiece q e t.copied s) (queueFn q) (eLocal e + t.copied) (pieceLen e t.copied) = .ok b →
      copyOn q idx e (fuel + 1) s = copyOn q idx e fuel (setCopied q idx (t.copied + pieceLen e t.copied)
        (vwrite (queueFn q) (eOffset e + t.copied) b (atPiece q e t.copied s))))) ∧
  (∀ (q : QRef) (e : Entry) (b : List Byte) (s u : State), eOp e = 0x0A → Ready s q e → pieceLen e 0 = eLength e →
    0 < eLength e → u = advanceHead e q s →
    xlateRights s (queueFn q) (eLocal e) (eLength e) false = .ok → xlateRights s (queueFn q) (eOffset e) (eLength e) true = .ok →
    xlate u (queueFn q) (eLocal e) (eLength e) false = .ok → xlate u (queueFn q) (eOffset e) (eLength e) true = .ok →
    getVa (atPiece q e 0 u) (queueFn q) (eLocal e) (eLength e) = .ok b →
    ∃ t, exec (.localCopy q e) s = .next t ∧ EndedOk s t (setCopied q (queueOf s q).head (eLength e)
      (vwrite (queueFn q) (eOffset e) b (atPiece q e 0 u))) q)) ∧
  (
  (∀ (q : QRef) (e : Entry) (s : State), eOp e = 0x08 → Ready s q e →
    (counterReached (counterOf s (queueFn q) (eCounter e)) (eTarget e) = true →
      exec (.waitCount q e) s = .next (completeOk q (queueOf s q).head (advanceHead e q s)) ∧
      ∃ t, exec (.waitCount q e) s = .next t ∧ HeadMoved s t q ∧ Ended t q (queueOf s q).head ∧ t.enpin = s.enpin ∧ t.keys = s.keys) ∧
    (counterReached (counterOf s (queueFn q) (eCounter e)) (eTarget e) = false →
      ∃ t, exec (.waitCount q e) s = .next t ∧ (queueOf t q).head = (queueOf s q).head ∧ (queueOf t q).hold = .waitCount ∧
        (queueOf t q).heldEntry = some e ∧ (queueOf t q).taken = (queueOf s q).taken ∧ t.enpin = s.enpin ∧ t.mems = s.mems)) ∧
  (∀ (q : QRef) (e : Entry) (s : State), eOp e = 0x09 → Ready s q e →
    ((queueOf s q).taken.all (fun u => u.status.isSome) = true →
      exec (.fence q e) s = .next (completeOk q (queueOf s q).head (advanceHead e q s)) ∧
      ∃ t, exec (.fence q e) s = .next t ∧ HeadMoved s t q ∧ Ended t q (queueOf s q).head ∧ t.enpin = s.enpin ∧ t.keys = s.keys) ∧
    ((queueOf s q).taken.all (fun u => u.status.isSome) = false →
      ∃ t, exec (.fence q e) s = .next t ∧ (queueOf t q).head = (queueOf s q).head ∧ (queueOf t q).hold = .fence ∧
        (queueOf t q).heldEntry = some e ∧ (queueOf t q).taken = (queueOf s q).taken ∧ t.enpin = s.enpin ∧ t.mems = s.mems)))

/-- MULTICAST_WRITE, LINE_CONTEXT_REOPEN and CONTEXT_WAIT_GIVE_UP (R41, R109, R117, R198 to R201). A multicast to a line that has a live
position joins the context of its line; a line that has a live position which is no member opens again, with an opening whose bitmap is
empty; an entry for which no context came free, or no port was usable, ends with TRANSPORT_TIMEOUT and puts its queue in ERROR. -/
def Obligations.MulticastUsesItsLine : Prop :=
  (∀ (q : QRef) (e : Entry) (k : Ctx) (s : State), eOp e = 0x07 → Ready s q e →
    xlateRights s (queueFn q) (eLocal e) (eLength e) false = .ok → (linePositions s (eAxis e)).isEmpty = false →
    ctxOf s (lineId s (eAxis e)) = some k → 0 < segmentSize s k.ethForm →
    ∃ t k' m, exec (.multicastWrite q e) s = .next t ∧ HeadMoved s t q ∧ InProgress t q (queueOf s q).head e ∧
      ctxOf t (lineId s (eAxis e)) = some k' ∧ k'.msgs.getLast? = some m ∧ m.owner = .entry q (queueOf s q).head ∧
      m.start + m.len = eLength e ∧ m.sig = (if eSignalled e then some (eSignal e) else none) ∧
      m.ext = .multicast (eKey e) (BitVec.ofNat 64 (eOffset e)) (globalQp s q) (eAxis e) (eBitmap e) ∧ t.mems = s.mems) ∧
  (∀ (axis : Nat) (c : Ctx) (s : State), ctxOf s (lineId s (axis % 2)) = some c → c.st = .opened → c.outs = [] →
    (linePositions s (axis % 2)).any (fun n => !(bitOf c.members.toNat n)) = true →
    ∃ t k m, exec (.lineContextReopen axis) s = .next t ∧ ctxOf t (lineId s (axis % 2)) = some k ∧ k.st = .opening ∧
      k.members = 0 ∧ k.outs = [] ∧ k.msgs = m :: c.msgs ∧ m.len = 0 ∧ m.ext = .multicast 0 0 0 (lineAxis (lineId s (axis % 2))) 0 ∧ m.msgId = c.msgNext ∧ m.owner = .none ∧
      1 ≤ k.epoch ∧ k.epoch ≤ 255 ∧ t.mems = s.mems) ∧
  (∀ (q : QRef) (idx : Nat) (u : Taken) (s : State), takenAt? s q idx = some u →
    u.waitsContext = true ∨ portWaits s q u = true →
    exec (.contextWaitGiveUp q idx) s = .next (complete q idx stTimeout 0 0 (advanceTo (u.takenAt + timerN s 2 u.takenAt) s)) ∧
    (isFatal s = false → (queueOf s q).st = .active → (queueOf s q).closing = false →
      ∃ t, exec (.contextWaitGiveUp q idx) s = .next t ∧ Ended t q idx ∧ (queueOf t q).st = .error))

namespace Sys2Proof.Obl

/-- A 64-bit counter of the Ledger. -/
def count (s : State) (index sub : Nat) : W64 := tget 0 s.ledger.counters (index * 256 + sub)

end Sys2Proof.Obl

/-- BOND_LINK_TRAINED, IDLE_FLIT_SEND and IDLE_FLIT_RECEIVE (R177 to R179, R182). An enabled link that has trained waits for
eight good idle flits; the eighth brings it up, a flit that names the wrong far link holds it down; what this module sends tells
its identity and the buffers it has freed, in the 320 bytes of R177. BOND_IDLE_TIMEOUT, BOND_FEC_ERROR_LIMIT,
BOND_GOING_DOWN_EXPIRY and BOND_ENABLE_WRITE (R179). An up link that hears no idle flit, or meets the error limit, or has been
going down for its 2 µs, goes down: the frames queued to it are dropped, the fault log names it, the module announces the change
and the wall map's change takes effect. A link that is disabled while it is up goes into its 2 µs of going down. -/
def Obligations.LinksComeAndGo : Prop :=
  (
  (∀ (link : Nat) (s : State), (linkOf s link).st = .down → ledN s 0x3201 (link + 1) = 1 → s.board.clk156 = true →
    s.board.supply = true →
    ∃ t, exec (.bondLinkTrained link) s = .next t ∧ (linkOf t link).st = .training 0 ∧ (linkOf t link).held = false ∧
      (∀ c, creditFree (linkOf t link) c = classBuffers c) ∧ (∀ l, l ≠ link → linkOf t l = linkOf s l) ∧ t.mems = s.mems) ∧
  (∀ (link : Nat) (s : State), (linkOf s link).st ≠ .down →
    ∃ t i, exec (.idleFlitSend link) s = .next t ∧ t.out = .idle link (idleBytes i) :: s.out ∧ i.module = ownId s ∧
      i.link = link ∧ i.freed = (linkOf s link).ours ∧ i.goingDown = ((linkOf s link).st == .goingDown) ∧
      i.posValid = s.wall.pos.isSome ∧ linkOf t link = { linkOf s link with owed := List.replicate 15 0 } ∧
      (∀ l, l ≠ link → linkOf t l = linkOf s l) ∧ t.wall.frames = s.wall.frames ∧ t.mems = s.mems) ∧
  (∀ (link n : Nat) (bytes : List Byte) (i : IdleFlit) (s : State), i = parseIdle bytes → (linkOf s link).st = .training n →
    i.link = partnerLink link → s.wall.pos.isSome = true → flitAgrees s link i = true → i.goingDown = false →
    linkUnused s link = false →
    (n + 1 < 8 → ∃ t, exec (.idleFlitReceive link bytes) s = .next t ∧ (linkOf t link).st = .training (n + 1) ∧
      (linkOf t link).lastIdleAt = s.now ∧ t.mems = s.mems) ∧
    (n + 1 = 8 → ∃ u, exec (.idleFlitReceive link bytes) s = .next (wallChanged (announceNow u)) ∧ (linkOf u link).st = .up)) ∧
  (∀ (link n : Nat) (bytes : List Byte) (s : State), (linkOf s link).st = .training n →
    (parseIdle bytes).link ≠ partnerLink link →
    ∃ t, exec (.idleFlitReceive link bytes) s = .next t ∧ (linkOf t link).st = .down ∧ (linkOf t link).held = true ∧
      count t (0x9031 + link) 8 = count s (0x9031 + link) 8 + 1 ∧ t.mems = s.mems)) ∧
  (
  (∀ (link uncounted : Nat) (s : State) (c : Instr),
    (c = .bondIdleTimeout link ∧ (linkOf s link).st = .up) ∨ (c = .bondFecErrorLimit ⟨link, uncounted⟩ ∧ (linkOf s link).st = .up) ∨
      (c = .bondGoingDownExpiry link ∧ (linkOf s link).st = .goingDown) →
    ∃ u r, exec c s = .next (fencesDone (wallChanged (announceNow u))) ∧ (linkOf u link).st = .down ∧
      u.board.faultLog.getLast? = some r ∧ r.cls = 4 ∧ r.code = 0x62 ∧ r.unit = link ∧
      (∀ x ∈ u.wall.frames, x.out ≠ some link)) ∧
  (∀ (link value : Nat) (s : State),
    (value % 2 = 1 → ∃ t, exec (.bondEnableWrite link value) s = .next t ∧ ledN t 0x3201 (link + 1) = 1 ∧ t.wall = s.wall ∧
      t.mems = s.mems) ∧
    (value % 2 = 0 → (linkOf s link).st = .up →
      ∃ u, exec (.bondEnableWrite link value) s = .next (wallChanged u) ∧ ledN u 0x3201 (link + 1) = 0 ∧
        (linkOf u link).st = .goingDown)))

/-- BOND_FRAME_RECEIVE and BOND_FRAME_SEND (R174 to R176, R178, R181, R186, R189). A frame's codewords are counted; a bad or stomped
frame of which nothing has gone on is counted and ends, one of which part has gone on leaves with the inverse of its CRC; a good packet
for this module goes to the internal port of the Keystone whose link it came on, one for another module waits in the router; a link
that is not up takes no frame. The first frame in the output's order, when it may go on the VC that is granted, leaves, spends its
credit and is counted. -/
def Obligations.FramesPassTheRouter : Prop :=
  (∀ (link corrected lost : Nat) (begun : Bool) (ctl : List (BitVec 20)) (bytes : List Byte) (s : State), linkLive s link = false →
    exec (.bondFrameReceive link ⟨ctl, bytes⟩ ⟨corrected, lost, begun⟩) s = .next s) ∧
  (∀ (link corrected lost : Nat) (ctl : List (BitVec 20)) (bytes : List Byte) (s : State), linkLive s link = true →
    (frameFate ctl lost bytes = .bad →
      ∃ t, exec (.bondFrameReceive link ⟨ctl, bytes⟩ ⟨corrected, lost, false⟩) s = .next t ∧
        count t (0x9031 + link) 1 = count s (0x9031 + link) 1 + 1 ∧ count t (0x9031 + link) 3 = count s (0x9031 + link) 3 + 1 ∧
        count t (0x9031 + link) 5 = count s (0x9031 + link) 5 + BitVec.ofNat 64 corrected ∧
        count t (0x9031 + link) 6 = count s (0x9031 + link) 6 + BitVec.ofNat 64 lost ∧
        t.wall.frames = s.wall.frames ∧ t.eth = s.eth ∧ t.mems = s.mems) ∧
    (frameFate ctl lost bytes = .stomped →
      ∃ t, exec (.bondFrameReceive link ⟨ctl, bytes⟩ ⟨corrected, lost, false⟩) s = .next t ∧
        count t (0x9031 + link) 4 = count s (0x9031 + link) 4 + 1 ∧ t.wall.frames = s.wall.frames ∧ t.eth = s.eth ∧
        t.mems = s.mems) ∧
    (∀ (u v : State), frameFate ctl lost bytes = .bad →
      u = bump (0x9031 + link) 1 1 (modLink link (fun l => ctl.foldl (fun x c => takeReturn c x) l)
        (bump (0x9031 + link) 5 corrected (bump (0x9031 + link) 6 lost s))) →
      stompOn link (parseBond bytes) u = some v →
      exec (.bondFrameReceive link ⟨ctl, bytes⟩ ⟨corrected, lost, true⟩) s = .next v ∧
        ∃ l c g, Output.bond l c (stompedBytes g) ∈ v.out) ∧
    (∀ (f : BondFrame) (p : Packet) (begun : Bool), f = parseBond bytes → frameFate ctl lost bytes = .good → f.content = .packet p →
      f.multicast = false → oneHop f p = false → f.vc ≠ 4 → s.wall.pos.isSome = true → inWall s f.dst = true →
      (s.wall.pos = some (frameDest f.dst) →
        ∃ t, exec (.bondFrameReceive link ⟨ctl, bytes⟩ ⟨corrected, lost, begun⟩) s = .next t ∧ t.wall.frames = s.wall.frames ∧
          t.eth.internal = s.eth.internal ++ [({ ks := linkKs link, link := some link, marked := f.mark }, p)] ∧
          t.mems = s.mems) ∧
      (s.wall.pos ≠ some (frameDest f.dst) → destDown s f.dst = false →
        ∃ t r, exec (.bondFrameReceive link ⟨ctl, bytes⟩ ⟨corrected, lost, begun⟩) s = .next t ∧ t.wall.frames = s.wall.frames ++ [r] ∧
          r.f.content = .packet p ∧ r.f.dst = f.dst ∧ r.inLink = some link ∧ t.eth = s.eth ∧ t.mems = s.mems))) ∧
  (∀ (link vc : Nat) (r : RFrame) (rest : List RFrame) (f : BondFrame) (escape : Bool) (s : State), linkLive s link = true →
    granted s link vc = true → sendOrder s = r :: rest → offerFrame s link vc r = .go f escape →
    ∃ u g ctl, exec (.bondFrameSend link vc) s = .next (fencesDone (foldS liftOn s.wall.circuits u)) ∧
      (g = f ∨ g = { f with mark := true }) ∧ u.out = .bond link ctl (bondBytes g) :: s.out ∧
      u.wall.frames = dropFirst r s.wall.frames ∧ count u (0x9031 + link) 2 = count s (0x9031 + link) 2 + 1 ∧
      (linkOf u link).freed = (linkOf s link).freed ∧
      (linkOf u link).sent = setNth (linkOf s link).sent (frameClass f)
        ((nthD 0 (linkOf s link).sent (frameClass f) + flitsOf r.bytes) % 65536))

/-- The course of a lay that waits for its far end (R192, R193). -/
def Sys2Proof.Obl.layingCourse (s : State) (q : QRef) (e : Entry) : Course :=
  { handle := BitVec.ofNat 32 s.wall.nextHandle, dest := eDest e, qp := eDestQp e, slots := ef e 44 1,
    waiter := some (q, (queueOf s q).head, BitVec.ofNat 64 (eLocal e)) }

/-- CIRCUIT_LAY, CIRCUIT_CONTROL_RECEIVE and CIRCUIT_LAY_ANSWER (R191 to R193). A lay reserves its slots here and waits for the
far end; a lay that reaches its destination is answered; the answer lays the circuit, a refusal frees it. CIRCUIT_LIFT and
CIRCUIT_LIFT_ANSWER (R195): a lift unbinds the circuit and waits for the far end; its answer frees the circuit and ends the
entry OK; a lift that names no circuit ends OK at once. -/
def Obligations.CircuitsAreLaidAndLifted : Prop :=
  (
  (∀ (q : QRef) (e : Entry) (here : Nat × Nat) (h : HeldAnnounce) (dx dy l n : Nat) (s : State), eOp e = 0x92 → Ready s q e →
    xlate s (queueFn q) (eLocal e) 16 true = .ok → s.wall.pos = some here → tfind s.wall.anns (eDest e).toNat = some h →
    s.wall.courses.any (fun c => c.bound && c.qp == eDestQp e && c.dest == eDest e) = false →
    (if here.1 = (frameDest (eDest e)).1 then some 0
      else plumbLeg s true here ((frameDest (eDest e)).1, here.2)) = some dx →
    (if here.2 = (frameDest (eDest e)).2 then some 3
      else plumbLeg s false ((frameDest (eDest e)).1, here.2) (frameDest (eDest e))) = some dy →
    circuitOut s (eDest e) dx dy = some l → slotsUsed s l + ef e 44 1 ≤ ledN s 0x3210 3 → freeVcQueue s l = some n →
    (∀ k : Circuit, k.source = ownId s → k.dest = eDest e → k.dx = dx → k.dy = dy → pathOpen s k = true) →
    ∃ t k, exec (.circuitLay q e) s = .next t ∧ HeadMoved s t q ∧ InProgress t q (queueOf s q).head e ∧
      t.wall.circuits = s.wall.circuits ++ [k] ∧ k.outLink = some l ∧ k.slots = ef e 44 1 ∧ k.outQueue = n ∧ k.inLink = none ∧
      k.places = placeSlots (ef e 44 1) (ef e 44 1) (slotsHeld s l) ∧
      t.wall.courses = s.wall.courses ++ [layingCourse s q e] ∧ t.mems = s.mems) ∧
  (∀ (link : Nat) (c : CircuitCtl) (s : State), linkUp s link = true → c.phase = .lay → circuitAt s c = none →
    c.dest = ownId s →
    ∃ t k r, exec (.circuitControlReceive link c) s = .next t ∧ t.wall.circuits = s.wall.circuits ++ [k] ∧
      k.handle = c.handle ∧ k.inLink = some link ∧ k.outLink = none ∧ k.queue = c.queue ∧
      t.wall.frames = s.wall.frames ++ [r] ∧ r.out = some link ∧ r.f.content = .circuit { c with phase := .laid } ∧
      t.mems = s.mems) ∧
  (∀ (link : Nat) (c : CircuitCtl) (x : Course) (q : QRef) (idx : Nat) (va : W64) (s : State), linkUp s link = true →
    c.source = ownId s → (s.wall.courses.filter (fun y => y.handle == c.handle)).head? = some x → x.laid = false →
    x.waiter = some (q, idx, va) →
    (c.phase = .laid → ∃ u y, exec (.circuitLayAnswer link c) s = .next (putResult q idx va (layBlock c.handle 0 0) u) ∧
      y ∈ u.wall.courses ∧ y.handle = c.handle ∧ y.laid = true ∧ y.bound = true) ∧
    (∀ cause, c.phase = .refused cause →
      ∃ u, exec (.circuitLayAnswer link c) s = .next (putResult q idx va (layBlock 0 cause c.refusedAt) u) ∧
        (∀ y ∈ u.wall.courses, y.handle ≠ c.handle) ∧ (∀ k ∈ u.wall.circuits, k.handle = c.handle → k.source ≠ ownId s)))) ∧
  (
  (∀ (q : QRef) (e : Entry) (s : State), eOp e = 0x93 → Ready s q e →
    (∀ x, (s.wall.courses.filter (fun x => x.handle == eKey e && x.laid && x.waiter.isNone)).head? = some x → x.broken = false →
      ∃ t y, exec (.circuitLift q e) s = .next t ∧ HeadMoved s t q ∧ InProgress t q (queueOf s q).head e ∧
        y ∈ t.wall.courses ∧ y.handle = eKey e ∧ y.bound = false ∧ y.waiter = some (q, (queueOf s q).head, 0) ∧
        t.mems = s.mems) ∧
    ((s.wall.courses.filter (fun x => x.handle == eKey e && x.laid && x.waiter.isNone)).head? = none →
      ∃ t, exec (.circuitLift q e) s = .next t ∧ EndedOk s t (advanceHead e q s) q)) ∧
  (∀ (link : Nat) (c : CircuitCtl) (x : Course) (q : QRef) (idx : Nat) (va : W64) (s : State), linkUp s link = true →
    c.source = ownId s → c.phase = .lifted → (s.wall.courses.filter (fun x => x.handle == c.handle && x.laid)).head? = some x →
    x.waiter = some (q, idx, va) →
    ∃ u, exec (.circuitLiftAnswer link c) s = .next (completeOk q idx u) ∧ (∀ y ∈ u.wall.courses, y.handle ≠ c.handle) ∧
      (∀ k ∈ u.wall.circuits, k.handle = c.handle → k.source ≠ ownId s)))

/-- ANNOUNCEMENT_RECEIVE, ANNOUNCE_PERIODIC and ANNOUNCEMENT_STALE (R184): a newer announcement is held and passed on; the
module's own carries the next sequence number; one older than 300 ms counts its module as fenced. FENCE_MODULE and
UNFENCE_MODULE (R197): the module is fenced, or no longer; it announces so, and the entry waits until the announcement has left;
once none of its announcements waits in the router, the entries that waited end OK. -/
def Obligations.AnnouncementsAndFences : Prop :=
  (
  (∀ (link : Nat) (bytes : List Byte) (a : Announce) (s : State), a = parseAnnounce bytes → linkLive s link = true →
    a.origin ≠ ownId s →
    ((∀ h, tfind s.wall.anns a.origin.toNat = some h → h.a.nonce ≠ a.nonce ∨ ahead16 a.aseq h.a.aseq = true) →
      ∃ u, exec (.announcementReceive link bytes) s = .next (wallChanged (flood a (some link) u)) ∧
        tfind u.wall.anns a.origin.toNat = some { a := a, at_ := s.now }) ∧
    (∀ h, tfind s.wall.anns a.origin.toNat = some h → h.a.nonce = a.nonce → ahead16 a.aseq h.a.aseq = false →
      exec (.announcementReceive link bytes) s = .next s)) ∧
  (∀ (s : State), s.wall.pos.isSome = true →
    ∃ t, exec .announcePeriodic s = .next t ∧ t.wall.aseq = s.wall.aseq + 1 ∧ t.wall.anns = s.wall.anns ∧
      t.wall.links = s.wall.links ∧ t.mems = s.mems) ∧
  (∀ (x y : Nat) (h : HeldAnnounce) (s : State), mkId s.wall.wallNumber x y ≠ ownId s →
    tfind s.wall.anns (mkId s.wall.wallNumber x y).toNat = some h →
    ∃ u, exec (.announcementStale (mkId s.wall.wallNumber x y)) s = .next (wallChanged u) ∧ fencedAt u x y = true ∧
      u.now = max s.now (h.at_ + 300000001))) ∧
  (
  (∀ (q : QRef) (e : Entry) (on : Bool) (s : State) (c : Instr), Ready s q e →
    (c = .fenceModule q e ∧ eOp e = 0x94 ∧ on = true) ∨ (c = .unfenceModule q e ∧ eOp e = 0x95 ∧ on = false) →
    ∃ u, exec c s = .next (fencesDone (wallChanged (announceNow u))) ∧ u.wall.fenced = on ∧
      u.wall.fenceWaits = s.wall.fenceWaits ++ [(q, (queueOf s q).head)] ∧ HeadMoved s u q ∧
      InProgress u q (queueOf s q).head e ∧ u.mems = s.mems) ∧
  (∀ s : State, (∀ r ∈ s.wall.frames, ∀ a, r.f.content = .announce a → a.origin ≠ ownId s) →
    fencesDone s = foldS (fun w t => completeOk w.1 w.2 t) s.wall.fenceWaits { s with wall := { s.wall with fenceWaits := [] } }))

namespace Sys2Proof.Obl

/-- Command `c` of the core is the first of its code that may start, `pre` standing before and `post` behind it: it is valid, its
ranges lie in their spaces, its banks are on, what it reads is whole, and nothing ahead of it traps (R251, R252, R266). -/
def Starts (s : State) (core code : Nat) (pre : List W128) (c : W128) (post : List W128) : Prop :=
  issuing s core = true ∧ findStart (coreOf s core) code [] (coreOf s core).cmdq = some (pre, c, post) ∧
  queuedTrap s core [] pre = none ∧
  tileValid s core c = true ∧ tileOutside s core c = none ∧ tileBanksOn s core c = true ∧ tileBad s core c = none

/-- The state in which a command that starts acts: it has left the queue and occupies its units. -/
def started (core : Nat) (pre : List W128) (c : W128) (post : List W128) (s : State) : State :=
  modCore core (fun k => { k with
    running := k.running ++ (busyUnits c).map (fun u => { unit := u, cmd := c })
    enginesGated := k.enginesGated.filter (fun e => !((busyUnits c).contains e)) }) (dequeue core pre post s)

/-- The activation rows of a STREAM as they are read (R255). -/
def streamRows (s : State) (core : Nat) (c : W128) : List (Nat × List EngNum) :=
  (rangeFrom 0 (tRows c)).map (fun i => (i, actRow (cf c 18 4) (streamK s core c)
    (leNat (spaceRead s core (cf c 22 1) (cf c 32 25 + i * streamStep s core c) (streamRow s core c)))
    (if fmtMx (cf c 18 4) then
      leNat (spaceRead s core (cf c 22 1) (cf c 96 25 + i * (streamK s core c / 32)) (streamK s core c / 32)) else 0)))

/-- Row `i` of an EPILOGUE: its shared scale, 0 but in an MX format, and its codes (R257, R284 to R288). -/
def epiCodes (s : State) (core : Nat) (c : W128) (i : Nat) : Nat × List Nat :=
  let w := if epiMx c then 32 else 16
  let xs := epiValues s core c (leNat (spaceRead s core 0 (cf c 96 25) 128)) i
  let shs := (rangeFrom 0 w).map (fun j => epiShift c (coreOf s core).rngSeed ((coreOf s core).rngDraws + i * w + j))
  if epiMx c then mxQuantise (cf c 14 4) (xs.map ofFp32) shs
  else (0, List.zipWith (fun x sh => epiCode (cf c 14 4) sh x) xs shs)

/-- A side of a MOVE has its bytes: it neither traps nor waits for pages. -/
def present (e : MoveEnd) : Prop :=
  (∀ cause st a, e ≠ .trap cause st a) ∧ (∀ fn g va ps, e ≠ .absent fn g va ps)

end Sys2Proof.Obl

/-- LOADW, STREAM and ACC (R254 to R256): a LOADW fills the weight slot that it names with the bytes it reads; a STREAM gives every
engine of its mask the products of its rows; an ACC clears, loads, stores or adds accumulator rows. -/
def Obligations.EnginesWork : Prop :=
  (∀ (core : Nat) (pre post : List W128) (c : W128) (s : State), Starts s core 1 pre c post →
    ∃ t w, exec (.loadw core) s = .next t ∧ slotOf t core (tEngine c) (cf c 11 1) = some w ∧ w.fmt = cf c 12 4 ∧
      w.sparse = (cf c 16 1 == 1) ∧ w.values = spaceRead s core (cf c 17 1) (cf c 32 25) (64 * fmtBits (cf c 12 4)) ∧
      w.scales = (if fmtMx (cf c 12 4) then spaceRead s core (cf c 17 1) (cf c 64 25) (if cf c 16 1 == 1 then 32 else 16) else []) ∧
      w.meta_ = (if cf c 16 1 == 1 then spaceRead s core (cf c 17 1) (cf c 96 25) 128 else []) ∧
      (∀ e, accOf t core e = accOf s core e) ∧ t.mems = s.mems) ∧
  (∀ (core : Nat) (pre post : List W128) (c : W128) (s : State), Starts s core 2 pre c post →
    ∃ t, exec (.stream core) s = .next t ∧ t.mems = s.mems ∧
      (∀ e w, e ∈ tEngines c → slotOf s core e (cf c 16 1) = some w →
        accOf t core e = streamEngine c w (streamRows s core c) (accOf s core e)) ∧
      (∀ e, e ∉ tEngines c → accOf t core e = accOf s core e)) ∧
  (∀ (core : Nat) (pre post : List W128) (c : W128) (s : State), Starts s core 3 pre c post →
    ∃ t, exec (.acc core) s = .next t ∧ (∀ e, e ≠ tEngine c → accOf t core e = accOf s core e) ∧
      (cf c 11 3 = 0 → t.mems = s.mems ∧ ∀ i j, i < tRows c → j < 16 → accAt (accOf t core (tEngine c)) (cf c 32 8 + i) j = 0) ∧
      (cf c 11 3 = 1 → t.mems = s.mems ∧ ∀ i j, i < tRows c → j < 16 → accAt (accOf t core (tEngine c)) (cf c 32 8 + i) j =
        BitVec.ofNat 32 (codeAt 32 (leNat (spaceRead s core (cf c 17 1) (cf c 64 25) (64 * tRows c))) (16 * i + j))) ∧
      (cf c 11 3 = 2 → accOf t core (tEngine c) = accOf s core (tEngine c) ∧ (s.memWf = true →
        spaceRead t core (cf c 17 1) (cf c 64 25) (64 * tRows c) =
          rowsBytes (accOf s core (tEngine c)) (cf c 32 8) (tRows c))) ∧
      (cf c 11 3 = 3 → t.mems = s.mems ∧ ∀ i j, i < tRows c → j < 16 → accAt (accOf t core (tEngine c)) (cf c 32 8 + i) j =
        fpAdd (accAt (accOf s core (tEngine c)) (cf c 32 8 + i) j) (accAt (accOf s core (cf c 14 3)) (cf c 32 8 + i) j)))

/-- EPILOGUE, MOVE and SEND of a tile (R257 to R259, R288). An EPILOGUE stores the codes of each of its rows, and in an MX format
their scales behind them; a MOVE puts its source's bytes at its destination, waits for pages that are absent and traps where its
addresses do; a SEND that its fence does not hold becomes a doorway message of its context, one that it holds waits in the doorway. -/
def Obligations.OutputsLeaveTheCore : Prop :=
  (∀ (core : Nat) (pre post : List W128) (c : W128) (s : State), Starts s core 4 pre c post →
    ∃ t, exec (.epilogue core) s = .next t ∧ (∀ e, accOf t core e = accOf s core e) ∧ t.enpin = s.enpin ∧
      (coreOf t core).rngDraws = (coreOf s core).rngDraws +
        (if cf c 18 1 = 1 then tRows c * (if epiMx c then 32 else 16) else 0) ∧
      (epiRow c ≤ epiStep c → s.memWf = true →
        (∀ i, i < tRows c → spaceRead t core (cf c 21 1) (cf c 64 25 + i * epiStep c) (epiRow c) =
          leBytes (epiRow c) (packCodes (fmtBits (cf c 14 4)) (epiCodes s core c i).2)) ∧
        (epiMx c = true → spaceRead t core (cf c 21 1) (cf c 64 25 + tRows c * epiStep c) (tRows c) =
          (rangeFrom 0 (tRows c)).map (fun i => BitVec.ofNat 8 (epiCodes s core c i).1)))) ∧
  (∀ (core : Nat) (pre post : List W128) (c : W128) (src dst : MoveEnd) (s : State), Starts s core 5 pre c post →
    src = moveEnd s core (mvSrc c) (mvLen c) false → dst = moveEnd s core (mvDst c) (mvLen c) true →
    (∀ b, moveFar s c = [] → present src → present dst → moveRead s src (mvSrc c) (mvLen c) = .ok b →
      ∃ u, exec (.move core) s = .next (moveWrite dst b u) ∧ u.mems = s.mems ∧ u.enpin = s.enpin ∧
        (coreOf u core).running = (coreOf s core).running ++ [{ unit := 9, cmd := c }] ∧
        (∀ m a m' a', src = .mem m a → dst = .mem m' a' → s.memWf = true →
          memRead m' a' (mvLen c) (moveWrite dst b u) = memRead m a (mvLen c) s)) ∧
    (∀ fn g va ps, moveFar s c = [] → src = .absent fn g va ps ∨ (present src ∧ dst = .absent fn g va ps) →
      (∀ cause st a, dst ≠ .trap cause st a) →
      ∃ t r, exec (.move core) s = .next t ∧ r ∈ (coreOf t core).running ∧ r.cmd = c ∧ r.waiting = true ∧ t.mems = s.mems) ∧
    (∀ cause st a, src = .trap cause st a ∨ ((∀ x y z, src ≠ .trap x y z) ∧ dst = .trap cause st a) →
      ∃ t l, exec (.move core) s = .next t ∧ (coreOf t core).st = .halted ∧ (coreOf t core).cause = cause ∧
        launchOf t core = some l ∧ l.fault = some (st, BitVec.ofNat 64 a, 0) ∧ t.mems = s.mems)) ∧
  (∀ (core : Nat) (pre post : List W128) (c : W128) (k : Ctx) (s : State), Starts s core 6 pre c post →
    (∀ d ∈ (coreOf s core).door, d.n ≠ (coreOf s core).doorNext) →
    (cf c 17 1 = 0 ∨ (coreOf s core).door.any (fun x => x.dest == routeDest (routeOf s core (cf c 8 6))) = false →
      destReady s (routeDest (routeOf s core (cf c 8 6))) = true → ctxOf s (routeDest (routeOf s core (cf c 8 6))) = some k →
      0 < segmentSize s k.ethForm →
      ∃ t k' m, exec (.doorwaySend core) s = .next t ∧ (coreOf t core).doorNext = (coreOf s core).doorNext + 1 ∧
        ctxOf t (routeDest (routeOf s core (cf c 8 6))) = some k' ∧ k'.msgs.getLast? = some m ∧
        m.owner = .doorway core (coreOf s core).doorNext ∧ m.ptype = .data ∧
        m.dstQp = routeQp (routeOf s core (cf c 8 6)) ∧ m.tc = routeClass (routeOf s core (cf c 8 6)) ∧
        m.start + m.len = (if cf c 14 3 = 3 then 0 else cf c 64 25) ∧
        m.sig = (if cf c 14 3 = 1 ∨ cf c 14 3 = 3 then some (routeSignal (routeOf s core (cf c 8 6))) else none) ∧
        (∀ d ∈ (coreOf s core).door, d ∈ (coreOf t core).door) ∧ t.mems = s.mems) ∧
    (cf c 17 1 = 1 → (coreOf s core).door.any (fun x => x.dest == routeDest (routeOf s core (cf c 8 6))) = true →
      ∃ t d, exec (.doorwaySend core) s = .next t ∧ (coreOf t core).door = (coreOf s core).door ++ [d] ∧ d.fenced = true ∧
        d.cmd = c ∧ d.n = (coreOf s core).doorNext ∧ t.enpin = s.enpin ∧ t.mems = s.mems))

/-- WAIT, WAIT_SATISFIED, SIGNAL and PHASE (R205 to R207, R217, R260). A WAIT takes its count, or blocks its core; one that does not
block halts it; a blocked WAIT takes once the count is there. A SIGNAL adds to a semaphore of its function, up to 65,535, or to a
counter; one to a core of another function halts its own. -/
def Obligations.SemaphoreCommands : Prop :=
  (∀ (core : Nat) (pre post : List W128) (c : W128) (s : State), Starts s core 7 pre c post →
    (cf c 32 16 ≤ semOf s core (cf c 16 6) →
      ∃ t, exec (.wait core) s = .next t ∧ semOf t core (cf c 16 6) = semOf s core (cf c 16 6) - cf c 32 16 ∧
        (coreOf t core).st = (coreOf s core).st ∧ (∀ r ∈ (coreOf t core).running, r.unit ≠ 11) ∧ t.mems = s.mems) ∧
    (semOf s core (cf c 16 6) < cf c 32 16 → cf c 8 1 = 0 → (coreOf s core).st = .running →
      ∃ t, exec (.wait core) s = .next t ∧ (coreOf t core).st = .blocked ∧ (coreOf t core).waitSem = cf c 16 6 ∧
        (coreOf t core).waitAt = s.now ∧ (coreOf t core).sems = (coreOf s core).sems ∧ t.mems = s.mems) ∧
    (semOf s core (cf c 16 6) < cf c 32 16 → cf c 8 1 = 1 →
      ∃ t l, exec (.wait core) s = .next t ∧ (coreOf t core).st = .halted ∧ (coreOf t core).cause = 1 ∧
        (coreOf t core).sems = (coreOf s core).sems ∧ count t 0x9060 1 = count s 0x9060 1 + 1 ∧
        launchOf t core = some l ∧ l.fault = some (stUnderflow, 0, 0))) ∧
  (∀ (core : Nat) (r : Running) (s : State),
    ((coreOf s core).running.filter (fun r => r.unit == 11 && tCode r.cmd == 7)).head? = some r →
    cf r.cmd 32 16 ≤ semOf s core (cf r.cmd 16 6) → s.power.aClocksStopped = false → (coreOf s core).clockOff = false →
    ∃ t, exec (.waitSatisfied core) s = .next t ∧
      semOf t core (cf r.cmd 16 6) = semOf s core (cf r.cmd 16 6) - cf r.cmd 32 16 ∧
      (∀ x ∈ (coreOf t core).running, x.unit ≠ 11) ∧
      (coreOf t core).st = (if (coreOf s core).st = .blocked then .running else (coreOf s core).st) ∧ t.mems = s.mems) ∧
  (∀ (core : Nat) (pre post : List W128) (c : W128) (s : State), Starts s core 8 pre c post →
    (cf c 8 2 = 0 → cf c 32 9 < coresFitted s.part → coreFn s (cf c 32 9) = coreFn s core → (coreFn s core).isSome = true →
      ∃ t, exec (.signal core) s = .next t ∧
        semOf t (cf c 32 9) (cf c 16 12) = min 65535 (semOf s (cf c 32 9) (cf c 16 12) + cf c 48 16)) ∧
    (∀ fn, cf c 8 2 = 1 → coreFn s core = some fn →
      ∃ t, exec (.signal core) s = .next t ∧
        counterOf t fn (cf c 16 12) = counterOf s fn (cf c 16 12) + BitVec.ofNat 48 (cf c 48 16) ∧ t.mems = s.mems) ∧
    (cf c 8 2 = 0 → coreFn s (cf c 32 9) ≠ coreFn s core →
      ∃ t, exec (.signal core) s = .next t ∧ (coreOf t core).st = .halted ∧ (coreOf t core).cause = 5 ∧
        count t 0x9060 5 = count s 0x9060 5 + 1)) ∧
  (∀ (core : Nat) (pre post : List W128) (c : W128) (s : State), Starts s core 9 pre c post →
    ∃ t, exec (.phase core) s = .next t ∧ (coreOf t core).phase = cf c 16 16 ∧ (coreOf t core).sems = (coreOf s core).sems ∧
      t.mems = s.mems)

/-- CMD1_WRITE (R251): the command made of both halves enters the queue of its core, or stalls the core where 32 wait.
TILE_COMMAND_FINISH: the command of the unit that ends is no longer running. CORE_TRAP (R262): the core halts with its cause,
its commands dropped, and its LAUNCH has the status and address of the first fault. ECALL (R268): with `a7` 0 the core ends with
its exit value; with another it halts with cause 4. -/
def Obligations.ControlUnitActs : Prop :=
  (∀ (core : Nat) (lo : Option W64) (hi : W64) (s : State), programOn s core = true → (coreOf s core).stalled = none →
    ∃ t, exec (.cmd1Write core lo hi) s = .next t ∧ (coreOf t core).cmd0 = lo.getD (coreOf s core).cmd0 ∧
      ((coreOf s core).cmdq.length < 32 →
        (coreOf t core).cmdq = (coreOf s core).cmdq ++ [(hi ++ lo.getD (coreOf s core).cmd0 : W128)] ∧
        (coreOf t core).stalled = none) ∧
      (32 ≤ (coreOf s core).cmdq.length → (coreOf t core).cmdq = (coreOf s core).cmdq ∧
        (coreOf t core).stalled = some (hi ++ lo.getD (coreOf s core).cmd0 : W128)) ∧ t.mems = s.mems) ∧
  (∀ (core unit : Nat) (r : Running) (s : State), s.power.aClocksStopped = false →
    ((coreOf s core).running.filter (fun r => r.unit == unit && !r.waiting && unit != 11)).head? = some r →
    ∃ t, exec (.tileCommandFinish core unit) s = .next t ∧ (coreOf t core).running = dropFirst r (coreOf s core).running ∧
      (coreOf t core).sems = (coreOf s core).sems ∧ t.mems = s.mems) ∧
  (∀ (core cause st : Nat) (addr : W64) (result : Nat) (s : State), issuing s core = true →
    (cause = 2 ∧ st = stLocalAccess ∧ result = addr.toNat ∧ programOn s core = true) ∨
      (cause = 4 ∧ st = stLocalAccess ∧ result = (coreOf s core).pc.toNat ∧ programOn s core = true) ∨
      ((cause = 2 ∨ cause = 3) ∧ st = stLocalAccess ∧ result = addr.toNat ∧
        (coreOf s core).running.all (fun r => tCode r.cmd != 7) = true ∧
        queuedTrap s core [] (coreOf s core).cmdq = some (cause, addr.toNat)) ∨
      (cause = 8 ∧ st = stMemory ∧ result = addr.toNat ∧ programOn s core = true) →
    ∃ t l, exec (.coreTrap core cause addr) s = .next t ∧ (coreOf t core).st = .halted ∧ (coreOf t core).cause = cause ∧
      (coreOf t core).cmdq = [] ∧ launchOf t core = some l ∧ l.fault = some (st, BitVec.ofNat 64 result, 0)) ∧
  (∀ (core : Nat) (a7 a0 pc : W64) (s : State), programOn s core = true → (coreOf s core).stalled = none →
    (a7 = 0 → ∃ t, exec (.ecall core a7 a0 pc) s = .next t ∧ (coreOf t core).st = .ended ∧
      (coreOf t core).exit = a0.setWidth 32 ∧ (coreOf t core).pc = pc ∧ (coreOf t core).cmdq = (coreOf s core).cmdq) ∧
    (a7 ≠ 0 → ∃ t, exec (.ecall core a7 a0 pc) s = .next t ∧ (coreOf t core).st = .halted ∧ (coreOf t core).cause = 4))

/-- LAUNCH, LAUNCH_COMPLETE and DEADLOCK_WINDOW_EXPIRY (R215, R272, R273). A ready LAUNCH over cores that its function holds, with
a good image, starts every core at the image's entry with its index, the argument's address, the count and the length; when every
core has ended and finished, the LAUNCH's cores are free and its entry ends OK; after a fault, once what must end has ended, the entry
ends with the first fault's status. When the deadlock window has passed over blocked cores, the deadlock is counted and reported. -/
def Obligations.LaunchesRun : Prop :=
  (∀ (q : QRef) (e : Entry) (h code args : List Byte) (s u : State), eOp e = 0x20 → Ready s q e →
    launchHold s q e = .none → u = bump 0x9061 3 1 (advanceHead e q s) → ungranted u (queueFn q) e = none →
    loadingOf u q (queueOf s q).head = none → imageIn u (queueFn q) (eImm e * 4096) 64 = true → getVa u (queueFn q) (eImm e * 4096) 64 = .ok h → headerOk h = true →
    imageIn u (queueFn q) (eImm e * 4096) (64 + df h 8 4) = true →
    getVa u (queueFn q) (eImm e * 4096 + 64) (df h 8 4) = .ok code → getVa u (queueFn q) (eLocal e) (eLength e) = .ok args →
    ∃ t, exec (.launch q e) s = .next t ∧ HeadMoved s t q ∧ InProgress t q (queueOf s q).head e ∧
      ∀ c, eFirstCore e ≤ c → c < eFirstCore e + eCoreCount e →
        (coreOf t c).st = .running ∧ (coreOf t c).pc = BitVec.ofNat 64 (df h 12 4) ∧
        (coreOf t c).launch = some s.compute.nextLaunch ∧ (coreOf t c).sems = (coreOf s c).sems ∧ (coreOf t c).cmdq = [] ∧
        (coreOf t c).rngDraws = 0 ∧
        (coreOf t c).regs = [(10, BitVec.ofNat 64 (c - eFirstCore e)), (11, 0x103F0000),
          (12, BitVec.ofNat 64 (eCoreCount e)), (13, BitVec.ofNat 64 (eLength e))]) ∧
  (∀ (id : Nat) (l : Launch) (s u : State), (s.compute.launches.filter (fun l => l.id == id)).head? = some l → u = freeLaunch l s →
    (l.fault = none → (∀ c, l.first ≤ c → c < l.first + l.count → coreFinished s c = true) →
      exec (.launchComplete id) s = .next (if l.gone then u else completeOk l.q l.idx u)) ∧
    (∀ st r p, l.fault = some (st, r, p) → (∀ c, l.first ≤ c → c < l.first + l.count → coreQuiet s c = true) →
      exec (.launchComplete id) s = .next (if l.gone then u else complete l.q l.idx st r p u)) ∧
    (∀ x ∈ u.compute.launches, x.id ≠ id) ∧
    ∀ c, l.first ≤ c → c < l.first + l.count → (coreOf s c).launch = some id →
      (coreOf u c).launch = none ∧ (coreOf u c).st = (if (coreOf s c).cause = 0 then .idle else .halted)) ∧
  (∀ (id : Nat) (l : Launch) (s : State), (s.compute.launches.filter (fun l => l.id == id)).head? = some l → l.window ≠ 0 →
    l.deadlockReported = false → deadlocked s l = true →
    ∃ t l', exec (.deadlockWindowExpiry id) s = .next t ∧ count t 0x9060 4 = count s 0x9060 4 + 1 ∧
      (t.compute.launches.filter (fun l => l.id == id)).head? = some l' ∧ l'.deadlockReported = true ∧
      t.compute.cores = s.compute.cores)

/-- BANK_PWR_WRITE, BANK_STATE_CHANGE and BANK_WAKE_COMPLETE (R78, R266): a write asks for the states that nothing forbids and
wakes a bank that is to be on; a bank that nothing uses takes the state asked for; a wake ends with the bank on. BANK_STARVATION
(R265): a wait past the limit is counted once per episode. CORE_PC_READ (R273): the low half is read and the high half latched. -/
def Obligations.BanksAndCoreRegisters : Prop :=
  (∀ (core b : Nat) (v : W32) (s : State), core < coresFitted s.part → b < 16 →
    ∃ t, exec (.bankPwrWrite core v) s = .next t ∧ t.mems = s.mems ∧ (coreOf t core).bankSt = (coreOf s core).bankSt ∧
      (bankBits v b = 3 ∨ (bankBits v b = 2 ∧ bankKeyed s core b = true) ∨ (bankBits v b ≠ 0 ∧ bankCut s core b = true) →
        bankBits (coreOf t core).bankReq b = bankBits (coreOf s core).bankReq b) ∧
      (bankBits v b < 3 → bankKeyed s core b = false → bankCut s core b = false →
        bankBits (coreOf t core).bankReq b = bankBits v b) ∧
      (bankBits v b = 0 → bankState s core b ≠ 0 → b ∈ (coreOf t core).waking)) ∧
  (∀ (core b : Nat) (s : State), b < 16 → bankBits (coreOf s core).bankReq b ≠ 0 →
    bankBits (coreOf s core).bankReq b ≠ bankBits (coreOf s core).bankSt b → b ∉ (coreOf s core).waking →
    bankInUse s core b = false →
    ∃ t, exec (.bankStateChange core b) s = .next t ∧ bankState t core b = bankBits (coreOf s core).bankReq b) ∧
  (∀ (core b : Nat) (s : State), b < 16 → b ∈ (coreOf s core).waking → coreAsleep s core = false →
    ∃ t, exec (.bankWakeComplete core b) s = .next t ∧ bankState t core b = 0 ∧ b ∉ (coreOf t core).waking ∧
      (bankState s core b ≠ 2 → t.mems = s.mems)) ∧
  (∀ (core b waited : Nat) (mover : Bool) (s : State), (if mover then moverWanted s core b else deliveryWanted s core b) = true →
    (b ∉ (coreOf s core).starving → ledAt s 0x5110 1 0 (s.now - waited) ≤ waited →
      ∃ t, exec (.bankStarvation core b mover waited) s = .next t ∧ b ∈ (coreOf t core).starving ∧
        count t 0x9061 1 = count s 0x9061 1 + 1) ∧
    (b ∈ (coreOf s core).starving →
      ∃ t, exec (.bankStarvation core b mover waited) s = .next t ∧ b ∈ (coreOf t core).starving ∧
        count t 0x9061 1 = count s 0x9061 1)) ∧
  (∀ (fn c : Nat) (s : State), barOpen s fn = true → selCore s fn = some c →
    ∃ t, exec (.corePcRead fn) s = .next t ∧ t.out = .regRead ((coreOf s c).pc.setWidth 32) :: s.out ∧
      (fnOf t fn).pcHi = BitVec.ofNat 32 ((coreOf s c).pc.toNat / 2 ^ 32) ∧ t.mems = s.mems)

/-- R206 as a rule of the operation that every increment is: past 65,535 the semaphore stays there, the overflow is counted and
SEMAPHORE_IMBALANCE with detail 1 raised, and no core stops. -/
def Obligations.IncrementsSaturate : Prop :=
  ∀ (core sem n : Nat) (s : State), 65535 < semOf s core sem + n →
    semOf (semAdd core sem n s) core sem = 65535 ∧
    count (semAdd core sem n s) 0x9060 2 = count s 0x9060 2 + 1 ∧
    (∃ u, semAdd core sem n s = raiseEvent (coreEventFn u core) 0x22 1 (ownId u) (semEventQp u core) (core + sem * 65536) 0 u) ∧
    (∀ c, (coreOf (semAdd core sem n s) c).st = (coreOf s c).st)

/-- GROUP_CREATE, GROUP_DESTROY and COLLECTIVE (R224, R225, R228, R233, R243). A group that nothing forbids is created and the
result block's cause is 0; a destroyed group is gone; a COLLECTIVE posts its descriptor at the instance that the group's count
numbers, on the ring, the tie lane or the tree. -/
def Obligations.CollectivesStart : Prop :=
  (∀ (q : QRef) (e : Entry) (s : State), eOp e = 0x90 → Ready s q e → xlate s (queueFn q) (eLocal e) 16 true = .ok →
    ∃ u, exec (.groupCreate q e) s = .next (putResult q (queueOf s q).head (BitVec.ofNat 64 (eLocal e))
        [BitVec.ofNat 8 (groupCause s e)] u) ∧ HeadMoved s u q ∧
      (groupCause s e ≠ 0 → u.coll = s.coll) ∧
      (groupCause s e = 0 → ∃ g, groupAt u (BitVec.ofNat 32 (ef e 4 4)) = some g ∧ g.vdev = ef e 16 2 ∧ g.axis = ef e 18 1 ∧
        g.ox = ef e 20 1 ∧ g.oy = ef e 21 1 ∧ g.w = ef e 22 1 ∧ g.h = ef e 23 1 ∧ g.rx = ef e 24 1 ∧ g.ry = ef e 25 1 ∧
        g.slots = ef e 26 2 ∧ g.count = 0 ∧ g.insts = [])) ∧
  (∀ (q : QRef) (e : Entry) (s : State), eOp e = 0x91 → Ready s q e →
    ∃ u, exec (.groupDestroy q e) s = .next (completeOk q (queueOf s q).head u) ∧ groupAt u (eKey e) = none) ∧
  (∀ (q : QRef) (e : Entry) (g : Group) (i : Inst) (s v : State), eOp e = 0x10 → Ready s q e → collHold s q e = .none →
    groupAt s (eKey e) = some g → g.vdev = queueFn q → instOfEntry s q (queueOf s q).head = none → instOld g g.count = false →
    v = holdInst (eKey e) g.count .tree (modGroup (eKey e) (fun g => { g with count := g.count + 1 }) (advanceHead e q s)) →
    instAt v (eKey e) g.count = some i → i.aborted = none → collWrong s g e = false →
    collRangeBad s g (entrySig e) (queueFn q) e = none → (1 < setSize g → lostMember s g = none) →
    ∃ u i', exec (.collective q e) s = .next (pump (eKey e) g.count u) ∧ HeadMoved s u q ∧
      InProgress u q (queueOf s q).head e ∧ instAt u (eKey e) g.count = some i' ∧ i'.entry = some (q, (queueOf s q).head) ∧
      i'.own = some (entrySig e) ∧ i'.contribution = BitVec.ofNat 64 (eLocal e) ∧ i'.resultVa = BitVec.ofNat 64 (eOffset e) ∧
      i'.length = eLength e ∧ i'.takenAt = s.now ∧
      (1 < setSize g → (i.mode = .ring ∨ (brokenEdge s g).isSome = true → i'.mode = .ring) ∧
        (i.mode = .tree → i.chunks = [] → brokenEdge s g = none →
          i'.mode = (if tieFits g (entrySig e) (eLength e) then .tie else .tree))))

namespace Sys2Proof.Obl

/-- A packet of a group's tree, or of its tie lane, has come from the neighbour `from_` on a link, and this member holds the
instance `i`, which goes on: what the receiving commands require of a state. -/
def AtMember (s : State) (link : Nat) (h n : W32) (g : Group) (from_ : Nat) (i : Inst) : Prop :=
  refusesAll s = false ∧ groupAt s h = some g ∧ edgeMember s g link = some from_ ∧ instOf g n = some i ∧ i.aborted = none ∧
  i.done = false

end Sys2Proof.Obl

/-- TREE_DATA_RECEIVE and TIE_RECEIVE (R235, R236, R239, R240, R244). A chunk that a child sends up, the first from it, joins what its unit
holds of the chunk (the first is kept, later ones are reduced into it), is answered on the tree and goes on; where both residue
checks of its sum fail (R240) the instance is aborted; a chunk that comes down to a leaf is this member's result. On the tie
lane it is the same without an answer, and the second copy of a frame is counted and ends. -/
def Obligations.ChunksAreTaken : Prop :=
  (∀ (link : Nat) (p : Packet) (t : TreeHead) (g : Group) (from_ : Nat) (i j : Inst) (s v : State), p.ptype = .collective →
    treeHead p = some t → t.off ≠ ctlOffset → AtMember s link t.group t.inst g from_ i → i.mode = .tree →
    t.down = (parentOf s g (myMember s g) == some from_) →
    (t.down = false → combines t.x = true → admitUnit t.group t.inst t.x (takeInLink link p s) = (true, v) →
      instAt v t.group t.inst = some j → (tget {} j.chunks (chunkAt t.x t.off)).ended = false →
      slotFree g j (chunkAt t.x t.off) = true → from_ ∉ (tget {} j.chunks (chunkAt t.x t.off)).from_ →
      (∀ y m, j.sig = some (y, m) → y = t.x) →
      ((tget {} j.chunks (chunkAt t.x t.off)).from_ = [] ∨ v.coll.residue.head? ≠ some true →
      ∃ w j', exec (.treeDataReceive link p) s = .next (goOn t.group t.inst (answerCtl t.group t.inst link from_ 1
          (chunkAt t.x t.off) (forwardChunk t.group t.inst t.x (chunkAt t.x t.off) w))) ∧
        instAt w t.group t.inst = some j' ∧
        (tget {} j'.chunks (chunkAt t.x t.off)).from_ = (tget {} j.chunks (chunkAt t.x t.off)).from_ ++ [from_] ∧
        (tget {} j'.chunks (chunkAt t.x t.off)).acc = if (tget {} j.chunks (chunkAt t.x t.off)).from_ = [] then accOfBytes p.payload
          else List.zipWith (reduce2 t.x.dtype t.x.red) (tget {} j.chunks (chunkAt t.x t.off)).acc (accOfBytes p.payload)) ∧
      (∀ rest, (tget {} j.chunks (chunkAt t.x t.off)).from_ ≠ [] → v.coll.residue = true :: true :: rest →
        ∃ w, exec (.treeDataReceive link p) s = .next (goOn t.group t.inst (answerCtl t.group t.inst link from_ 1
            (chunkAt t.x t.off) (residueAbort t.group t.inst w))) ∧ w.coll.residue = rest ∧
          count w 0x9043 5 = count v 0x9043 5 + 1 ∧ count w 0x9043 6 = count v 0x9043 6 + 1)) ∧
    (t.down = true → isLeaf s g (myMember s g) = true → (tget {} i.chunks (chunkAt t.x t.off)).down = false →
      (tget {} i.chunks (chunkAt t.x t.off)).ended = false →
      ∃ w j', exec (.treeDataReceive link p) s = .next (goOn t.group t.inst (answerCtl t.group t.inst link from_ 2
          (chunkAt t.x t.off) (deliverChunk t.group t.inst (chunkAt t.x t.off) w))) ∧
        instAt w t.group t.inst = some j' ∧ (tget {} j'.chunks (chunkAt t.x t.off)).down = true ∧
        (tget {} j'.chunks (chunkAt t.x t.off)).native = p.payload)) ∧
  (∀ (link : Nat) (p : Packet) (down : Bool) (member op red dt el : Nat) (h n : W32) (g : Group) (from_ : Nat) (i : Inst)
    (x : Sig) (s : State), p.ptype = .tie → p.ext = .tie down member h n op red dt el → AtMember s link h n g from_ i → i.mode = .tie →
    down = (parentOf s g (myMember s g) == some from_) → x = { op := op, red := red, dtype := dt, elements := el } →
    (i.tieSeen.contains (2 * from_ + b2n down) = true →
      ∃ t, exec (.tieReceive link p) s = .next t ∧ count t 0x9043 9 = count s 0x9043 9 + 1 ∧ t.coll = s.coll ∧ t.mems = s.mems) ∧
    (i.tieSeen.contains (2 * from_ + b2n down) = false →
      (down = false → combines x = true → (tget {} i.chunks 0).ended = false → from_ ∉ (tget {} i.chunks 0).from_ →
        (∀ y m, i.sig = some (y, m) → y = x) → (tget {} i.chunks 0).from_ = [] ∨ s.coll.residue.head? ≠ some true →
        ∃ w j', exec (.tieReceive link p) s = .next (goOn h n (forwardChunk h n x 0 w)) ∧ instAt w h n = some j' ∧
          (tget {} j'.chunks 0).from_ = (tget {} i.chunks 0).from_ ++ [from_] ∧
          (tget {} j'.chunks 0).acc = if (tget {} i.chunks 0).from_ = [] then accOfBytes p.payload
            else List.zipWith (reduce2 dt red) (tget {} i.chunks 0).acc (accOfBytes p.payload)) ∧
      (isLeaf s g (myMember s g) = true → down = true → (tget {} i.chunks 0).down = false → (tget {} i.chunks 0).ended = false →
        ∃ w j', exec (.tieReceive link p) s = .next (goOn h n (deliverChunk h n 0 w)) ∧ instAt w h n = some j' ∧
          (tget {} j'.chunks 0).down = true ∧ (tget {} j'.chunks 0).native = p.payload)))

/-- UP_ACK, DOWN_ACK, CONTROL_ACK and BUSY (R235, R236): an acknowledgement ends its hop, a busy answer sets its time again without
counting the send. -/
def Obligations.HopsAreAnswered : Prop :=
  ∀ (link : Nat) (p : Packet) (t : TreeHead) (g : Group) (from_ : Nat) (i : Inst) (s : State), p.ptype = .collective →
    treeHead p = some t → t.off = ctlOffset → AtMember s link t.group t.inst g from_ i → i.mode = .tree →
    (ctlCode p = 1 → parentOf s g (myMember s g) = some from_ →
      ∃ u j, exec (.upAck link p) s = .next (goOn t.group t.inst (endUnneeded t.group t.inst (ctlChunk p) u)) ∧
        instAt u t.group t.inst = some j ∧ (tget {} j.chunks (ctlChunk p)).upAcked = true ∧
        (∀ k ∈ j.hops, k.member = from_ → k.chunk = ctlChunk p → k.dir ≠ 0)) ∧
    (ctlCode p = 2 →
      ∃ u j, exec (.downAck link p) s = .next (goOn t.group t.inst (endChunk t.group t.inst (ctlChunk p) u)) ∧
        instAt u t.group t.inst = some j ∧ from_ ∉ (tget {} j.chunks (ctlChunk p)).downWait ∧
        (∀ k ∈ j.hops, k.member = from_ → k.chunk = ctlChunk p → k.dir ≠ 1)) ∧
    (ctlCode p = 5 → (∀ o ∈ s.coll.orphans, o.handle ≠ t.group) →
      ∃ u j, exec (.controlAck link p) s = .next u ∧ instAt u t.group t.inst = some j ∧
        (∀ k ∈ j.hops, k.member = from_ → k.chunk = ctlKey (ctlChunk p) → k.dir ≠ 2) ∧ u.mems = s.mems) ∧
    (ctlCode p = 6 →
      ∃ u j, exec (.busy link p) s = .next u ∧ instAt u t.group t.inst = some j ∧ u.mems = s.mems ∧
        ∀ k ∈ i.hops, k.member = from_ → k.chunk = ctlChunk p → 
          k.dir = (if parentOf s g (myMember s g) = some from_ then 0 else 1) →
          { k with tries := k.tries - 1, sentAt := s.now } ∈ j.hops)

/-- TREE_ABORT, FALLBACK, TREE_HOP_TIMEOUT, TIE_TIMEOUT and COLL_GIVE_UP (R233, R235, R242, R245): an instance that is aborted, or
that meets one of its limits, ends with COLLECTIVE_ABORTED or the status it is told; a FALLBACK puts it on the ring; a hop that no
answer came to is sent again, a leaf's with its contribution read again. -/
def Obligations.InstancesEnd : Prop :=
  (∀ (link : Nat) (p : Packet) (t : TreeHead) (g : Group) (from_ : Nat) (i : Inst) (s : State), p.ptype = .collective →
    treeHead p = some t → t.off = ctlOffset → AtMember s link t.group t.inst g from_ i → i.mode = .tree →
    (ctlCode p = 3 → ∃ u j peer, exec (.treeAbort link p) s = .next (endMember t.group t.inst (ctlStatus p) peer u) ∧
      instAt u t.group t.inst = some j ∧ j.aborted = some (ctlStatus p) ∧ j.chunks = []) ∧
    (ctlCode p = 4 → i.fellBack = false → ∃ u j, exec (.fallback link p) s = .next (goOn t.group t.inst u) ∧ instAt u t.group t.inst = some j ∧
      j.mode = .ring ∧ j.chunks = [])) ∧
  (∀ (h n : W32) (member chunk : Nat) (down : Bool) (g : Group) (i : Inst) (k : HopPkt) (s : State), groupAt s h = some g →
    instOf g n = some i → chunk < 2 ^ 32 →
    (i.hops.filter (fun k => k.member == member && k.chunk == chunk && k.dir == b2n down)).head? = some k →
    (k.tries < i.hopTries → ∀ d, edgeDir s g member = some d →
      leafSig s g i k = none ∨ (∃ x b, leafSig s g i k = some x ∧ ownChunk s (myMember s g) i x k.chunk = .ok b) →
      ∃ t j, exec (.treeHopTimeout h n member chunk down) s = .next t ∧ instAt t h n = some j ∧
        t.now = max s.now (k.sentAt + i.rto) ∧ count t 0x9043 8 = count s 0x9043 8 + 1 ∧
        { k with tries := k.tries + 1, sentAt := t.now } ∈ j.hops ∧ t.mems = s.mems) ∧
    (i.hopTries ≤ k.tries → i.done = false → i.aborted = none →
      ∃ u j, exec (.treeHopTimeout h n member chunk down) s = .next (endMember h n stCollAborted (ownId s) u) ∧
        instAt u h n = some j ∧ j.aborted = some stCollAborted)) ∧
  (∀ (h n : W32) (i : Inst) (g : Group) (c : Instr) (limit : Nat) (s : State), postedInst s h n = some i →
    groupAt s h = some g → (c = .tieTimeout h n ∧ i.mode = .tie ∧ limit = i.tieTime) ∨ (c = .collGiveUp h n ∧ limit = i.giveUp) →
    ∃ u j, exec c s = .next (endMember h n stCollAborted 0 u) ∧ instAt u h n = some j ∧ j.aborted = some stCollAborted ∧
      u.now = max s.now (i.takenAt + limit))

/-- SEGMENT_ENABLE, SEGMENT_ZEROING_END, SEGMENT_DISABLE and SEGMENT_DISABLE_END (R295, R300, R301). An enable that R301 refuses sets
`cfg_error`; one that it does not allocates the range, which translates once it reads as zeros. A disable is refused while a key
lies in the segment; it ends when no access uses the segment, and the frames are free again. -/
def Obligations.SegmentsComeAndGo : Prop :=
  (∀ (fn i : Nat) (v : W32) (g : Segment) (s : State), barOpen s fn = true → bitOf v.toNat 5 = true → bitOf v.toNat 7 = false →
    i = selSeg s fn → g = { segFields v.toNat (segOf s fn i) with cfgError := false } → (segOf s fn i).enable = false →
    (segOf s fn i).disabling = false →
    (segRefused s fn i g = true →
      ∃ t, exec (.segmentEnable fn v) s = .next t ∧ segOf t fn i = { g with cfgError := true } ∧ t.mig = s.mig ∧
        t.mems = s.mems) ∧
    (segRefused s fn i g = false → v.toNat % 4 = 2 →
      ∃ t, exec (.segmentEnable fn v) s = .next t ∧ segOf t fn i = { g with enable := true, valid := true } ∧ t.mems = s.mems) ∧
    (segRefused s fn i g = false → v.toNat % 4 ≠ 2 → bitOf v.toNat 4 = true →
      ∃ t, exec (.segmentEnable fn v) s = .next t ∧ t.mems = s.mems ∧
        segOf t fn i = { g with enable := true, zeroing := true, tierBase := Config.mapAt (fn * 16 + i), migrationsFail := false }) ∧
    (segRefused s fn i g = false → v.toNat % 4 ≠ 2 → bitOf v.toNat 4 = false →
      ∃ t a, exec (.segmentEnable fn v) s = .next t ∧ freeRun s (v.toNat % 4) g.pages = some a ∧
        segOf t fn i = { g with enable := true, zeroing := true, tierBase := a * pageBytes } ∧
        t.mig.allocs = s.mig.allocs ++ [(v.toNat % 4, a, g.pages, fn)] ∧ t.mems = s.mems)) ∧
  (∀ (fn i : Nat) (s : State), (segOf s fn i).zeroing = true →
    ∃ t, exec (.segmentZeroingEnd fn i) s = .next t ∧ segOf t fn i = { segOf s fn i with zeroing := false, valid := true } ∧
      ((segOf s fn i).migratory = true → t.mems = s.mems ∧ ∀ p ∈ (fnOf t fn).pages, p.1 / 2 ^ 20 ≠ i) ∧
      ((segOf s fn i).migratory = false → s.memWf = true → ∀ a, (segOf s fn i).tierBase ≤ a →
        a < (segOf s fn i).tierBase + segBytes (segOf s fn i) → memRead (tierMem (segOf s fn i).tier) a 1 t = [0])) ∧
  (∀ (fn i : Nat) (v : W32) (s : State), barOpen s fn = true → bitOf v.toNat 5 = false → i = selSeg s fn →
    ((segOf s fn i).enable = false → bitOf v.toNat 7 = false →
      ∃ t, exec (.segmentDisable fn v) s = .next t ∧ segOf t fn i = { segFields v.toNat (segOf s fn i) with cfgError := false } ∧
        t.mems = s.mems) ∧
    ((segOf s fn i).enable = true → segKeyed s fn i = true →
      ∃ t, exec (.segmentDisable fn v) s = .next t ∧ segOf t fn i = { segOf s fn i with cfgError := true } ∧ t.mems = s.mems) ∧
    ((segOf s fn i).enable = true → segKeyed s fn i = false →
      ∃ t, exec (.segmentDisable fn v) s = .next t ∧ t.mems = s.mems ∧ segLive (segOf t fn i) = false ∧
        segOf t fn i = { segOf s fn i with enable := false, disabling := true, zeroing := false, cfgError := false })) ∧
  (∀ (fn i : Nat) (s : State), (segOf s fn i).disabling = true → segBusy s fn i = false →
    ((segOf s fn i).migratory = true → hostOk s = true) →
    ∃ t, exec (.segmentDisableEnd fn i) s = .next t ∧ (segOf t fn i).enable = false ∧ (segOf t fn i).valid = false ∧
      (segOf t fn i).disabling = false ∧ (segOf t fn i).tierBase = 0 ∧ (∀ p ∈ (fnOf t fn).pages, p.1 / 2 ^ 20 ≠ i) ∧
      ((segOf s fn i).migratory = false → (segOf s fn i).tier ≠ 2 → ∀ a ∈ t.mig.allocs, a.1 = (segOf s fn i).tier →
        a.2.1 * pageBytes = (segOf s fn i).tierBase → a.2.2.2 ≠ fn))

/-- SEGMENT_FLUSH and SEGMENT_FLUSH_END (R308): a flush of a migratory segment begins, its cached translations dropped, and ends
when no resident page is held or being written back. STAMP_REPORT and RESIDENCY_STAMP_PASS (R305, R306): at each 50 µs the
resident pages that the caches hold have the present stamp; at each pass a stamp too far behind is set to the bound. -/
def Obligations.FlushesAndStamps : Prop :=
  (∀ (fn : Nat) (v : W32) (s : State), barOpen s fn = true → bitOf v.toNat 7 = true →
    (segOf s fn (selSeg s fn)).valid = true → (segOf s fn (selSeg s fn)).migratory = true →
    (segOf s fn (selSeg s fn)).flushing = false → (segOf s fn (selSeg s fn)).disabling = false →
    ∃ u, (segOf u fn (selSeg s fn)).flushing = true ∧ u.mems = s.mems ∧
      (∀ k ∈ u.mig.cached, k.2.1 = fn → k.2.2 / 2 ^ 20 ≠ selSeg s fn) ∧
      exec (.segmentFlush fn v) s = .next (if flushable s fn (selSeg s fn) then flushPass fn (selSeg s fn) u else u)) ∧
  (∀ (fn i : Nat) (s : State), (segOf s fn i).flushing = true → flushable s fn i = true →
    (∀ p ∈ residentOf s fn i, p.2.held = 0 ∧ p.2.migrating = false) →
    ∃ t, exec (.segmentFlushEnd fn i) s = .next t ∧ (segOf t fn i).flushing = false) ∧
  (∀ (s : State), ∃ t, exec .stampReport s = .next t ∧ t.now = max s.now ((s.now / 50000 + 1) * 50000) ∧ t.mems = s.mems ∧
    ∀ k ∈ s.mig.cached, (pageOf s k.2.1 (k.2.2 / 2 ^ 20) (k.2.2 % 2 ^ 20)).resident = true →
      (pageOf t k.2.1 (k.2.2 / 2 ^ 20) (k.2.2 % 2 ^ 20)).stamp = stampNow t) ∧
  (∀ (s : State), ∃ t, exec .residencyStampPass s = .next t ∧ t.now = max s.now ((s.now / 1000000000 + 1) * 1000000000) ∧
    t.mems = s.mems ∧ ∀ f i p, (pageOf s f i p).resident = true →
      (pageOf t f i p).stamp = (if 2 ^ 27 < (stampNow t + 2 ^ 28 - (pageOf s f i p).stamp % 2 ^ 28) % 2 ^ 28
        then (stampNow t + 2 ^ 27) % 2 ^ 28 else (pageOf s f i p).stamp))

/-- WALKER_READ_COMPLETE, MIGRATION_START, MIGRATION_WRITEBACK_COMPLETE and MIGRATION_READ_COMPLETE (R304, R307 to R310, R314).
A walker whose page is absent has a fault record made, or joins the one there is; the record that was allocated first migrates
next, into a free frame or a victim's, whose dirty page leaves once it is written back; when its read has ended the page is
resident with the host's bytes, and its waiters go on. -/
def Obligations.PagesMigrate : Prop :=
  (∀ (ks n : Nat) (w : Walker) (s : State), n < 16 → tfind (walkersOf s ks) n = some w → w.st ≠ 3 →
    (pageOf s w.fn w.seg w.page).lost = false →
    (pageOf s w.fn w.seg w.page).resident = false ∨ (pageOf s w.fn w.seg w.page).migrating = true →
    (∀ i r, recOf s (homeKs w.fn) w.fn w.seg w.page = some (i, r) → tfind (recsOf s (homeKs w.fn)) i = some r →
      ∃ t, exec (.walkerReadComplete ks n .clean) s = .next t ∧
        tfind (recsOf t (homeKs w.fn)) i = some { r with waiters := r.waiters ++ [(w.waiter, w.va)] } ∧
        count t 0x9070 3 = count s 0x9070 3 + 1 ∧ t.mems = s.mems) ∧
    (recOf s (homeKs w.fn) w.fn w.seg w.page = none → freeIndex (recsOf s (homeKs w.fn)) < 128 →
      ∃ t r, exec (.walkerReadComplete ks n .clean) s = .next t ∧
        tfind (recsOf t (homeKs w.fn)) (freeIndex (recsOf s (homeKs w.fn))) = some r ∧ r.num = s.mig.recNext ∧ r.st = 1 ∧ r.fn = w.fn ∧ r.seg = w.seg ∧ r.page = w.page ∧ r.start = s.now ∧ r.waiters = [(w.waiter, w.va)] ∧
        (pageOf t w.fn w.seg w.page).migrating = true ∧ count t 0x9070 2 = count s 0x9070 2 + 1 ∧ t.mems = s.mems)) ∧
  (∀ (ks n : Nat) (r : FaultRec) (s : State), nextRec s ks = some n → migRunning s ks < 4 → tfind (recsOf s ks) n = some r →
    migReach s r = true →
    (∀ f, framesUsed s r.fn (segOf s r.fn r.seg).tier < quotaOf s r.fn (segOf s r.fn r.seg).tier →
      freeRun s (segOf s r.fn r.seg).tier 1 = some f →
      ∃ t, exec (.migrationStart ks n) s = .next t ∧ tfind (recsOf t ks) n = some { r with st := 3, frame := f } ∧
        t.mems = s.mems) ∧
    (∀ vs vp, quotaOf s r.fn (segOf s r.fn r.seg).tier ≤ framesUsed s r.fn (segOf s r.fn r.seg).tier →
      victimOf s r.fn (segOf s r.fn r.seg).tier (fun k => k == r.seg * 2 ^ 20 + r.page) = some (vs, vp) →
      ∃ t, exec (.migrationStart ks n) s = .next t ∧
        ((pageOf s r.fn vs vp).dirty = true → (pageOf t r.fn vs vp).migrating = true ∧
          (pageOf t r.fn vs vp).resident = (pageOf s r.fn vs vp).resident) ∧
        ((pageOf s r.fn vs vp).dirty = false → (pageOf t r.fn vs vp).resident = false) ∧
        count t 0x9070 4 = count s 0x9070 4 + 1 ∧ t.mems = s.mems ∧
        tfind (recsOf t ks) n = some { r with
          st := if (pageOf s r.fn vs vp).dirty then 2 else 3, frame := (pageOf s r.fn vs vp).frame
          victimSeg := vs, victim := vp })) ∧
  (∀ (ks n : Nat) (res : ScrubResult) (r : FaultRec) (s : State), tfind (recsOf s ks) n = some r → r.st = 2 →
    migReach s r = true →
    ∃ t, exec (.migrationWritebackComplete ks n res) s = .next t ∧ tfind (recsOf t ks) n = some { r with st := 3 } ∧
      (pageOf t r.fn r.victimSeg r.victim).resident = false ∧ (pageOf t r.fn r.victimSeg r.victim).dirty = false ∧
      (pageOf t r.fn r.victimSeg r.victim).migrating = false) ∧
  (∀ (ks n : Nat) (r : FaultRec) (s : State), tfind (recsOf s ks) n = some r → r.st = 3 → migReach s r = true →
    (∃ u, exec (.migrationReadComplete ks n false) s = .next (recDone ks n u) ∧ (pageOf u r.fn r.seg r.page).resident = true ∧
      (pageOf u r.fn r.seg r.page).dirty = false ∧ (pageOf u r.fn r.seg r.page).migrating = false ∧
      (pageOf u r.fn r.seg r.page).frame = r.frame ∧
      (s.memWf = true → memRead (tierMem (segOf s r.fn r.seg).tier) (frameAddr r.frame) pageBytes u =
        memRead .host (pageHost s r.fn r.seg r.page) pageBytes s)) ∧
    (∃ u, exec (.migrationReadComplete ks n true) s = .next (failRec ks n stMemory u) ∧ recsOf u ks = recsOf s ks ∧ u.mems.hbm = s.mems.hbm))

/-- STREAM_BINDING_ENABLE, STREAM_BINDING_DISABLE and STREAM_WATCHDOG_TICK (R322, R323, R325): an enable that is not refused
makes the binding live, one that is refused sets `cfg_error`; a disable ends it and nothing watches for it; at each whole
microsecond the watched messages that are due are marked stalled. -/
def Obligations.StreamBindings : Prop :=
  (∀ (fn n : Nat) (v : W32) (b : Binding) (s : State), barOpen s fn = true → bitOf v.toNat 0 = true → n = selBinding s fn →
    b = { bindingFields v.toNat (bindingOf s fn n) with cfgError := false } →
    ((bindingOf s fn n).enable = true →
      ∃ t, exec (.streamBindingEnable fn v) s = .next t ∧ bindingOf t fn n = { bindingOf s fn n with cfgError := false } ∧
        t.mems = s.mems) ∧
    ((bindingOf s fn n).enable = false → bindingRefused s fn n b = false →
      ∃ t, exec (.streamBindingEnable fn v) s = .next t ∧ bindingOf t fn n = { b with enable := true, keyStale := false } ∧
        t.mems = s.mems) ∧
    ((bindingOf s fn n).enable = false → bindingRefused s fn n b = true →
      ∃ t, exec (.streamBindingEnable fn v) s = .next t ∧ bindingOf t fn n = { b with cfgError := true } ∧ t.mems = s.mems)) ∧
  (∀ (fn : Nat) (v : W32) (s : State), barOpen s fn = true → bitOf v.toNat 0 = false →
    ∃ t, exec (.streamBindingDisable fn v) s = .next t ∧ (bindingOf t fn (selBinding s fn)).enable = false ∧
      (bindingOf t fn (selBinding s fn)).cfgError = false ∧ (∀ k ∈ t.enpin.trackers, k.watch ≠ some (fn, selBinding s fn)) ∧
      t.mems = s.mems) ∧
  (∀ (s : State), ∃ t, exec .streamWatchdogTick s = .next t ∧ t.now = (s.now / 1000 + 1) * 1000 ∧
    t.enpin.trackers = s.enpin.trackers.map (fun k =>
      if stallDue (advanceTo ((s.now / 1000 + 1) * 1000) s) k then { k with stalled := true } else k))

/-- CUT_RULE_ENABLE, CUT_RULE_DISABLE, PD23_POWER_ON, CUTTER_INCREMENT, STAMP_READ_COMPLETE and ANSWER_TIMEOUT (R331, R334, R337 to
R341). A rule takes its descriptor's copy when it is enabled; a cut frame advances its semaphore; the stamp answers the oldest
pending request with the frame that its template and patches make, and releases its slot. -/
def Obligations.CutRulesWork : Prop :=
  (∀ (v : W32) (s : State), cutFitted s.part = true → bitOf v.toNat 0 = true → (cutRuleOf s (s.cut.sel % 64)).enable = false →
    (cutRefused s (s.cut.sel % 64) (ledBytes s 0x3300 (s.cut.sel % 64 + 1)) = false →
      ∃ t, exec (.cutRuleEnable v) s = .next t ∧ t.mems = s.mems ∧ cutRuleOf t (s.cut.sel % 64) =
        { desc := ledBytes s 0x3300 (s.cut.sel % 64 + 1), enable := true, active := s.cut.pd23 }) ∧
    (cutRefused s (s.cut.sel % 64) (ledBytes s 0x3300 (s.cut.sel % 64 + 1)) = true →
      ∃ t, exec (.cutRuleEnable v) s = .next t ∧ (cutRuleOf t (s.cut.sel % 64)).enable = false ∧
        (cutRuleOf t (s.cut.sel % 64)).cfgError = true ∧ t.mems = s.mems)) ∧
  (∀ (v : W32) (s : State), cutFitted s.part = true → bitOf v.toNat 0 = false → (cutRuleOf s (s.cut.sel % 64)).enable = true →
    ∃ t, exec (.cutRuleDisable v) s = .next t ∧ (cutRuleOf t (s.cut.sel % 64)).enable = false ∧
      (cutRuleOf t (s.cut.sel % 64)).active = false ∧ (cutRuleOf t (s.cut.sel % 64)).reqs = [] ∧ t.mems = s.mems) ∧
  (∀ (s : State), s.cut.rules.any (fun p => p.2.enable) = true →
    ∃ t, exec .pd23PowerOn s = .next t ∧ t.cut.pd23 = true ∧ (∀ p ∈ t.cut.rules, p.2.active = p.2.enable) ∧ t.mems = s.mems) ∧
  (∀ (rule slot seq : Nat) (q : CutReq) (s : State), reqAt (cutRuleOf s rule) slot = some q → q.st = .filling seq →
    ∃ t, exec (.cutterIncrement rule slot) s = .next t ∧
      reqAt (cutRuleOf t rule) slot = some { q with st := .pending seq s.now } ∧
      semOf t (cutCore (cutRuleOf s rule).desc) (cutSem (cutRuleOf s rule).desc) =
        min 65535 (semOf s (cutCore (cutRuleOf s rule).desc) (cutSem (cutRuleOf s rule).desc) + 1) ∧
      count t 0x9044 1 = count s 0x9044 1 + 1) ∧
  (∀ (rule a seq since : Nat) (q : CutReq) (b : List Byte) (s : State), (cutRuleOf s rule).enable = true →
    0 < (cutRuleOf s rule).reads → ((cutRuleOf s rule).reqs.filter isPending).head? = some q → q.st = .pending seq since →
    a = scratchBase (cutOutCore (cutRuleOf s rule).desc) + cutAnsBase (cutRuleOf s rule).desc +
      q.slot * cutStride (cutRuleOf s rule).desc →
    badIn .scratch a (4 + cutAnsLen (cutRuleOf s rule).desc) s = none →
    b = memRead .scratch a (4 + cutAnsLen (cutRuleOf s rule).desc) s → df b 0 3 = seq → bitOf (df b 3 1) 7 = false →
    (portOf s (cutPort rule)).linkUp = true →
    ∃ t f, exec (.stampReadComplete rule) s = .next t ∧
      (portOf t (cutPort rule)).express = (portOf s (cutPort rule)).express ++ [f] ∧
      f.bytes = answerFrame (cutRuleOf s rule).desc seq q.arrival q.header (b.drop 4) ∧ f.express = true ∧
      reqAt (cutRuleOf t rule) q.slot = none ∧ (cutRuleOf t rule).reads + 1 = (cutRuleOf s rule).reads ∧
      count t 0x9044 5 = count s 0x9044 5 + 1 ∧ t.mems = s.mems) ∧
  (∀ (rule slot seq since : Nat) (q : CutReq) (s : State), reqAt (cutRuleOf s rule) slot = some q → q.st = .pending seq since →
    ∃ t, exec (.answerTimeout rule slot) s = .next t ∧ reqAt (cutRuleOf t rule) slot = none ∧
      t.now = max s.now (since + cutTimeout (cutRuleOf s rule).desc) ∧ count t 0x9044 7 = count s 0x9044 7 + 1 ∧
      t.mems = s.mems)

/-- ETH_FRAME_RECEIVE, PAUSE_FRAME_RECEIVE, PAUSE_TIMER_EXPIRY, XOFF_REPEAT and VERIFY_RESPONSE_RECEIVE (R353, R355 to R359, R361,
R362). A fragment is counted; an express frame that a cut rule matches takes a slot of the rule; of the other good frames an Enpin
packet goes to the internal port, and one that is neither Enpin nor tagged to the port's receive ring. -/
def Obligations.PortsReceive : Prop :=
  (∀ (port : Nat) (f : EthFrame) (s : State), portFitted s port = true → (portOf s port).linkUp = true → f.overflow = false →
    heldBytes s port 8 + ledN s (portCfg port) 3 ≤ 2 ^ 21 →
    (∀ n k, f.reassemblyError = false → f.fragment = false → frameFlags s port f = 0 → nAt f.bytes 12 2 ≠ 0x8808 →
      f.express = true → oddTags f.bytes = false → cutMatch s port f.bytes = some n →
      coreDark s (cutCore (cutRuleOf s n).desc) = false → freeSlot (cutRuleOf s n) = some k →
      bitOf (df (cutRuleOf s n).desc 1 1) 0 = false →
      ∃ t, exec (.ethFrameReceive port f) s = .next t ∧ t.eth = s.eth ∧ reqAt (cutRuleOf t n) k =
        some { slot := k, st := .filling (cutRuleOf s n).nextSeq, header := f.bytes.take 128, arrival := s.now }) ∧
    (f.reassemblyError = true →
      ∃ t, exec (.ethFrameReceive port f) s = .next t ∧ count t (portCtr port) 0x0B = count s (portCtr port) 0x0B + 1 ∧
        t.eth = s.eth ∧ t.mems = s.mems) ∧
    (f.reassemblyError = false → f.fragment = true → f.express = false ∨ oddTags f.bytes = true ∨ cutMatch s port f.bytes = none →
      ∃ t, exec (.ethFrameReceive port f) s = .next t ∧ count t (portCtr port) 0x0A = count s (portCtr port) 0x0A + 1 ∧
        t.eth = s.eth ∧ t.mems = s.mems) ∧
    (f.reassemblyError = false → f.fragment = false → frameFlags s port f = 0 → nAt f.bytes 12 2 ≠ 0x8808 →
      f.express = false ∨ oddTags f.bytes = true ∨ cutMatch s port f.bytes = none →
      (∀ p, classify s port f.bytes = .ok p →
        ∃ t r, exec (.ethFrameReceive port f) s = .next t ∧ t.eth.internal = s.eth.internal ++ [(r, p)] ∧ r.port = some port ∧
          r.ks = portKs port ∧ count t (portCtr port) 1 = count s (portCtr port) 1 + 1 ∧ t.mems = s.mems) ∧
      (∀ m a, classify s port f.bytes = .notEnpin → hasTag f.bytes = false → (portOf s port).rxr.enable = true →
        (portOf s port).rxr.full = false → (portOf s port).rxr.inHost = false ∨ hostOk s = true →
        f.bytes.length + 32 ≤ slotBytesOf (portOf s port).rxM →
        frameSlot port (ringSram (portOf s port).rxr.size)
          (ringBase (portOf s port).rxr.baseLo (portOf s port).rxr.baseHi) (portOf s port).rxM (portOf s port).rxr.prod = (m, a) →
        ∃ t, exec (.ethFrameReceive port f) s = .next t ∧ (portOf t port).rxr = (portOf s port).rxr.pushed ∧
          count t (portCtr port) 1 = count s (portCtr port) 1 + 1 ∧
          (s.memWf = true → memRead m (a + 32) f.bytes.length t = f.bytes)))) ∧
  (∀ (port mask q : Nat) (pfc : Bool) (quanta : List Nat) (s : State), (portOf s port).linkUp = true →
    ∃ t, exec (.pauseFrameReceive port pfc mask (q :: quanta)) s = .next t ∧ t.mems = s.mems ∧
      (ledN s (portCfg port) 5 = 1 → pfc = false →
        (portOf t port).paused = (if q = 0 then none else some (s.now + quantaNs s q))) ∧
      (ledN s (portCfg port) 5 = 2 → pfc = true → bitOf mask 0 = true → q ≠ 0 →
        tfind (portOf t port).pfc 0 = some (s.now + quantaNs s q))) ∧
  (∀ (port at_ : Nat) (s : State),
    ((portOf s port).paused = some at_ → ∃ t, exec (.pauseTimerExpiry port none) s = .next t ∧ (portOf t port).paused = none ∧
      t.now = max s.now at_ ∧ t.mems = s.mems) ∧
    (∀ c, tfind (portOf s port).pfc c = some at_ → ∃ t, exec (.pauseTimerExpiry port (some c)) s = .next t ∧
      tfind (portOf t port).pfc c = none ∧ t.now = max s.now at_ ∧ t.mems = s.mems)) ∧
  (∀ (port prio at_ : Nat) (s : State), tfind (portOf s port).xoff prio = some at_ →
    ∃ t, exec (.xoffRepeat port prio) s = .next t ∧ t.now = max s.now at_ ∧
      tfind (portOf t port).xoff prio = some (t.now + quantaNs s (ledN s (portCfg port) 9) / 2) ∧ t.mems = s.mems) ∧
  (∀ (port n : Nat) (s : State), (portOf s port).verify = .verifying n →
    ∃ t, exec (.verifyResponseReceive port) s = .next t ∧ (portOf t port).verify = .succeeded ∧ t.mems = s.mems)

/-- ETH_FRAME_TRANSMIT, ETH_TX_COMPLETE, ETH_TXR_DOORBELL, ETH_RING_ENABLE, ETH_RXR_HEAD_WRITE and ETH_STAT_READ (R13, R349,
R361 to R365). ETH_LINK_UP, ETH_LINK_DOWN, ETH_ENABLE_WRITE and VERIFY_TIMEOUT (R347, R348, R353). -/
def Obligations.PortsTransmitAndLink : Prop :=
  (
  (∀ (port : Nat) (f : TxFrame) (s : State), (portOf s port).linkUp = true → (portOf s port).cur = none →
    (expressReady s port = some f →
      ∃ t, exec (.ethFrameTransmit port) s = .next t ∧ (portOf t port).cur = some f ∧
        (portOf t port).express = (portOf s port).express.drop 1 ∧ t.mems = s.mems) ∧
    (expressReady s port = none → (portOf s port).hung = some f →
      ∃ t, exec (.ethFrameTransmit port) s = .next t ∧ (portOf t port).cur = some f ∧ (portOf t port).hung = none) ∧
    (∀ c, expressReady s port = none → (portOf s port).hung = none → classReady s port = some c →
      (tget [] (portOf s port).classes c).head? = some f →
      (tagged s port c f.bytes).length = f.bytes.length ∨ (tagged s port c f.bytes).length + 4 ≤ ledN s (portCfg port) 3 →
      ∃ t, exec (.ethFrameTransmit port) s = .next t ∧
        (portOf t port).cur = some { f with bytes := tagged s port c f.bytes, addFrag := ledN s (portCfg port) 0x0B } ∧
        tget [] (portOf t port).classes c = (tget [] (portOf s port).classes c).drop 1)) ∧
  (∀ (port : Nat) (f : TxFrame) (s : State), (portOf s port).cur = some f →
    ∃ t, exec (.ethTxComplete port) s = .next (slotPassed port f.ring t) ∧ t.out = .eth port f.express f.bytes :: s.out ∧ (portOf t port).cur = none ∧
      count t (portCtr port) 3 = count s (portCtr port) 3 + 1 ∧
      count t (portCtr port) 4 = count s (portCtr port) 4 + BitVec.ofNat 64 (f.bytes.length + 4) ∧ t.mems = s.mems) ∧
  (∀ (port a : Nat) (m : MemId) (h : List Byte) (s : State), portFitted s port = true → (portOf s port).txEnable = true →
    isReady s = true → (portOf s port).txSram = true ∨ hostOk s = true →
    frameSlot port (portOf s port).txSram (ringBase (portOf s port).txBaseLo (portOf s port).txBaseHi) (portOf s port).txM
      (portOf s port).txScan = (m, a) → h = memRead m a 32 s →
    (bitOf (df h 31 1) 7 ≠ (portOf s port).txPhase →
      ∃ t, exec (.ethTxrDoorbell port) s = .next t ∧ (portOf t port).txArmed = true ∧
        (portOf t port).txScan = (portOf s port).txScan ∧ t.mems = s.mems) ∧
    (bitOf (df h 31 1) 7 = (portOf s port).txPhase → txSlotBad s port (portOf s port).txM h = false →
      ∃ w, exec (.ethTxrDoorbell port) s = .next (txScan port (2 ^ (portOf s port).txLog2 - 1)
          (queueSlot port (portOf s port).txScan h (memRead m (a + 32) (df h 2 2) s) w)) ∧ (portOf w port).txArmed = true ∧
        ((portOf w port).txScan, (portOf w port).txPhase) =
          ringNext (portOf s port).txLog2 (portOf s port).txScan (portOf s port).txPhase)) ∧
  (∀ (port : Nat) (v : W32) (s : State), portFitted s port = true → bitOf v.toNat 8 = true → 6 ≤ v.toNat % 32 → v.toNat % 32 ≤ 16 →
    ((portOf s port).rxr.enable = false →
      ∃ t, exec (.ethRingEnable port false v) s = .next t ∧ (portOf t port).rxr.enable = true ∧ (portOf t port).rxr.prod = 0 ∧
        (portOf t port).rxr.phase = true ∧ (portOf t port).rxr.armed = true ∧ (portOf t port).rxM = fieldOf v.toNat 5 2) ∧
    ((portOf s port).txEnable = false →
      ∃ t, exec (.ethRingEnable port true v) s = .next t ∧ (portOf t port).txEnable = true ∧ (portOf t port).txHead = 0 ∧
        (portOf t port).txScan = 0 ∧ (portOf t port).txPhase = true ∧ (portOf t port).txLog2 = v.toNat % 32)) ∧
  (∀ (port : Nat) (v : W32) (s : State), portFitted s port = true →
    ∃ t, exec (.ethRxrHeadWrite port v) s = .next t ∧ (portOf t port).rxr.cons = v.toNat % 65536 ∧
      (portOf t port).rxr.armed = (portOf s port).rxr.enable ∧ t.mems = s.mems) ∧
  (∀ (port : Nat) (s : State), portFitted s port = true → 1 ≤ (portOf s port).statSel → (portOf s port).statSel ≤ 0x1B →
    ∃ t, exec (.ethStatRead port) s = .next t ∧
      t.out = .regRead ((count (settlePaused port s) (portCtr port) (portOf s port).statSel).setWidth 32) :: s.out ∧
      (portOf t port).statHi =
        BitVec.ofNat 32 ((count (settlePaused port s) (portCtr port) (portOf s port).statSel).toNat / 2 ^ 32) ∧
      count t (portCtr port) (portOf s port).statSel = 0 ∧ t.mems = s.mems)) ∧
  (
  (∀ (port : Nat) (s : State), portFitted s port = true → (portOf s port).linkUp = false → ledN s (portCfg port) 2 = 1 →
    s.board.supply = true → s.board.clk156 = true → 8 ≤ s.board.step →
    ∃ t, exec (.ethLinkUp port) s = .next t ∧ (portOf t port).linkUp = true ∧ t.mems = s.mems) ∧
  (∀ (port : Nat) (c : Instr) (s : State), (portOf s port).linkUp = true →
    c = .ethLinkDown port ∨ (c = .ethEnableWrite port 0 ∧ portFitted s port = true) →
    ∃ t, exec c s = .next t ∧ (portOf t port).linkUp = false ∧ (portOf t port).express = [] ∧ (portOf t port).classes = [] ∧
      (portOf t port).cur = none ∧ (portOf t port).hung = none ∧ (portOf t port).paused = none ∧ (portOf t port).pfc = [] ∧
      count t (portCtr port) 0x18 = count s (portCtr port) 0x18 + 1 ∧ t.mems = s.mems) ∧
  (∀ (port : Nat) (s : State), portFitted s port = true →
    ∃ t, exec (.ethEnableWrite port 1) s = .next t ∧ ledN t (portCfg port) 2 = 1 ∧ t.eth = s.eth ∧ t.mems = s.mems) ∧
  (∀ (port n : Nat) (s : State), (portOf s port).verify = .verifying n →
    ∃ t, exec (.verifyTimeout port) s = .next t ∧
      t.now = max s.now (portOf s port).verifyAt ∧
      (n < 3 → (portOf t port).verify = .verifying (n + 1) ∧ t.out = .verify port :: s.out) ∧
      (3 ≤ n → (portOf t port).verify = .failed) ∧ t.mems = s.mems))

/-- A range of an entry's virtual space has been used: its pages' stamps and cached translations are renewed (R304, R306). -/
def Sys2Proof.Obl.used (q : QRef) (va len : Nat) (s : State) : State := vtouch (ksAgent (queueKs s q)) (queueFn q) va len s

/-- VDEV_CREATE, VDEV_DESTROY, VDEV_RESET, VDEV_DRAIN_END and CLUSTER_RETURN (R50, R77, R386, R388, R390, R392, R393, R495). A
creation that R390 does not refuse gives the device what its descriptor asks and the lowest free queue pairs, and makes it ACTIVE;
one that it refuses ends with the first cause. A destroy or reset revokes every key and empties the device; it ends when the drains
have. A destroyed device's clusters come back to the pool as zeros. -/
def Obligations.VdevsComeAndGo : Prop :=
  (∀ (q : QRef) (e : Entry) (d : List Byte) (s a b u : State), eOp e = 0x80 → Ready s q e → (fnOf s (eVdev e)).vop = none →
    a = advanceHead e q s → xlate a (queueFn q) (eLocal e) 64 false = .ok → b = used q (eLocal e) 64 a →
    xlate b (queueFn q) (eResult e) 32 true = .ok → u = used q (eResult e) 32 b →
    rangeReach u (queueFn q) (eLocal e) 64 = true → d = readAny u (queueFn q) (eLocal e) 64 →
    (∀ c cs, createCauses u (eVdev e) d = c :: cs →
      exec (.vdevCreate q e) s = .next (vdevCause q (queueOf s q).head (eResult e) c u)) ∧
    (createCauses u (eVdev e) d = [] → ∃ base w, freeQps u (df d 0 2) = some base ∧
      exec (.vdevCreate q e) s = .next (putVdev q (queueOf s q).head (eResult e)
        (resultBlock 0 base (grantOfDesc d base).clusters.toNat 0 0) w) ∧
      grantOf w (eVdev e) = some (grantOfDesc d base) ∧ (fnOf w (eVdev e)).vstate = .active ∧ (fnOf w (eVdev e)).sends = [] ∧
      (∀ c ∈ coresOf w (eVdev e), (coreOf w c).sems = []) ∧ w.mems = s.mems)) ∧
  (∀ (q : QRef) (e : Entry) (g : Grant) (s a u : State), eOp e = 0x81 → Ready s q e → (fnOf s (eVdev e)).vop = none →
    a = advanceHead e q s → xlate a (queueFn q) (eResult e) 32 true = .ok → u = used q (eResult e) 32 a → grantOf u (eVdev e) = some g →
    ∃ w, exec (.vdevDestroy q e) s = .next w ∧ grantOf w (eVdev e) = none ∧ (fnOf w (eVdev e)).vstate = .none ∧
      (fnOf w (eVdev e)).retiring = some { g with clusters := 0 } ∧
      (fnOf w (eVdev e)).vop = some (.destroy q (queueOf s q).head (BitVec.ofNat 64 (eResult e))) ∧
      w.pools.returning = s.pools.returning ++ bitsOf g.clusters.toNat 32 ∧
      (∀ i, (keyOf w i).valid = true → (keyOf w i).owner ≠ eVdev e)) ∧
  (∀ (q : QRef) (e : Entry) (s a u : State), eOp e = 0x85 → Ready s q e → (fnOf s (eVdev e)).vop = none →
    a = advanceHead e q s → xlate a (queueFn q) (eResult e) 32 true = .ok → u = used q (eResult e) 32 a → (grantOf u (eVdev e)).isSome = true →
    (fnOf u (eVdev e)).vstate ≠ .frozen →
    ∃ w, exec (.vdevReset q e) s = .next w ∧ grantOf w (eVdev e) = grantOf u (eVdev e) ∧ (fnOf w (eVdev e)).vstate = .active ∧
      (fnOf w (eVdev e)).haltStatus = 0 ∧
      (fnOf w (eVdev e)).vop = some (.reset q (queueOf s q).head (BitVec.ofNat 64 (eResult e))) ∧
      (∀ i, (keyOf w i).valid = true → (keyOf w i).owner ≠ eVdev e) ∧
      (eVdev e ≠ 0 → (fnOf w (eVdev e)).sends = [] ∧ (fnOf w (eVdev e)).segs = [] ∧ (fnOf w (eVdev e)).counters = [])) ∧
  (∀ (v : Nat) (q : QRef) (idx : Nat) (va : W64) (s : State), keysDrained (endDrains v s) v = true →
    ((fnOf s v).vop = some (.reset q idx va) →
      ∃ u, exec (.vdevDrainEnd v) s = .next (putVdev q idx va.toNat (resultBlock 0 0 0 0 0) u) ∧ (fnOf u v).vop = none ∧
        (∀ i, (keyOf u i).owner = v → (keyOf u i).revoking = false)) ∧
    ((fnOf s v).vop = some (.destroy q idx va) →
      ∃ u, exec (.vdevDrainEnd v) s = .next (putVdev q idx va.toNat (resultBlock 0 0 0 0 0) u) ∧ (fnOf u v).vop = none ∧
        (fnOf u v).retiring = none ∧ (∀ i, (keyOf u i).owner = v → (keyOf u i).revoking = false))) ∧
  (∀ (n : Nat) (s : State), n ∈ s.pools.returning →
    ∃ t, exec (.clusterReturn n) s = .next t ∧ (∀ x, x ∈ t.pools.returning ↔ x ∈ s.pools.returning ∧ x ≠ n) ∧
      (∀ c, n * 16 ≤ c → c < n * 16 + 16 → (coreOf t c).sems = [] ∧ (coreOf t c).bankSt = 0 ∧
        (s.memWf = true → ∀ a, scratchBase c ≤ a → a < scratchBase c + 2 ^ 22 → memRead .scratch a 1 t = [0])) ∧
      (s.memWf = true → ∀ a, clusterBase n ≤ a → a < clusterBase n + 2 ^ 25 → memRead .cluster a 1 t = [0]))

/-- VDEV_FREEZE, VDEV_FREEZE_DRAIN_END, VDEV_SAVE, VDEV_SAVE_COMPLETE, VDEV_RESTORE and VDEV_RESTORE_COMPLETE (R391, R394, R395,
R397). A freeze takes nothing more and ends the device's LAUNCHes; its drain writes back what is dirty and can be written back. A save writes the image of a
frozen device; a restore revokes the keys that the target holds, and when they have drained the image is the device's and it is
ACTIVE. -/
def Obligations.VdevsFreezeAndMove : Prop :=
  (∀ (q : QRef) (e : Entry) (s a u : State), eOp e = 0x82 → Ready s q e → (fnOf s (eVdev e)).vop = none →
    a = advanceHead e q s → xlate a (queueFn q) (eResult e) 32 true = .ok → u = used q (eResult e) 32 a → freezeCauses u (eVdev e) = [] →
    ∃ w, exec (.vdevFreeze q e) s = .next w ∧ (fnOf w (eVdev e)).vstate = .frozen ∧
      (fnOf w (eVdev e)).vop = some (.freeze q (queueOf s q).head (BitVec.ofNat 64 (eResult e))) ∧
      (∀ l ∈ w.compute.launches, l.fn ≠ eVdev e)) ∧
  (∀ (v : Nat) (q : QRef) (idx : Nat) (va : W64) (s : State), (fnOf s v).vop = some (.freeze q idx va) →
    freezeQuiet s v = true → hostOk s = true → (∀ r ∈ (fnOf s v).cqs, r.2.held = []) →
    ∃ u, exec (.vdevFreezeDrainEnd v) s = .next (putVdev q idx va.toNat (resultBlock 0 0 0 0 0) u) ∧ (fnOf u v).vop = none ∧
      (fnOf u v).vstate = (fnOf s v).vstate ∧
      (∀ p, (pageOf u v (p / 2 ^ 20) (p % 2 ^ 20)).resident = true → (segOf s v (p / 2 ^ 20)).migrationsFail = false →
        (pageOf u v (p / 2 ^ 20) (p % 2 ^ 20)).dirty = false)) ∧
  (∀ (q : QRef) (e : Entry) (s a b u : State), eOp e = 0x83 → Ready s q e → (fnOf s (eVdev e)).vop = none →
    a = advanceHead e q s → xlate a (queueFn q) (eLocal e) (eBufLen e) true = .ok → b = used q (eLocal e) (eBufLen e) a →
    xlate b (queueFn q) (eResult e) 32 true = .ok → u = used q (eResult e) 32 b → frozenCauses u (eVdev e) = [] →
    (eBufLen e < (imageOf u (eVdev e)).length → exec (.vdevSave q e) s = .next
      (putVdev q (queueOf s q).head (eResult e) (resultBlock 11 0 0 0 (imageOf u (eVdev e)).length) u)) ∧
    ((imageOf u (eVdev e)).length ≤ eBufLen e → rangeReach u (queueFn q) (eLocal e) (eBufLen e) = true →
      ∃ w, exec (.vdevSave q e) s = .next w ∧ w.mems = s.mems ∧ (fnOf w (eVdev e)).vstate = .frozen ∧
        (fnOf w (eVdev e)).vop = some (.save q (queueOf s q).head (BitVec.ofNat 64 (eLocal e))
          (BitVec.ofNat 64 (eBufLen e)) (BitVec.ofNat 64 (eResult e))))) ∧
  (∀ (v : Nat) (q : QRef) (idx : Nat) (buf len va : W64) (s : State), (fnOf s v).vop = some (.save q idx buf len va) →
    rangeReach s (queueFn q) buf.toNat len.toNat = true →
    ∃ u, (fnOf u v).vop = none ∧ u.mems = s.mems ∧ exec (.vdevSaveComplete v) s = .next (putVdev q idx va.toNat
      (resultBlock 0 0 0 0 (imageOf s v).length) (writeAny (queueFn q) buf.toNat (imageOf s v) u))) ∧
  (∀ (q : QRef) (e : Entry) (g : Grant) (b : List Byte) (s x y z u : State), eOp e = 0x84 → Ready s q e →
    (fnOf s (eVdev e)).vop = none → x = advanceHead e q s → xlate x (queueFn q) (eLocal e) (eBufLen e) false = .ok →
    y = used q (eLocal e) (eBufLen e) x → xlate y (queueFn q) (eMap e) (mapBytes y q e) true = .ok →
    z = used q (eMap e) (mapBytes y q e) y → xlate z (queueFn q) (eResult e) 32 true = .ok → u = used q (eResult e) 32 z →
    frozenCauses u (eVdev e) = [] → rangeReach u (queueFn q) (eLocal e) (eBufLen e) = true →
    b = readAny u (queueFn q) (eLocal e) (eBufLen e) → imageOk b (eBufLen e) = true → grantOf u (eVdev e) = some g →
    (grantHolds g (sectionOf b 1) = false →
      exec (.vdevRestore q e) s = .next (vdevCause q (queueOf s q).head (eResult e) 13 u)) ∧
    (grantHolds g (sectionOf b 1) = true →
      ∃ w, exec (.vdevRestore q e) s = .next w ∧ (∀ i, (keyOf w i).valid = true → (keyOf w i).owner ≠ eVdev e) ∧
        (fnOf w (eVdev e)).vop = some (.restore q (queueOf s q).head b (BitVec.ofNat 64 (eMap e))
          (BitVec.ofNat 64 (eResult e)) (bitOf (eVflags e) 0)))) ∧
  (∀ (v : Nat) (q : QRef) (idx : Nat) (b : List Byte) (map va : W64) (hostSame : Bool) (g : Grant) (s : State),
    (fnOf s v).vop = some (.restore q idx b map va hostSame) → keysDrained (endDrains v s) v = true → grantOf s v = some g →
    sectionOf b 3 ≠ [] →
    ∃ m w, restoreAll v b hostSame (setVop v none (endDrains v s)) = (m, w) ∧
      (fnOf w v).vstate = .active ∧ (fnOf w v).haltStatus = 0 ∧ (fnOf w v).vop = none ∧
      (∀ i, i < 4096 → counterOf w v i = BitVec.ofNat 48 (df (sectionOf b 3) (8 * i) 8)) ∧
      (m = [] ∨ rangeReach w (queueFn q) map.toNat (8 * m.length) = true →
        exec (.vdevRestoreComplete v) s =
          .next (putVdev q idx va.toNat (resultBlock 0 g.qpBase g.clusters.toNat m.length 0)
            (if m.isEmpty then w else writeAny (queueFn q) map.toNat
              (m.map (fun p => leBytes 4 p.1.toNat ++ leBytes 4 p.2.toNat)).flatten w))))

/-- HOST_DATA_LINK_DOWN, HOST_DATA_LINK_UP, PERST_ASSERT, PERST_DEASSERT, HOST_ATTACH_RESUME and HOST_ATTACH_FRESH (R378 to R381,
R489). Losing the link, or PERST#, detaches the device, abandons what needs the host and counts the loss, or resets the module under
policy 1; a link that trains does not attach. A resume writes the held records and scans every enabled queue whose ring lies in host
memory, admin rings first, then each Keystone's in rounds; a fresh attach leaves every such
queue in RESET and what the host held off. -/
def Obligations.HostLinkComesAndGoes : Prop :=
  (∀ (s : State) (c : Instr), (c = .hostDataLinkDown ∧ s.host.linkUp = true) ∨
      (c = .perstAssert ∧ s.host.perst = false ∧ s.board.supply = true ∧ 9 ≤ s.board.step) →
    ∃ u, u.host.linkUp = false ∧ u.host.perst = (s.host.perst || decide (c = .perstAssert)) ∧ u.mems = s.mems ∧
      (s.host.lossAt ≠ some s.now → u.host.lost = true ∧ u.host.losses = min 255 (s.host.losses + 1) ∧
        count u 0x9045 1 = count s 0x9045 1 + 1) ∧
      (ledN s 0x4170 1 = 1 → exec c s = .next (resetModule 2 u)) ∧
      (ledN s 0x4170 1 ≠ 1 → hostOk s = true → u.host.attached = false ∧ exec c s = .next (abandonHost u)) ∧
      (ledN s 0x4170 1 ≠ 1 → hostOk s = false → u.host.attached = false ∧ exec c s = .next u)) ∧
  (∀ (s : State), s.host.perst = false → s.board.step < 9 →
    ∃ t, exec .perstAssert s = .next t ∧ t.host.perst = true ∧ t.host.linkUp = false ∧ t.host.attached = s.host.attached ∧
      t.host.losses = s.host.losses ∧ t.board = s.board ∧ t.fns = s.fns) ∧
  (∀ (s : State), ∃ t, exec .perstDeassert s = .next t ∧ t.host.perst = false ∧ t.host.linkUp = s.host.linkUp ∧
    t.host.attached = s.host.attached ∧ t.fns = s.fns) ∧
  (∀ (x16 gt64 : Bool) (s : State), s.board.supply = true → s.board.clk100 = true → s.host.perst = false → 9 ≤ s.board.step →
    ∃ t, exec (.hostDataLinkUp x16 gt64) s = .next t ∧ t.host.linkUp = true ∧ t.host.width = (if x16 then 3 else 2) ∧
      t.host.speed = (if gt64 then 2 else 1) ∧ t.host.attached = s.host.attached ∧ t.fns = s.fns ∧ t.mems = s.mems) ∧
  (∀ (s u a b : State) (due : List QRef), hostOk s = false →
    u = foldS writeHeld (s.fns.map Prod.fst) { s with host := { s.host with attached := true } } →
    due = (allQueues u).filter (fun q => (queueOf u q).enable && hostRing u q && (queueOf u q).st != .reset &&
      (queueOf u q).rescanAt.isNone) →
    a = foldS (fun q t => serveAdmin q wholeRing t) (due.filter (fun q => q.kind == .admin)) u →
    b = roundsOn 0 wholeRing ((due.filter (fun q => q.kind != .admin)).filter (fun q => queueKs a q == 0)) a →
    u.host.attached = true ∧ exec .hostAttachResume s =
      .next (roundsOn 1 wholeRing ((due.filter (fun q => q.kind != .admin)).filter (fun q => queueKs b q == 1)) b)) ∧
  (∀ (s : State), hostOk s = false → isFatal s = false →
    ∃ t, exec .hostAttachFresh s = .next t ∧ t.host.attached = true ∧
      (∀ q ∈ allQueues s, hostRing s q = true → (queueOf t q).st = .reset) ∧
      (∀ fn ring, (tfind s.fns fn).isSome = true → (cqOf t fn ring).inHost = true →
        (cqOf t fn ring).enable = false ∧ (cqOf t fn ring).held = []) ∧
      (∀ fn i, i < 16 → (segOf s fn i).tier = 2 → (segOf t fn i).enable = false) ∧
      (∀ fn, (fnOf t fn).xw.enable = false))

/-- CXL_COMPLETION_TIMEOUT, SNOOP_RECEIVE, VF_FLR, PF_FLR, FLR_DRAIN_END and EXCHANGE_WINDOW_ENABLE (R367, R376, R382 to R384, R391).
A timed-out read ends what asked for it with HOST_LINK_LOST and is no loss. A VF's FLR leaves its grants alone, revokes its keys, and
closes its BAR until they have drained; a frozen VF keeps its state, one without a device loses what it has of its own. The PF's FLR is a host loss too. -/
def Obligations.TimeoutsFlrsAndWindows : Prop :=
  (∀ (ks n : Nat) (r : FaultRec) (s : State), tfind (recsOf s ks) n = some r → r.st = 2 ∨ r.st = 3 →
    ∃ u, exec (.cxlCompletionTimeout (.migration ks n)) s = .next (failRec ks n stHostLost u) ∧
      count u 0x9045 4 = count s 0x9045 4 + 1 ∧ u.host = s.host ∧ u.mig = s.mig) ∧
  (∀ (q : QRef) (idx : Nat) (s : State), needsHost s q idx = true → (takenAt? s q idx).isSome = true →
    (∀ f ∈ s.fns, ∀ p i b l r, f.2.vop = some (.save p i b l r) → ¬ (p = q ∧ i = idx)) →
    ∃ u, exec (.cxlCompletionTimeout (.entry q idx)) s = .next (complete q idx stHostLost 0 0 u) ∧
      count u 0x9045 4 = count s 0x9045 4 + 1 ∧ u.host = s.host ∧ u.fns = s.fns) ∧
  (∀ (qp : Nat) (s : State), (s.enpin.banker0 ++ s.enpin.banker1).any (fun p => p.needQp == some qp) = true →
    exec (.cxlCompletionTimeout (.qpContext qp)) s =
      .next (dropForHost (fun p => p.needQp == some qp) (bump 0x9045 4 1 s))) ∧
  (∀ (line : Nat) (s : State), ∃ t, exec (.snoopReceive line) s = .next t ∧ t.out = .snoopAnswer line :: s.out ∧
    t.mems = s.mems ∧ t.fns = s.fns ∧ t.mig = s.mig) ∧
  (∀ (fn : Nat) (s : State), fn ≠ 0 →
    ((fnOf s fn).vstate = .active ∨ (fnOf s fn).vstate = .halted →
      ∃ t, exec (.vfFlr fn) s = .next t ∧ barOpen t fn = false ∧ grantOf t fn = grantOf s fn ∧ (fnOf t fn).vstate = .active ∧
        (fnOf t fn).sends = [] ∧ (fnOf t fn).segs = [] ∧ (fnOf t fn).msixTable = [] ∧
        (∀ i, (keyOf t i).valid = true → (keyOf t i).owner ≠ fn)) ∧
    ((fnOf s fn).vstate = .frozen →
      ∃ t, exec (.vfFlr fn) s = .next t ∧ t.keys = s.keys ∧ t.mig = s.mig ∧
        fnOf t fn = { fnOf s fn with msixUnmasked := [], msixTable := [], msixPending := [] }) ∧
    ((fnOf s fn).vstate = .none →
      ∃ t, exec (.vfFlr fn) s = .next t ∧ t.keys = s.keys ∧ t.mig = s.mig ∧ fnOf t fn =
        { fnOf s fn with telem := {}, xw := {}, bindings := [], msixUnmasked := [], msixTable := [], msixPending := [] })) ∧
  (∀ (fn : Nat) (s : State), barOpen s fn = false → keysDrained (endDrains fn s) fn = true →
    ∃ t, exec (.flrDrainEnd fn) s = .next t ∧ barOpen t fn = true ∧ grantOf t fn = grantOf s fn ∧
      (∀ i, (keyOf t i).owner = fn → (keyOf t i).revoking = false)) ∧
  (∀ (s : State), s.board.supply = true → ledN s 0x4170 1 ≠ 1 →
    ∃ t, exec .pfFlr s = .next t ∧ t.host.attached = false ∧ t.admins = [] ∧ (fnOf t 0).sends = [] ∧ (fnOf t 0).counters = [] ∧
      ∀ v, grantOf t v = grantOf s v) ∧
  (∀ (v : W32) (fn : Nat) (w : Xw) (s : State), fn = s.host.xwSel → fn ≤ 1024 → w = (fnOf s fn).xw →
    (bitOf v.toNat 0 = true → w.enable = false → w.pages ≠ 0 → w.pages ≤ 65536 → ringBase w.baseLo w.baseHi ≠ 0 →
      ∃ t, exec (.exchangeWindowEnable v) s = .next t ∧ (fnOf t fn).xw = { w with enable := true, cfgError := false } ∧
        t.mems = s.mems) ∧
    (bitOf v.toNat 0 = true → w.enable = false → w.pages = 0 ∨ 65536 < w.pages ∨ ringBase w.baseLo w.baseHi = 0 →
      ∃ t, exec (.exchangeWindowEnable v) s = .next t ∧ (fnOf t fn).xw = { w with cfgError := true } ∧ t.mems = s.mems) ∧
    (bitOf v.toNat 0 = false → w.enable = true → hostQueueLive s fn = true →
      ∃ t, exec (.exchangeWindowEnable v) s = .next t ∧ (fnOf t fn).xw = { w with cfgError := true } ∧ t.mems = s.mems) ∧
    (bitOf v.toNat 0 = false → hostQueueLive s fn = false →
      ∃ t, exec (.exchangeWindowEnable v) s = .next t ∧ (fnOf t fn).xw = { w with enable := false, cfgError := false } ∧
        t.mems = s.mems))

namespace Sys2Proof.Obl

/-- The responder's answer to a request that it serves: its code, its fields, and what else has changed is the connection. -/
def Answered (s t : State) (code : Nat) (fields : List Byte) : Prop :=
  t.out = .spdm (Config.spdmEncode code fields) :: s.out ∧ t.host = { s.host with doe := none } ∧ t.mems = s.mems ∧
  t.ledger = s.ledger ∧ t.fns = s.fns

end Sys2Proof.Obl

/-- DOE_REQUEST, DOE_ABORT, GET_VERSION, GET_CAPABILITIES, NEGOTIATE_ALGORITHMS, GET_DIGESTS, GET_CERTIFICATE, CHALLENGE,
GET_MEASUREMENTS, KEY_EXCHANGE, FINISH and END_SESSION (R374, R417, R418). The mailbox takes one request at a time, by its object
type; an abort drops it. The responder answers each request of its table; what it signs, it signs with the identity key, and while
secure SRAM is being wiped it waits; a session begins with a FINISH that verifies and ends with END_SESSION. -/
def Obligations.MailboxAndResponder : Prop :=
  (∀ (s : State), doeServes s = true →
    (∀ (n : Nat) (p : Bytes), s.host.doe = none → p.length ≤ 65536 →
      (n = 0x100 → ∃ t, exec (.doeRequest n p) s = .next t ∧ t.out = .doe (Config.doeDiscovery (p.headD 0)) :: s.out ∧
        t.host = s.host ∧ t.sec = s.sec) ∧
      (n = 0x101 ∨ n = 0x102 → ∃ t, exec (.doeRequest n p) s = .next t ∧ t.host = { s.host with doe := some p } ∧
        t.out = s.out ∧ t.sec = s.sec ∧ t.ledger = s.ledger) ∧
      (n / 256 = Config.pfVendor.toNat → n % 256 = 1 → n ≠ 0x101 → requestOk .doe p = true →
        ∃ u, exec (.doeRequest n p) s = .next (arriveReq (parseRequest .doe p) u) ∧ u.host = { s.host with doe := some p } ∧
          u.ledger = s.ledger)) ∧
    (∀ (n : Nat) (p q : Bytes), s.host.doe = some q → exec (.doeRequest n p) s = .next s)) ∧
  (∀ (s : State), ∃ u, u.host = { s.host with doe := none } ∧ (∀ r ∈ u.ledger.waiting, r.h.source ≠ .doe) ∧
    (∀ c, u.ledger.commit = some c → c.h.source ≠ .doe) ∧ u.ledger.values = s.ledger.values ∧
    exec .doeAbort s = .next (drainWaiting u.ledger.waiting.length u)) ∧
  (∀ (s : State), doeServes s = true →
    (∃ t, exec .getVersion s = .next t ∧ Answered s t 0x04 [0x12] ∧ t.sec = s.sec) ∧
    (∃ t, exec .getCapabilities s = .next t ∧ Answered s t 0x61 [] ∧ t.sec = s.sec) ∧
    (∀ algs, ∃ t, exec (.negotiateAlgorithms algs) s = .next t ∧ Answered s t 0x63 algs ∧ t.sec.spdm ≠ .idle ∧
      (s.sec.spdm ≠ .idle → t.sec.spdm = s.sec.spdm)) ∧
    (∃ t, exec .getDigests s = .next t ∧ Answered s t 0x01 (beBytes 32 (Config.sha256 s.sec.certChain).toNat) ∧ t.sec = s.sec) ∧
    (∀ slot off n, ∃ t, exec (.getCertificate slot off n) s = .next t ∧ t.sec = s.sec ∧
      (slot = 0 → off < s.sec.certChain.length → Answered s t 0x02 ((s.sec.certChain.drop off).take n)) ∧
      (slot ≠ 0 ∨ s.sec.certChain.length ≤ off → Answered s t 0x7F [])) ∧
    (∀ nonce, s.sec.wiping = false → canSign s = true → ∃ t body, exec (.challenge 0 nonce) s = .next t ∧
      body = beBytes 32 (Config.sha256 s.sec.certChain).toNat ++ draw32 s ++
        (s.sec.measurements.map (fun m => beBytes 32 m.toNat)).flatten ++ nonce ∧
      Answered s t 0x03 (body ++ Config.ecdsaSign s.sec.identity (Config.sha256 body)) ∧ t.sec = s.sec) ∧
    (∀ slot nonce, s.sec.wiping = false → slot ≠ 0 ∨ canSign s = false → ∃ t, exec (.challenge slot nonce) s = .next t ∧ Answered s t 0x7F []) ∧
    (∀ i nonce, i ≤ 5 ∨ i = 0xFF → ∃ t, exec (.getMeasurements i false nonce) s = .next t ∧ t.sec = s.sec ∧ Answered s t 0x60
      ([BitVec.ofNat 8 s.sec.measurements.length] ++ (if i = 0 then [] else measuredAt s i))) ∧
    (∀ i nonce, s.sec.wiping = false → i ≤ 5 ∨ i = 0xFF → canSign s = true →
      ∃ t body, exec (.getMeasurements i true nonce) s = .next t ∧ t.sec = s.sec ∧
        body = [BitVec.ofNat 8 s.sec.measurements.length] ++ (if i = 0 then [] else measuredAt s i) ++ draw32 s ++ nonce ∧
        Answered s t 0x60 (body ++ Config.ecdsaSign s.sec.identity (Config.sha256 body))) ∧
    (∀ peer, s.sec.wiping = false → canSign s = true → s.sec.spdm ≠ .idle →
      ∃ t body nonce, exec (.keyExchange peer) s = .next t ∧ t.sec.spdm = .keyExchanged ∧
        body = nonce ++ Config.ecPublic t.sec.spdmKey ++ peer ∧ t.sec.spdmNonce = nonce ++ peer ∧
        Answered s t 0x64 (body ++ Config.ecdsaSign s.sec.identity (Config.sha256 body))) ∧
    (∀ mac, s.sec.wiping = false → s.sec.spdm = .keyExchanged →
      (Config.spdmFinishOk s.sec.spdmNonce mac = true → ∃ t, exec (.finish mac) s = .next t ∧ t.sec.spdm = .session ∧ Answered s t 0x65 []) ∧
      (Config.spdmFinishOk s.sec.spdmNonce mac = false →
        ∃ t, exec (.finish mac) s = .next t ∧ t.sec.spdm = .negotiated ∧ Answered s t 0x7F [])) ∧
    (∀ c slot i nonce, s.sec.wiping = true →
      c = .challenge slot nonce ∨ c = .getMeasurements i true nonce ∨ c = .keyExchange nonce ∨ c = .finish nonce →
      exec c s = .next s) ∧
    (s.sec.spdm = .session → ∃ t, exec .endSession s = .next t ∧ t.sec.spdm = .negotiated ∧ Answered s t 0x6C []))

/-- KEY_INSTALL_TRANSMIT, KEY_INSTALL_RECEIVE, KEY_REMOVE_TRANSMIT, KEY_REMOVE_RECEIVE, KEY_COMMAND_END, ALARM, SECURE_WIPE_END,
LOCK_READ, LOCK_RELEASE, LOCK_TIMEOUT and DRBG_RESEED (R297, R399 to R405, R409, R410, R419, R420). A command queues behind the
earlier ones; its page takes no other until it ends; its end shows the result, counts it, and clears the blob. An alarm wipes every
association and ends what was authenticated. The lock is taken by the read that finds it free, and let go by its token or by time. -/
def Obligations.KeysAlarmsAndLock : Prop :=
  (∀ (fn i op : Nat) (c : Instr) (s : State),
    (c = .keyInstallTransmit fn i ∧ op = 1) ∨ (c = .keyInstallReceive fn i ∧ op = 2) ∨ (c = .keyRemoveTransmit fn i ∧ op = 3) ∨
      (c = .keyRemoveReceive fn i ∧ op = 4) →
    (fn ≤ 1024 → barOpen s fn = true → s.board.supply = true → (keyPageOf s fn).busy = false →
      ∃ t, exec c s = .next t ∧ keyPageOf t fn = { keyPageOf s fn with busy := true } ∧
        t.sec.cmds = s.sec.cmds ++ [{ fn := fn, op := op, index := i % 4096 }] ∧ t.sec.rxSas = s.sec.rxSas) ∧
    ((keyPageOf s fn).busy = true → exec c s = .next s)) ∧
  (∀ (c : KeyCmd) (rest : List KeyCmd) (s : State), s.sec.cmds = c :: rest →
    ∃ t, exec .keyCommandEnd s = .next t ∧ t.sec.cmds = rest ∧ (keyPageOf t c.fn).busy = false ∧
      (keyPageOf t c.fn).result = keyResult s c ∧ (keyPageOf t c.fn).doneCount = (keyPageOf s c.fn).doneCount + 1 ∧
      (keyPageOf t c.fn).blob = List.replicate 16 0 ∧
      (keyResult s c ≠ 0 → t.sec.rxSas = s.sec.rxSas ∧ (keyPageOf t c.fn).txState = (keyPageOf s c.fn).txState ∧
        (keyPageOf t c.fn).txKey = (keyPageOf s c.fn).txKey ∧ count t 0x9080 2 = count s 0x9080 2 + 1) ∧
      (keyResult s c = 0 → c.op ≤ 2 → count t 0x9080 1 = count s 0x9080 1 + 1) ∧
      (keyResult s c = 0 → c.op = 1 → (keyPageOf t c.fn).txState = .live ∧ (keyPageOf t c.fn).txPeerSa = c.index ∧
        (keyPageOf t c.fn).txCtr = 0 ∧ (keyPageOf t c.fn).txSalt = (drawOf s).setWidth 32) ∧
      (keyResult s c = 0 → c.op = 2 → ∃ a, tfind t.sec.rxSas c.index = some a ∧ a.owner = c.fn ∧ a.st = .live) ∧
      (keyResult s c = 0 → c.op = 3 → (keyPageOf t c.fn).txState = .empty ∧ (keyPageOf t c.fn).txKey = 0) ∧
      (keyResult s c = 0 → c.op = 4 → tfind t.sec.rxSas c.index = none)) ∧
  (∀ (bit : Nat) (s : State), bit ≤ 7 → s.board.supply = true → (bit = 3 → ledN s 0x7020 1 = 1) →
    ∃ t, exec (.alarm bit) s = .next t ∧ t.sec.alarms = s.sec.alarms ||| BitVec.ofNat 8 (2 ^ bit) ∧ t.sec.wiping = true ∧
      t.sec.keysUnwrapped = false ∧ count t 0x9080 3 = count s 0x9080 3 + 1 ∧ sessionAuthed t = false ∧ t.sec.spdm ≠ .session ∧
      (∀ a ∈ t.sec.rxSas, a.2.st = .wiped ∧ a.2.key = 0) ∧
      (∀ f, (keyPageOf s f).txState ≠ .empty → (keyPageOf t f).txState = .wiped ∧ (keyPageOf t f).txKey = 0) ∧
      (∀ f, secureOn t f = secureOn s f) ∧ t.mems = s.mems) ∧
  (∀ (s : State), ∃ t, exec .secureWipeEnd s = .next t ∧ t.sec = { s.sec with wiping := false } ∧ t.fns = s.fns) ∧
  (∀ (s : State), s.board.supply = true →
    (s.sec.lockToken = none → ∃ t n, exec .lockRead s = .next t ∧ 1 ≤ n ∧ n < 32768 ∧ t.sec.lockToken = some n ∧
      t.sec.lockAt = s.now ∧ t.out = .regRead (BitVec.ofNat 32 (n + 0x8000)) :: s.out) ∧
    (∀ n, s.sec.lockToken = some n → ∃ t, exec .lockRead s = .next t ∧ t.sec = s.sec ∧
      t.out = .regRead (BitVec.ofNat 32 n) :: s.out)) ∧
  (∀ (v : W32) (s : State),
    (s.sec.lockToken = some (v.toNat % 32768) →
      ∃ t, exec (.lockRelease v) s = .next t ∧ t.sec = { s.sec with lockToken := none } ∧ t.out = s.out) ∧
    (s.sec.lockToken ≠ some (v.toNat % 32768) → exec (.lockRelease v) s = .next s)) ∧
  (∀ (n : Nat) (s : State), s.sec.lockToken = some n →
    ∃ t, exec .lockTimeout s = .next t ∧ t.sec = { s.sec with lockToken := none } ∧
      t.now = max s.now (s.sec.lockAt + ledN s 0x7040 1) ∧ count t 0x9080 6 = count s 0x9080 6 + 1) ∧
  (∀ (s : State), ∃ t, exec .drbgReseed s = .next t ∧ t.sec = { s.sec with drbgAt := s.free } ∧ t.fns = s.fns)

namespace Sys2Proof.Obl

/-- A Waibor command, and the request that it is. -/
def Asks (c : Instr) (r : WReq) : Prop :=
  match c with
  | .waiborRead h i n => r = { h := h, svc := .read i n }
  | .waiborWrite h i n t b => r = { h := h, svc := .write i n t b }
  | .waiborReadSeg h i n o => r = { h := h, svc := .readSeg i n o }
  | .waiborWriteSegInit h i n z => r = { h := h, svc := .writeSegInit i n z }
  | .waiborWriteSeg h i n l o b => r = { h := h, svc := .writeSeg i n l o b }
  | .sessionOpen h k => r = { h := h, svc := if k.length = 64 then .sessionOpen k else .malformed 6 }
  | .sessionAuth h m k p => r = { h := h, svc := if p.length = 64 then .sessionAuth m k p else .malformed 7 }
  | .sessionClose h => r = { h := h, svc := .sessionClose }
  | .lcRequest h b => r = { h := h, svc := .write 0x7000 2 12 b }
  | .ownerKekImport h b => r = { h := h, svc := .write 0x7010 1 12 b }
  | .moduleResetWrite h => r = { h := h, svc := .write 0xA000 1 1 [1] }
  | .faultLogClear h => r = { h := h, svc := .write 0xA020 2 1 [1] }
  | _ => False

/-- The request is heard and served at once: nothing is being committed, it is no repeated one, and one of a session is that
session's own (R443, R453, R457). -/
def Served (s : State) (r : WReq) : Prop :=
  heard s r.h.source = true ∧ s.ledger.commit = none ∧
  (∀ m, r.h.source = .field m → ∀ c ∈ s.ledger.cache, ¬ (c.1 = m ∧ c.2.1 = r.h.wseq)) ∧
  (r.h.session = true → sessionMsgOk s r = true)

/-- The state in which the service acts: the request is counted, a session's counter is taken. -/
def serving (r : WReq) (s : State) : State :=
  bump 0x9046 1 1 (if r.h.session then
    { s with ledger := { s.ledger with session := { s.ledger.session with
      rxCtr := r.h.sessionCtr, lastAt := if sessionAuthed s then s.now else s.ledger.session.lastAt } } } else s)

/-- After the service: a session whose counter is spent ends. -/
def after (r : WReq) (s : State) : State := if r.h.session then sessionSpent s else s

/-- After a commit's answer: a session whose counter is spent ends, and what waits is served, until a commit is under way. -/
def thenWaiting (s : State) : State := drainWaiting s.ledger.waiting.length (sessionSpent s)

end Sys2Proof.Obl

/-- WAIBOR_READ and WAIBOR_WRITE, and every other request that is served (R441 to R445, R449, R450, R453, R457). A request that may
not be served is answered by the abort that says why. A read answers the entry's value, and leaves a counter 0. A write of a
persistent entry waits for its commit; one of another entry is applied and answered. -/
def Obligations.RequestsAreServed : Prop :=
  (∀ (c : Instr) (r : WReq) (s : State), Asks c r → Served s r → exec c s = .next (after r (serveOne r (serving r s)))) ∧
  (∀ (h : WHeader) (i n : Nat) (b : Bytes) (r : WReq) (s u : State), r = { h := h, svc := .read i n } → Served s r →
    accessCode (serving r s) h false false i n = 0 → ledRead i n (serving r s) = (b, u) → b.length + 8 ≤ maxPayload h.source →
    (∃ vt, exec (.waiborRead h i n) s = .next (after r (respond r (beBytes 2 i ++ beBytes 1 n ++ beBytes 1 vt ++
      beBytes 2 b.length ++ [0, 0] ++ b) u))) ∧
    (isCounter i n = true → b = beBytes 8 (count (serving r s) i n).toNat ∧ count u i n = 0 ∧
      ∀ j m, j * 256 + m ≠ i * 256 + n → count u j m = count (serving r s) j m) ∧
    (isCounter i n = false → u = serving r s)) ∧
  (∀ (h : WHeader) (i n : Nat) (r : WReq) (s : State), r = { h := h, svc := .read i n } → Served s r →
    accessCode (serving r s) h false false i n ≠ 0 →
    exec (.waiborRead h i n) s = .next (after r (abortWith r (accessCode (serving r s) h false false i n) (serving r s)))) ∧
  (∀ (h : WHeader) (i n t : Nat) (b : Bytes) (e : DictEntry) (r : WReq) (s : State), r = { h := h, svc := .write i n t b } →
    Served s r → accessCode (serving r s) h true false i n = 0 → i ≠ 0x7050 → dict s.part i n = some e →
    (valueCode (serving r s) h i n (some t) b ≠ 0 → exec (.waiborWrite h i n t b) s =
      .next (after r (abortWith r (valueCode (serving r s) h i n (some t) b) (serving r s)))) ∧
    (valueCode (serving r s) h i n (some t) b = 0 → e.persistent = true →
      ∃ w, exec (.waiborWrite h i n t b) s = .next w ∧ w.ledger.values = s.ledger.values ∧ w.out = s.out ∧
        w.ledger.commit = some { h := h, index := i, sub := n, value := b, seg := false }) ∧
    (valueCode (serving r s) h i n (some t) b = 0 → e.persistent = false →
      (i, n) ∉ [(0xA000, 1), (0xA020, 2), (0x2020, 6), (0x7000, 2), (0x7010, 1)] → exec (.waiborWrite h i n t b) s =
        .next (after r (respond r (writeAnswer i n) (ledApply i n b false (serving r s))))) ∧
    (valueCode (serving r s) h i n (some t) b = 0 → (i, n) = (0x2020, 6) → exec (.waiborWrite h i n t b) s =
        .next (after r (respond r (writeAnswer i n)
          { serving r s with power := { (serving r s).power with clearAsked := true } })))) ∧
  (∀ (h : WHeader) (n t : Nat) (b : Bytes) (r : WReq) (s : State), r = { h := h, svc := .write 0x7050 n t b } → Served s r →
    accessCode (serving r s) h true false 0x7050 n = 0 →
    exec (.waiborWrite h 0x7050 n t b) s = .next (after r (abortWith r 0x07 (serving r s)))) ∧
  (∀ (h : WHeader) (i n t : Nat) (b : Bytes) (r : WReq) (s : State), r = { h := h, svc := .write i n t b } → Served s r →
    accessCode (serving r s) h true false i n ≠ 0 →
    exec (.waiborWrite h i n t b) s = .next (after r (abortWith r (accessCode (serving r s) h true false i n) (serving r s))))

/-- WAIBOR_READ_SEG, WAIBOR_WRITE_SEG_INIT, WAIBOR_WRITE_SEG, SESSION_OPEN, SESSION_AUTH and SESSION_CLOSE (R451, R452, R456 to
R458). A segmented read starts from a snapshot; a segmented write gathers its segments, each where the last one ended, and is
checked and applied whole; an image slot is erased as its transfer starts, and holds the image once it is verified. An open exchange becomes a session by a proof that holds, and ends by one that does not. -/
def Obligations.SegmentsAndSessions : Prop :=
  (∀ (h : WHeader) (i n : Nat) (b : Bytes) (r : WReq) (s u : State), r = { h := h, svc := .readSeg i n 0 } → Served s r →
    accessCode (serving r s) h false true i n = 0 → ledRead i n (serving r s) = (b, u) →
    ∃ t w x, exec (.waiborReadSeg h i n 0) s = .next (after r t) ∧ t = respond r (beBytes 2 i ++ beBytes 1 n ++
        beBytes 1 (b2n (decide (b.length ≤ (b.take (maxPayload h.source - 16)).length))) ++ beBytes 4 0 ++
        beBytes 4 b.length ++ [0, 0, 0, 0] ++ b.take (maxPayload h.source - 16)) w ∧
      tfind t.ledger.snapshots (srcKey h.source) = some x ∧ x.index = i ∧ x.sub = n ∧ x.data = b) ∧
  (∀ (h : WHeader) (i n o : Nat) (x : Snapshot) (r : WReq) (s : State), r = { h := h, svc := .readSeg i n o } → Served s r →
    accessCode (serving r s) h false true i n = 0 → o ≠ 0 → tfind s.ledger.snapshots (srcKey h.source) = some x →
    (x.index = i → x.sub = n → o ≤ x.data.length → s.now ≤ x.lastAt + 5000000000 →
      ∃ t w, exec (.waiborReadSeg h i n o) s = .next (after r t) ∧ t = respond r (beBytes 2 i ++ beBytes 1 n ++
          beBytes 1 (b2n (decide (x.data.length ≤ o + ((x.data.drop o).take (maxPayload h.source - 16)).length))) ++ beBytes 4 o ++
          beBytes 4 x.data.length ++ [0, 0, 0, 0] ++ (x.data.drop o).take (maxPayload h.source - 16)) w ∧
        tfind t.ledger.snapshots (srcKey h.source) = some { x with lastAt := s.now } ∧ w.ledger.values = s.ledger.values) ∧
    (x.index ≠ i ∨ x.sub ≠ n ∨ x.data.length < o ∨ x.lastAt + 5000000000 < s.now →
      exec (.waiborReadSeg h i n o) s = .next (after r (abortWith r 0x09 (serving r s))))) ∧
  (∀ (h : WHeader) (i n z : Nat) (r : WReq) (s : State), r = { h := h, svc := .writeSegInit i n z } → Served s r →
    accessCode (serving r s) h true true i n = 0 → i ≠ 0x7050 →
    ∃ t x, exec (.waiborWriteSegInit h i n z) s = .next (after r t) ∧
      tfind t.ledger.staging (srcKey h.source) = some x ∧ x.index = i ∧ x.sub = n ∧ x.total = z ∧ x.data = [] ∧ x.lastAt = s.now) ∧
  (∀ (h : WHeader) (n z : Nat) (r : WReq) (s : State), r = { h := h, svc := .writeSegInit 0x7050 n z } → Served s r →
    accessCode (serving r s) h true true 0x7050 n = 0 →
    (s.board.mstate = 3 ∨ s.sec.bootSlot + 1 ≠ n → z ≤ 2 ^ 24 →
      ∃ t x, exec (.waiborWriteSegInit h 0x7050 n z) s = .next (after r t) ∧ t.sec = (setImage n [] s).sec ∧
        tfind t.ledger.staging (srcKey h.source) = some x ∧ x.index = 0x7050 ∧ x.sub = n ∧ x.total = z ∧ x.data = []) ∧
    (s.board.mstate ≠ 3 → s.sec.bootSlot + 1 = n →
      exec (.waiborWriteSegInit h 0x7050 n z) s = .next (after r (abortWith r 0x03 (serving r s))))) ∧
  (∀ (h : WHeader) (i n o : Nat) (b : Bytes) (last : Bool) (x : Staging) (r : WReq) (s : State),
    r = { h := h, svc := .writeSeg i n last o b } → Served s r → accessCode (serving r s) h true true i n = 0 →
    tfind s.ledger.staging (srcKey h.source) = some x → x.index = i → x.sub = n → s.now ≤ x.lastAt + 5000000000 →
    (last = false → x.data.length = o → o + b.length ≤ x.total →
      ∃ t, exec (.waiborWriteSeg h i n last o b) s = .next (after r t) ∧
        tfind t.ledger.staging (srcKey h.source) = some { x with data := x.data ++ b, lastAt := s.now }) ∧
    (last = true → x.data.length = o → o + b.length = x.total → i ≠ 0x7050 →
      valueCode (serving r s) h i n none (x.data ++ b) = 0 →
      ∃ u, exec (.waiborWriteSeg h i n last o b) s = .next (after r (doWrite r i n (x.data ++ b) true u)) ∧
        tfind u.ledger.staging (srcKey h.source) = none ∧ u.ledger.values = s.ledger.values) ∧
    (last = true → x.data.length = o → o + b.length = x.total → i = 0x7050 →
      (imageValid (serving r s) (x.data ++ b) = true →
        ∃ u, u.sec = (setImage n (x.data ++ b) s).sec ∧ tfind u.ledger.staging (srcKey h.source) = none ∧
          exec (.waiborWriteSeg h i n last o b) s = .next (after r (if s.board.mstate = 3 then
            resetModule 4 (respond r (writeAnswer i n) u) else respond r (writeAnswer i n) u))) ∧
      (imageValid (serving r s) (x.data ++ b) = false →
        exec (.waiborWriteSeg h i n last o b) s = .next (after r (abortWith r 0x04 (serving r s))))) ∧
    (x.data.length ≠ o ∨ x.total < o + b.length ∨ (last = true ∧ o + b.length ≠ x.total) →
      exec (.waiborWriteSeg h i n last o b) s = .next (after r (abortWith r 0x09 (serving r s))))) ∧
  (∀ (h : WHeader) (m : Nat) (k : Bytes) (r : WReq) (s : State), r = { h := h, svc := .sessionOpen k } → h.source = .field m →
    h.session = false → k.length = 64 → Served s r → s.board.mstate = 1 ∨ s.board.mstate = 2 → sessionAuthed s = false →
    engineLocked s = false → canSign s = true →
    ∃ t, exec (.sessionOpen h k) s = .next t ∧ t.ledger.session.st = .opened ∧ t.ledger.session.mac = m ∧
      t.ledger.session.rxCtr = 0 ∧ t.ledger.session.txCtr = 0 ∧ t.ledger.session.lastAt = s.now) ∧
  (∀ (h : WHeader) (m mode ki : Nat) (p : Bytes) (r : WReq) (s : State), r = { h := h, svc := .sessionAuth mode ki p } →
    h.source = .field m → h.session = false → p.length = 64 → Served s r → s.ledger.session.st = .opened →
    s.ledger.session.mac = m → s.now ≤ s.ledger.session.lastAt + 5000000000 →
    (proofOk s mode ki p = true → ∃ t, exec (.sessionAuth h mode ki p) s = .next t ∧
      t.ledger.session = { s.ledger.session with st := .auth mode, lastAt := s.now }) ∧
    (proofOk s mode ki p = false → ∃ t, exec (.sessionAuth h mode ki p) s = .next t ∧ t.ledger.session = {} ∧
      count t 0x9046 4 = count s 0x9046 4 + 1)) ∧
  (∀ (h : WHeader) (m : Nat) (r : WReq) (s : State), r = { h := h, svc := .sessionClose } → h.source = .field m →
    h.session = true → Served s r → sessionAuthed s = true →
    ∃ t, exec (.sessionClose h) s = .next t ∧ t.ledger.session = {} ∧ t.ledger.values = s.ledger.values)

/-- LC_REQUEST, OWNER_KEK_IMPORT, MODULE_RESET_WRITE, FAULT_LOG_CLEAR and LEDGER_COMMIT_COMPLETE (R408, R411 to R413, R416, R443,
R444, R471, R480). A transition that is decided is recorded, answered, and followed by a reset; a refused one changes no state. An
owner key that unwraps deploys the module. A committed value is applied, answered, and then what waits is served. -/
def Obligations.LifeCycleAndCommits : Prop :=
  (∀ (h : WHeader) (b : Bytes) (r : WReq) (s : State), r = { h := h, svc := .write 0x7000 2 12 b } → Served s r →
    accessCode (serving r s) h true false 0x7000 2 = 0 → valueCode (serving r s) h 0x7000 2 (some 12) b = 0 →
    (∀ dest, lcDecide (serving r s) b = .move dest → ∃ u, u.sec.lc = dest ∧ u.sec.lcCount = s.sec.lcCount + 1 ∧ u.sec.ownerKek = none ∧
      (dest = .decommissioned ∨ s.sec.lc ≠ .returned → u.mems.hbm = [] ∧ u.mems.lpddr = [] ∧ u.mems.scratch = [] ∧
        u.mems.cluster = [] ∧ u.mems.ksram = []) ∧
      (dest = .decommissioned → u.sec.identity = 0 ∧ u.sec.identityOk = false) ∧
      exec (.lcRequest h b) s = .next (after r (resetModule 3 (respond r (writeAnswer 0x7000 2) u)))) ∧
    (∀ k, lcDecide (serving r s) b = .revoke k → ∃ u, u.sec.revoked = k :: s.sec.revoked ∧ u.sec.lc = s.sec.lc ∧ u.mems = s.mems ∧
      exec (.lcRequest h b) s = .next (after r (resetModule 3 (respond r (writeAnswer 0x7000 2) u)))) ∧
    (lcDecide (serving r s) b = .refuse → ∃ u, u.sec.lc = s.sec.lc ∧ u.sec.lcCount = s.sec.lcCount ∧ u.mems = s.mems ∧
      count u 0x9080 4 = count s 0x9080 4 + 1 ∧ exec (.lcRequest h b) s = .next (after r (abortWith r 0x04 u)))) ∧
  (∀ (h : WHeader) (b k : Bytes) (r : WReq) (s : State), r = { h := h, svc := .write 0x7010 1 12 b } → Served s r →
    accessCode (serving r s) h true false 0x7010 1 = 0 → valueCode (serving r s) h 0x7010 1 (some 12) b = 0 →
    s.sec.lc = .provisioned → engineLocked s = false → s.sec.keysUnwrapped = true → s.sec.lcCount < 31 → df b 0 1 = 1 →
    df b 1 3 = 0 → (b.drop 108).any (fun x => x != 0) = false →
    Config.aesKwUnwrap (Config.hkdf (Config.ecdh s.sec.identity ((b.drop 4).take 64)) []
      (ascii "tamvor-owner-kek" ++ serialBytes)) ((b.drop 68).take 40) = some k →
    ∃ u, u.sec.lc = .deployed ∧ u.sec.lcCount = s.sec.lcCount + 1 ∧ u.sec.ownerKek = some (BitVec.ofNat 256 (leNat k)) ∧
      u.mems = s.mems ∧ exec (.ownerKekImport h b) s = .next (after r (resetModule 3 (respond r (writeAnswer 0x7010 1) u)))) ∧
  (∀ (h : WHeader) (r : WReq) (s : State), r = { h := h, svc := .write 0xA000 1 1 [1] } → Served s r →
    accessCode (serving r s) h true false 0xA000 1 = 0 → valueCode (serving r s) h 0xA000 1 (some 1) [1] = 0 →
    exec (.moduleResetWrite h) s = .next (after r (resetModule 1 (respond r (writeAnswer 0xA000 1) (serving r s))))) ∧
  (∀ (h : WHeader) (r : WReq) (s : State), r = { h := h, svc := .write 0xA020 2 1 [1] } → Served s r →
    accessCode (serving r s) h true false 0xA020 2 = 0 → valueCode (serving r s) h 0xA020 2 (some 1) [1] = 0 →
    ∃ t, exec (.faultLogClear h) s = .next t ∧ t.board.faultLog = [] ∧ t.ledger.values = s.ledger.values ∧ t.mems = s.mems) ∧
  (∀ (c : Commit) (r : WReq) (s : State), s.ledger.commit = some c →
    r = { h := c.h, svc := if c.seg then .writeSeg c.index c.sub true 0 [] else .write c.index c.sub 0 [] } →
    (∃ u, u.ledger.commit = none ∧ u.ledger.committed = tset s.ledger.committed (c.index * 256 + c.sub) c.value ∧
      u.ledger.values = tset s.ledger.values (c.index * 256 + c.sub) c.value ∧
      u.ledger.waiting = s.ledger.waiting ∧ u.mems = s.mems ∧ u.out = s.out ∧
      exec (.ledgerCommitComplete true) s = .next (thenWaiting (respond r (writeAnswer c.index c.sub)
        (ledHook c.index c.sub (ledBytes s c.index c.sub) (usablePorts s) u)))) ∧
    exec (.ledgerCommitComplete false) s =
      .next (thenWaiting (abortWith r 0x0E { s with ledger := { s.ledger with commit := none } })))

/-- SESSION_AUTH_TIMEOUT, SESSION_IDLE_EXPIRY, SEGMENT_STAGING_EXPIRY, HEARTBEAT, EMERGENCY_REPEAT and FIELD_FRAME_RECEIVE (R446,
R452, R455 to R460). What waits too long ends; the bridge drops and counts a frame that it may not pass; a heartbeat goes each
period under the next numbers, an emergency's second copy under its first one's. -/
def Obligations.FieldPortTraffic : Prop :=
  (∀ (s : State), s.ledger.session.st = .opened → ∃ t, exec .sessionAuthTimeout s = .next t ∧ t.ledger.session = {} ∧
    t.now = max s.now (s.ledger.session.lastAt + 5000000000) ∧ t.ledger.values = s.ledger.values) ∧
  (∀ (mode : Nat) (s : State), s.ledger.session.st = .auth mode → ∃ t, exec .sessionIdleExpiry s = .next t ∧
    t.ledger.session = {} ∧ t.now = max s.now (s.ledger.session.lastAt + ledN s 0x3400 6 * 1000000000)) ∧
  (∀ (src : WSource) (s : State), (tfind s.ledger.staging (srcKey src)).isSome = true ∨
      (tfind s.ledger.snapshots (srcKey src)).isSome = true →
    ∃ t, exec (.segmentStagingExpiry src) s = .next t ∧ tfind t.ledger.staging (srcKey src) = none ∧
      tfind t.ledger.snapshots (srcKey src) = none ∧
      ∀ k, k ≠ srcKey src → tfind t.ledger.staging k = tfind s.ledger.staging k) ∧
  (∀ (s : State), fieldUp s = true → ∃ t frame, exec .heartbeat s = .next t ∧ t.ledger.hbSeq = s.ledger.hbSeq + 1 ∧
    t.ledger.hcount = s.ledger.hcount + 1 ∧ t.out = .heartbeat frame :: s.out ∧ count t 0x9046 7 = count s 0x9046 7 + 1 ∧
    frame.take 6 = beBytes 6 (if ledN s 0x3400 5 = 0 then 0xFFFFFFFFFFFF else ledN s 0x3400 5) ∧
    (frame.drop 6).take 6 = beBytes 6 (fieldMac s) ∧ (frame.drop 26).take 4 = beBytes 4 (ownId s).toNat) ∧
  (∀ (seq : W16) (b : Bytes) (rest : List (W16 × Bytes)) (s : State), s.ledger.emRepeat = (seq, b) :: rest →
    s.board.fieldPwr = true → s.board.supply = true →
    ∃ t, exec .emergencyRepeat s = .next t ∧ t.ledger.emRepeat = rest ∧ t.out = .emergency seq b :: s.out ∧
      t.now = max s.now (beNat ((b.drop 8).take 8) + 10000000) ∧ count t 0x9046 8 = count s 0x9046 8 + 1) ∧
  (∀ (f : FieldFrame) (s : State), fieldUp s = true →
    (bridgePasses s f = true → ∃ n, exec (.fieldFrameReceive f) s = .next (arriveReq (parseRequest (.field f.srcMac) f.bytes)
        { s with ledger := { s.ledger with bridge := (s.now / 1000000000, n) } }) ∧
      n = (if s.ledger.bridge.1 = s.now / 1000000000 then s.ledger.bridge.2 else 0) + 1 ∧ n ≤ 2000) ∧
    (bridgePasses s f = false → ∃ t, exec (.fieldFrameReceive f) s = .next t ∧ count t 0x9046 3 = count s 0x9046 3 + 1 ∧
      t.out = s.out ∧ t.ledger.values = s.ledger.values ∧ t.ledger.session = s.ledger.session))

namespace Sys2Proof.Obl

/-- The point that a die goes to in the end. -/
def heading (x : Die) : Nat := if x.target.isSome then x.next.getD (x.target.getD x.point) else x.point

end Sys2Proof.Obl

/-- CONTROL_PERIOD, OP_CHANGE_COMPLETE, PROBE_INTERVAL_EXPIRY, DROOP_DETECT and DROOP_STRETCH_END (R423, R426, R428, R430).
Every 10 µs each die heads for a point within its ceilings; a decision's points keep its budget, or are all 0. A change that
ends puts the die at its point and starts the one decided meanwhile. METER_SAMPLE, DISAGREE_HOLD_EXPIRY, REFIT_COMPLETE,
FALLBACK_CLEAR and ATTRIBUTION_RECORD (R431 to R434). A sample is compared with what the model makes of its 10 µs; runs that
fill `disagree_hold` enter disagreement and fallback and leave disagreement again; a refit ends in new coefficients; an
interval's energies are carried below a microjoule. -/
def Obligations.PowerIsControlled : Prop :=
  (
  (∀ (s : State), levelRuns s = true → (∀ d, (dieOf s d).target = none → (dieOf s d).next = none) →
    ∃ (t : State) (pts : List Nat), exec .controlPeriod s = .next t ∧ t.now = max s.now ((s.now / 10000 + 1) * 10000) ∧
      pts.length = diesFitted s.part ∧ ∀ d p, pts[d]? = some p →
        heading (dieOf t d) = (if (dieOf s d).probing = true ∧ p ≠ 0 then p - 1 else p) ∧ (dieOf t d).probing = false ∧
        p ≤ ledN s 0x2001 (d + 1) ∧ p ≤ (dieOf s d).thermalCeiling ∧
        (s.power.fallback = true → s.power.clearAsked = false → p ≤ ledN s 0x2020 4)) ∧
  (∀ (views : List DieView) (floor : Nat) (budget : Rat), views.length ≤ 4 → (∀ v ∈ views, v.want ≤ 15) →
    (decidePoints views floor budget).length = views.length ∧
    (sumPower views (decidePoints views floor budget) ≤ budget ∨ ∀ p ∈ decidePoints views floor budget, p = 0)) ∧
  (∀ (die k : Nat) (s : State), (dieOf s die).target = some k → ∃ t, exec (.opChangeComplete die) s = .next t ∧
    (dieOf t die).point = k ∧ ((dieOf s die).next = none → (dieOf t die).target = none) ∧
    (∀ j, (dieOf s die).next = some j → heading (dieOf t die) = j ∧ (j ≠ k → (dieOf t die).target = some j ∧
      count t 0x9090 3 = count s 0x9090 3 + 1))) ∧
  (∀ (die : Nat) (s : State), die < diesFitted s.part → (dieOf s die).point ≠ 0 →
    (pairsIn s (dieCores s die)).all (fun p => !(isFixed s p.1)) = true →
    ∃ t, exec (.probeIntervalExpiry die) s = .next t ∧ dieOf t die = { dieOf s die with probing := true } ∧ t.now = s.now) ∧
  (∀ (n : Nat) (s : State), clusterFitted s n = true → n ∉ s.power.stretching →
    ∃ t, exec (.droopDetect n) s = .next t ∧ n ∈ t.power.stretching ∧ count t 0x9090 1 = count s 0x9090 1 + 1 ∧
      (∀ hi lo v, (dieOf s (n / 8)).probe = some (hi, lo, v) → (dieOf t (n / 8)).probe = some (hi, lo, true)) ∧
      (dieOf t (n / 8)).point = (dieOf s (n / 8)).point) ∧
  (∀ (n ns : Nat) (s : State), n ∈ s.power.stretching →
    ∃ t, exec (.droopStretchEnd n ns) s = .next t ∧ n ∉ t.power.stretching ∧
      count t 0x9090 2 = count s 0x9090 2 + BitVec.ofNat 64 ns ∧ t.power.dies = s.power.dies)) ∧
  (
  (∀ (w : Nat) (s : State), s.board.supply = true → ∃ t d, exec (.meterSample w) s = .next t ∧ t.power.meter = w % 2 ^ 32 ∧
    t.now = s.now ∧ d = (t.power.model - t.power.meter) + (t.power.meter - t.power.model) ∧
    (ledN s 0x2020 1 * t.power.meter < 100 * d → t.power.runDisagree = s.power.runDisagree + 1 ∧ t.power.runAgree = 0) ∧
    (100 * d ≤ ledN s 0x2020 1 * t.power.meter → t.power.runDisagree = 0 ∧ t.power.runAgree = s.power.runAgree + 1) ∧
    (ledN s 0x2020 3 * t.power.meter < 100 * d → t.power.runFar = s.power.runFar + 1) ∧
    (100 * d ≤ ledN s 0x2020 3 * t.power.meter → t.power.runFar = 0)) ∧
  (∀ (s : State), s.board.supply = true → s.power.clearAsked = false →
    ∃ t, exec .disagreeHoldExpiry s = .next t ∧
      (s.power.disagreeing = false → heldFor s s.power.runDisagree = true → heldFor s s.power.runAgree = false →
        t.power.disagreeing = true ∧ t.power.refitting = true ∧ count t 0x9090 5 = count s 0x9090 5 + 1) ∧
      (s.power.fallback = false → heldFor s s.power.runFar = true → t.power.fallback = true ∧
        count t 0x9090 6 = count s 0x9090 6 + 1) ∧
      (s.power.disagreeing = true → heldFor s s.power.runAgree = true → t.power.disagreeing = false) ∧
      (heldFor s s.power.runDisagree = false → heldFor s s.power.runFar = false → heldFor s s.power.runAgree = false → t = s)) ∧
  (∀ (s : State), s.power.refitting = true → ∃ t, exec .refitComplete s = .next t ∧ t.power.refitting = false ∧
    t.power.refits = s.power.refits + 1 ∧ t.now = max s.now ((s.now / 10000 + 1) * 10000) ∧
    ∀ k, 1 ≤ k → k ≤ 16 → ledBytes t 0x2140 k = beBytes 4 (Config.refit k s.power.refits).toNat) ∧
  (∀ (s : State), ∃ t, exec .fallbackClear s = .next t ∧ t.power = { s.power with clearAsked := true } ∧ t.fns = s.fns) ∧
  (∀ (s : State), s.board.supply = true → ∃ t, exec .attributionRecord s = .next t ∧ t.power.energy = carried s.power.energy ∧
    t.power.users = [] ∧ t.power.remainder = s.power.remainder % 1000000 ∧
    t.now = max s.now ((s.now / ledN s 0x2130 5 + 1) * ledN s 0x2130 5) ∧
    (s.power.attrRing.enable = false → t.power.attrRing = s.power.attrRing ∧ t.mems = s.mems) ∧
    (s.power.attrRing.enable = true → hostOk s = true → s.power.users = [] →
      ({ s.power.attrRing with cons := ledN s 0x2130 3 } : OutRing).full = false →
      t.power.attrRing = ({ s.power.attrRing with cons := ledN s 0x2130 3 } : OutRing).pushed ∧ t.power.attrLost = false)))

/-- THERMAL_CEILING_STEP, THERMTRIP, IDLE_STATE_ENTRY and UNIT_WAKE_COMPLETE (R435 to R438). At or above the limit the ceilings of a
unit's dies fall by one, 5 °C below it they rise by one; a trip stops every A-clock. A unit that may enter its idle state does; what a
die held is lost; a wake that started ends with the unit on, and contributions that waited for a
die are read. -/
def Obligations.HeatAndIdling : Prop :=
  (∀ (unit tj : Nat) (s : State), unitFitted s unit = true → s.board.supply = true →
    (ledN s 0x2030 1 * 10 ≤ countedTj s unit tj → ∃ t, exec (.thermalCeilingStep unit tj) s = .next t ∧
      t.now = max s.now ((s.now / 100000 + 1) * 100000) ∧ unit ∈ t.power.throttled ∧
      (∀ d ∈ ceilingDies s unit, (dieOf t d).thermalCeiling = (dieOf s d).thermalCeiling - 1) ∧
      (unit ∉ s.power.throttled → count t 0x9090 4 = count s 0x9090 4 + 1)) ∧
    (countedTj s unit tj + 50 ≤ ledN s 0x2030 1 * 10 → ∃ t, exec (.thermalCeilingStep unit tj) s = .next t ∧
      t.now = max s.now ((s.now / 1000000 + 1) * 1000000) ∧ unit ∉ t.power.throttled ∧
      ((∀ x ∈ s.power.throttled, x = unit) → ∀ d ∈ ceilingDies s unit,
        (dieOf t d).thermalCeiling = min 15 ((dieOf s d).thermalCeiling + 1))) ∧
    (countedTj s unit tj < ledN s 0x2030 1 * 10 → ledN s 0x2030 1 * 10 < countedTj s unit tj + 50 →
      ∃ t, exec (.thermalCeilingStep unit tj) s = .next t ∧ t.power.dies = s.power.dies ∧
        t.power.throttled = s.power.throttled ∧ t.now = s.now)) ∧
  (∀ (unit : Nat) (s : State), unitFitted s unit = true → s.board.supply = true → s.power.thermtrip = false →
    ∃ t, exec (.thermtrip unit) s = .next t ∧ t.power.thermtrip = true ∧ t.power.aClocksStopped = true ∧
      unit ∈ t.power.throttled ∧ t.board.faultLog ≠ [] ∧ t.mems.hbm = s.mems.hbm ∧ t.mems.scratch = s.mems.scratch ∧
      t.mems.cluster = s.mems.cluster ∧ (unit ∈ s.power.throttled ∨ (fnOf s 0).eq.enable = false → t.mems = s.mems)) ∧
  (∀ (u : PowerUnit) (s : State), idleAllowed s u = true →
    ∃ t, exec (.idleStateEntry u) s = .next t ∧ t.now = s.now ∧
      match u with
      | .engine c e => e ∈ (coreOf t c).enginesGated ∧ t.mems = s.mems
      | .coreClock c => (coreOf t c).clockOff = true ∧ t.mems = s.mems
      | .bank c b => bankState t c b = 1 ∧ t.mems = s.mems
      | .cluster n => n ∈ t.power.clustersOff ∧ (bitOf (ledN s 0x2121 1) n = true → t.mems = s.mems)
      | .die d => (dieOf t d).coreOff = true ∧ (s.memWf = true → ∀ a, scratchBase (128 * d) ≤ a →
          a < scratchBase (128 * d) + 128 * 2 ^ 22 → memRead .scratch a 1 t = [0])) ∧
  (∀ (u : PowerUnit) (s : State), u ∈ s.power.waking →
    match u with
    | .engine c e => ∃ t, exec (.unitWakeComplete u) s = .next t ∧ u ∉ t.power.waking ∧ e ∉ (coreOf t c).enginesGated
    | .coreClock c => ∃ t, exec (.unitWakeComplete u) s = .next t ∧ u ∉ t.power.waking ∧ (coreOf t c).clockOff = false
    | .cluster n => coreDark s (16 * n) = false →
        ∃ t, exec (.unitWakeComplete u) s = .next t ∧ u ∉ t.power.waking ∧ n ∉ t.power.clustersOff
    | _ => True) ∧
  (∀ (c b : Nat) (s : State), b ∈ (coreOf s c).waking → b < 16 → coreAsleep s c = false →
    ∃ t, exec (.unitWakeComplete (.bank c b)) s = .next t ∧ bankState t c b = 0 ∧ b ∉ (coreOf t c).waking) ∧
  (∀ (d : Nat) (s : State), (dieOf s d).wakePending = true → (dieOf s d).coreOff = true →
    ∃ t, exec (.unitWakeComplete (.die d)) s = .next (pumpAll t) ∧ (dieOf t d).coreOff = false ∧ (dieOf t d).wakePending = false ∧
      (∀ n, n / 8 = d → n ∉ t.power.clustersOff) ∧ count t 0x9090 8 = count s 0x9090 8 + 1 ∧ t.coll = s.coll ∧ t.enpin = s.enpin)

namespace Sys2Proof.Obl

/-- Start-up goes on: no recovery, no FATAL, no trip, and the supply is there. -/
def Starting (s : State) (n : Nat) : Prop :=
  s.board.mstate = 0 ∧ s.power.thermtrip = false ∧ s.board.supply = true ∧ s.board.step = n

end Sys2Proof.Obl

/-- POWER_ON_RESET, MODULE_RESET, SUPPLY_RESTORE, UNDERVOLTAGE_DIP, UNDERVOLTAGE_DIP_END, UNDERVOLTAGE_DECLARED and
FATAL_AUTO_RESET_EXPIRY (R465, R469 to R471, R478, R484). A reset keeps what OTP and the NOR hold and nothing of the module's work; a
module reset keeps HBM and LPDDR5X too, counts itself, names its cause and resumes at step 2. A dip under 5 µs is ignored; from 5 µs
on it is a loss of power. -/
def Obligations.ResetsKeepWhatTheyKeep : Prop :=
  (∀ (s : State) (c : Instr), c = .powerOnReset ∨ (c = .supplyRestore ∧ s.board.supply = false) →
    ∃ t, exec c s = .next t ∧ t.board.step = 1 ∧ t.board.mstate = 0 ∧ t.board.supply = true ∧ t.board.resetCause = 0 ∧ t.now = 0 ∧
      t.fns = [] ∧ t.admins = [] ∧ t.keys.table = [] ∧ t.enpin.ctxs = [] ∧ t.coll.groups = [] ∧ t.compute.launches = [] ∧
      t.mems.hbm = [] ∧ t.mems.lpddr = [] ∧ t.mems.scratch = [] ∧ t.mems.cluster = [] ∧ t.mems.ksram = [] ∧ t.mems.istore = [] ∧
      t.mems.host = s.mems.host ∧ t.ledger.values = s.ledger.committed ∧ t.sec.lc = s.sec.lc ∧ t.sec.lcCount = s.sec.lcCount ∧
      t.sec.ownerKek = s.sec.ownerKek ∧ t.board.faultLog = s.board.faultLog ∧ t.host.attached = true ∧ t.part = s.part) ∧
  (∀ (s u : State) (c : Instr) (n t0 : Nat),
    (c = .moduleReset n ∧ s.board.supply = true ∧ 1 ≤ n ∧ n ≤ 6 ∧ u = s) ∨
      (c = .fatalAutoResetExpiry ∧ n = 6 ∧ isFatal s = true ∧ s.board.fatalAt = some t0 ∧ ledN s 0xA000 4 ≠ 0 ∧
        u = advanceTo (t0 + ledN s 0xA000 4 * 1000000) s) →
    exec c s = .next (resetModule n u)) ∧
  (∀ (s : State) (n : Nat), (resetModule n s).board.step = 2 ∧ (resetModule n s).board.resetCause = n ∧
    (resetModule n s).board.resetCount = min (s.board.resetCount + 1) 0xFFFFFFFF ∧ (resetModule n s).board.mstate = 0 ∧
    (resetModule n s).mems = { s.mems with bad := s.mems.bad.filter (fun k => decide (k < 2 * 2 ^ 48)) } ∧
    (resetModule n s).fns = [] ∧ (resetModule n s).admins = [] ∧ (resetModule n s).keys.table = [] ∧
    (resetModule n s).enpin.ctxs = [] ∧ (resetModule n s).coll.groups = [] ∧ (resetModule n s).compute.launches = [] ∧
    (resetModule n s).wall.pos = none ∧ (resetModule n s).sec.lc = s.sec.lc ∧ (resetModule n s).sec.ownerKek = s.sec.ownerKek ∧
    (resetModule n s).sec.rxSas = [] ∧ (resetModule n s).board.faultLog = s.board.faultLog ∧
    (resetModule n s).ledger.counters = [] ∧ (resetModule n s).power.thermtrip = s.power.thermtrip ∧
    (beNat (tget [] s.ledger.committed (0x1020 * 256 + 1)) ≠ 1 → (resetModule n s).ledger.values = s.ledger.committed) ∧
    (beNat (tget [] s.ledger.committed (0x1020 * 256 + 1)) = 1 → ∀ k, tfind (resetModule n s).ledger.values k =
      if 0x700000 ≤ k ∧ k < 0x710000 then tfind s.ledger.committed k else none)) ∧
  (∀ (l n : Nat) (s : State), l < 8 → (linkOf s l).st ≠ .down →
    ∃ i : IdleFlit, .idle l (idleBytes i) ∈ (resetModule n s).out ∧ i.link = l ∧ i.goingDown = true ∧ i.module = ownId s) ∧
  (∀ (s : State), s.board.supply = true → s.board.dip = none → ∃ t, exec .undervoltageDip s = .next t ∧
    t.board.dip = some s.now ∧ t.board.supply = true ∧ t.mems = s.mems) ∧
  (∀ (n : Nat) (s : State), s.board.dip = some n →
    (s.now < n + 5000 → ∃ t, exec .undervoltageDipEnd s = .next t ∧ t.board.dip = none ∧ t.board.supply = s.board.supply ∧
      t.mems = s.mems) ∧
    (n + 5000 ≤ s.now → exec .undervoltageDipEnd s = .next s) ∧
    (s.board.supply = true → ∃ t, exec .undervoltageDeclared s = .next t ∧ t.board.supply = false ∧ t.board.step = 0 ∧
      t.mems.hbm = [] ∧ t.mems.lpddr = [] ∧ t.mems.ksram = [] ∧ t.fns = [] ∧ t.ledger.values = s.ledger.committed ∧
      t.sec.lc = s.sec.lc ∧ t.board.faultLog = s.board.faultLog))

/-- STARTUP_STEP_COMPLETE and POSITION_WAIT_EXPIRY (R465 to R467). Each step that ends well begins the next, step 6 only with dies to
start; a failed boot is recovery, a failed die or test is FATAL; step 7 leaves compute memory zero; step 10 waits for a position or for
its time; the last step makes the module READY. -/
def Obligations.StartUpSteps : Prop :=
  (∀ (s : State) (n : Nat), Starting s n → n ∈ [1, 3, 4, 8] → ∃ t, exec (.startupStepComplete .ok) s = .next t ∧
    t.board.step = n + 1 ∧ t.board.stepAt = s.now ∧ t.board.mstate = 0 ∧ t.mems = s.mems ∧ t.fns = s.fns) ∧
  (∀ (s : State), Starting s 2 →
    (∃ t, exec (.startupStepComplete .ok) s = .next t ∧ t.board.step = 3 ∧ t.board.mstate = 0 ∧
      (∀ k, bootChoice s = some k → t.sec.bootSlot = k)) ∧
    (∃ t, exec (.startupStepComplete .failed) s = .next t ∧ t.board.step = 2 ∧ t.board.mstate = 3)) ∧
  (∀ (s : State) (n : Nat), Starting s n → n = 5 ∨ n = 6 →
    (∃ t, exec (.startupStepComplete .ok) s = .next t ∧ t.board.step = (if n = 5 ∧ s.part ≠ .tmv9110 then 6 else 7) ∧
      t.mems = s.mems) ∧
    (∃ t r, exec (.startupStepComplete .failed) s = .next t ∧ t.board.mstate = 2 ∧ t.board.faultLog.getLast? = some r ∧
      r.cls = 5 ∧ r.code = 8)) ∧
  (∀ (s : State), Starting s 7 →
    (∃ t, exec (.startupStepComplete .ok) s = .next t ∧ t.board.step = 8 ∧ t.mems.scratch = [] ∧ t.mems.cluster = [] ∧
      t.mems.ksram = [] ∧ t.mems.istore = [] ∧ t.mems.hbm = s.mems.hbm ∧ t.mems.lpddr = s.mems.lpddr ∧
      ∀ d, d < diesFitted s.part → (dieOf t d).point = ledN s 0x2020 4) ∧
    (∃ t r, exec (.startupStepComplete .failed) s = .next t ∧ t.board.mstate = 2 ∧ t.board.faultLog.getLast? = some r ∧
      r.cls = 5 ∧ r.code = 9)) ∧
  (∀ (s : State), Starting s 9 → ∃ t, exec (.startupStepComplete .ok) s = .next t ∧ t.board.step = 10 ∧
    (s.wall.pos = none → ledN s 0x3200 5 ≠ 1 → s.wall.origin = true → t.wall.pos = some (0, 0)) ∧
    (s.wall.pos = none → ledN s 0x3200 5 ≠ 1 → s.wall.origin = false → t.wall.pos = none) ∧
    (s.wall.pos = none → ledN s 0x3200 5 = 1 →
      t.wall.pos = some (ledN s 0x3200 6 % 32, ledN s 0x3200 6 / 256 % 32))) ∧
  (∀ (s : State), Starting s 10 →
    (s.wall.pos.isSome = true → ∃ t, exec (.startupStepComplete .ok) s = .next t ∧ t.board.step = 11 ∧ t.wall = s.wall) ∧
    (s.wall.pos = none → exec (.startupStepComplete .ok) s = .next s ∧ ∃ t, exec .positionWaitExpiry s = .next t ∧
      t.board.step = 11 ∧ t.wall.pos = none ∧ t.now = max s.now (s.board.stepAt + s.board.positionWait * 1000000))) ∧
  (∀ (s : State), Starting s 11 → ∃ t, exec (.startupStepComplete .ok) s = .next t ∧ t.board.step = 12 ∧ isReady t = true ∧
    t.fns = s.fns ∧ t.mems = s.mems)

/-- WATCHDOG_EXPIRY, FIRMWARE_RESTART_END, D2D_CRC_FAILURE, D2D_FAILURE_TIMEOUT, PATROL_SCRUB, RFM_REFRESH, SENSOR_CALIBRATION,
TALLY_WRITEBACK_PASS, FIELD_PWR_LOSS, FIELD_PWR_RESTORE, REFCLK_LOSS and REFCLK_RESTORE (R312 to R315, R470, R472 to R475, R477,
R479, R486 to R488): two firmware restarts a minute leave the module's work alone, a third expiry resets it; a die link's CRC
failure is counted, its failure is FATAL; a scrub counts what it corrects and lists what it cannot; the periodic passes count or
stamp; a lost clock takes down what runs on it. -/
def Obligations.BackgroundAndSupplies : Prop :=
  (∀ (s : State), s.board.supply = true → 3 ≤ s.board.step →
    ((s.board.restarts.filter (fun t => decide (s.now ≤ t + 60000000000))).length < 2 →
      ∃ t, exec .watchdogExpiry s = .next t ∧ t.board.fwRestarting = true ∧ t.ledger.session = {} ∧ t.ledger.staging = [] ∧
        s.now ∈ t.board.restarts ∧ count t 0x90A0 5 = count s 0x90A0 5 + 1 ∧ t.mems = s.mems ∧ t.enpin = s.enpin ∧ t.fns = s.fns) ∧
    (2 ≤ (s.board.restarts.filter (fun t => decide (s.now ≤ t + 60000000000))).length →
      ∃ u r, exec .watchdogExpiry s = .next (resetModule 5 u) ∧ u.board.faultLog.getLast? = some r ∧ r.cls = 4 ∧ r.code = 4)) ∧
  (∀ (s : State), ∃ t, exec .firmwareRestartEnd s = .next t ∧ t.board = { s.board with fwRestarting := false } ∧ t.fns = s.fns) ∧
  (∀ (l : D2dLink) (s : State), d2dFitted s l = true → s.board.supply = true →
    (∃ t, exec (.d2dCrcFailure l) s = .next t ∧ count t 0x90A0 1 = count s 0x90A0 1 + 1 ∧ t.board = s.board) ∧
    (isFatal s = false → ∃ t r, exec (.d2dFailureTimeout l) s = .next t ∧ isFatal t = true ∧ t.compute.launches = [] ∧
      t.board.faultLog.getLast? = some r ∧ r.cls = 5 ∧ r.code = (if l = .k0k1 then 2 else 3))) ∧
  (∀ (a : Nat) (s : State), s.board.supply = true → a < hbmSize s.part →
    exec (.patrolScrub (.hbm a) .clean) s = .next s ∧
    (∃ t, exec (.patrolScrub (.hbm a) .corrected) s = .next t ∧ count t 0x9070 6 = count s 0x9070 6 + 1 ∧
      count t 0x90A0 2 = count s 0x90A0 2 + 1 ∧ t.mems = s.mems) ∧
    (∃ t, exec (.patrolScrub (.hbm a) .uncorrectable) s = .next t ∧ badIn .hbm a 1 t ≠ none ∧ t.mems.hbm = s.mems.hbm ∧
      count t 0x9070 9 = count s 0x9070 9 + 1)) ∧
  (∀ (a : Nat) (s : State), s.board.supply = true →
    (a < lpddrSize s.part → ∃ t, exec (.patrolScrub (.lpddr a) .corrected) s = .next t ∧ count t 0x9070 7 = count s 0x9070 7 + 1 ∧
      count t 0x90A0 2 = count s 0x90A0 2 + 1) ∧
    (a < 2 ^ 27 → ∃ t, exec (.patrolScrub (.ksram a) .corrected) s = .next t ∧ count t 0x9070 8 = count s 0x9070 8 + 1 ∧
      count t 0x90A0 2 = count s 0x90A0 2 + 1) ∧
    (a / 2 ^ 22 < coresFitted s.part → bankState s (padCore a) (padOff a / bankBytes) = 0 →
      ∃ t, exec (.patrolScrub (.scratch a) .corrected) s = .next t ∧ count t 0x9070 8 = count s 0x9070 8 + 1) ∧
    (a / 2 ^ 25 < coresFitted s.part / 16 →
      ∃ t, exec (.patrolScrub (.clusterStore a) .corrected) s = .next t ∧ count t 0x9070 8 = count s 0x9070 8 + 1) ∧
    exec (.patrolScrub .secureSram .uncorrectable) s = .next (raiseAlarm 6 (bump 0x9070 9 1 s)) ∧
    (∀ b, a < coresFitted s.part → b < 16 → ∃ t, exec (.patrolScrub (.skippedBank a b) .clean) s = .next t ∧
      count t 0x90A0 3 = count s 0x90A0 3 + 1 ∧ t.mems = s.mems)) ∧
  (∀ (row : Nat) (s : State), s.board.supply = true → ∃ t, exec (.rfmRefresh row) s = .next t ∧
    count t 0x90A0 4 = count s 0x90A0 4 + 1 ∧ t.mems = s.mems) ∧
  (∀ (n : Nat) (s : State), n < 40 → unitFitted s (sensorUnit n) = true → s.board.supply = true →
    ((∀ m a b, s.power.sensorOffline = some (m, a, b) → m ≠ n) → ∃ t, exec (.sensorCalibration n) s = .next t ∧
      t.power.sensorOffline = some (n, s.now, tget 0 s.power.tj (sensorUnit n))) ∧
    (∀ a b, s.power.sensorOffline = some (n, a, b) → ∃ t, exec (.sensorCalibration n) s = .next t ∧
      t.power.sensorOffline = none)) ∧
  (∀ (ks : Nat) (s : State), s.board.supply = true → ks ≤ 1 → ∃ t, exec (.tallyWritebackPass ks) s = .next t ∧
    t.now = max s.now ((s.now / (ledN s 0xA010 6 * 1000000) + 1) * (ledN s 0xA010 6 * 1000000)) ∧ t.mems = s.mems ∧
    ∀ peer c, ctxOf s peer = some c → c.home = ks → ∃ k, ctxOf t peer = some k ∧ k.onChip = c.onChip ∧ k.st = c.st ∧
      (isQuiet s peer c = true → k.dirty = false) ∧ nowMs t - 2 ^ 30 ≤ k.lastActive) ∧
  (∀ (s : State), (∃ t, exec .fieldPwrLoss s = .next t ∧ t.board = { s.board with fieldPwr := false } ∧ t.fns = s.fns) ∧
    (∃ t, exec .fieldPwrRestore s = .next t ∧ t.board = { s.board with fieldPwr := true } ∧ t.fns = s.fns)) ∧
  (∀ (s : State),
    (s.host.linkUp = true → ∃ u, exec (.refclkLoss .cxl100) s = .next (hostLoss u) ∧ u.host.linkUp = false ∧
      u.board.clk100 = false) ∧
    (s.host.linkUp = false → ∃ t, exec (.refclkLoss .cxl100) s = .next t ∧ t.board.clk100 = false ∧ t.host = s.host ∧
      t.fns = s.fns) ∧
    (∃ t, exec (.refclkLoss .eth156) s = .next t ∧ t.board.clk156 = false ∧ (∀ p, p < 4 → (portOf t p).linkUp = false) ∧
      (∀ l, l < 8 → (linkOf t l).st = .down)) ∧
    (s.board.supply = true → ∃ t, exec (.refclkLoss .osc25) s = .next t ∧ t.board.clk25 = false ∧
      t.power.aClocksStopped = true ∧ t.sec.alarms = s.sec.alarms ||| 2)) ∧
  (∀ (c : RefClock) (s : State), ∃ t, exec (.refclkRestore c) s = .next t ∧ t.fns = s.fns ∧ t.host = s.host ∧
    (c = .cxl100 → t.board.clk100 = true) ∧ (c = .eth156 → t.board.clk156 = true) ∧ (c = .osc25 → t.board.clk25 = true))

/-- Whatever the state, a step that answers keeps every memory in canonical form; it takes the command at the front of the queue and
nothing else from it, and an idle step takes none. -/
def Obligations.EveryStepKeepsMemoriesAndQueue : Prop :=
  (∀ s t : State, s.memWf = true → step s = .next t → t.memWf = true) ∧
  (∀ (c : Instr) (rest : List Instr) (s t : State), s.pending = c :: rest → step s = .next t → t.pending = rest) ∧
  (∀ s t : State, s.pending = [] → step s = .next t → t.pending = [])

/-- What reset leaves (R465 to R467, R469, R470): step 1 of start-up, cause 0, no position, every queue in RESET, no key, no alarm,
every Ledger entry at its default, nothing waiting, and memories in canonical form. The values that no rule gives rest on assumption
2. -/
def Obligations.ResetState : Prop :=
  State.reset.pending = [] ∧ State.reset.now = 0 ∧ State.reset.board.step = 1 ∧ State.reset.board.mstate = 0 ∧
  State.reset.board.resetCause = 0 ∧ State.reset.board.resetCount = 0 ∧ State.reset.board.faultLog = [] ∧
  ownId State.reset = 0xFFFFFFFF ∧ (∀ q, (queueOf State.reset q).st = .reset ∧ (queueOf State.reset q).enable = false) ∧
  (∀ k, keyCurrent State.reset k = false) ∧ State.reset.sec.alarms = 0 ∧ State.reset.power.thermtrip = false ∧
  (∀ fn, grantOf State.reset fn = none) ∧ (∀ i n, count State.reset i n = 0) ∧
  (∀ i n e, dict State.reset.part i n = some e → ledBytes State.reset i n = e.dflt) ∧ State.reset.memWf = true

/-- R185: east is minimal when (b − a) mod N is at most N − (b − a) mod N, west when it is at least that; the same for south and north
along y. Directions: 0 east, 1 west, 2 north, 3 south. -/
def Obligations.MinimalDirections : Prop :=
  ∀ (here dest : Nat × Nat) (s : State), here.1 < s.wall.sizeX → dest.1 < s.wall.sizeX → here.2 < s.wall.sizeY →
    dest.2 < s.wall.sizeY →
    (here.1 ≠ dest.1 → ∃ d : Nat, (d : Int) = ((dest.1 : Int) - here.1) % s.wall.sizeX ∧
      (0 ∈ minimalDirs s true here dest ↔ d ≤ s.wall.sizeX - d) ∧ (1 ∈ minimalDirs s true here dest ↔ s.wall.sizeX - d ≤ d) ∧
      ∀ x ∈ minimalDirs s true here dest, x = 0 ∨ x = 1) ∧
    (here.2 ≠ dest.2 → ∃ d : Nat, (d : Int) = ((dest.2 : Int) - here.2) % s.wall.sizeY ∧
      (3 ∈ minimalDirs s false here dest ↔ d ≤ s.wall.sizeY - d) ∧ (2 ∈ minimalDirs s false here dest ↔ s.wall.sizeY - d ≤ d) ∧
      ∀ x ∈ minimalDirs s false here dest, x = 2 ∨ x = 3)

namespace Sys2Proof.Obl

/-- The commands of keys, lock, generator, responder, field port, power and supply whose effect stays inside those units. -/
def staysInside (c : Instr) : Bool :=
  match c with
  | .keyInstallTransmit _ _ | .keyInstallReceive _ _ | .keyRemoveTransmit _ _ | .keyRemoveReceive _ _ | .keyCommandEnd | .alarm _
  | .secureWipeEnd | .lockRead | .lockRelease _ | .lockTimeout | .drbgReseed | .getVersion | .getCapabilities
  | .negotiateAlgorithms _ | .getDigests | .getCertificate _ _ _ | .challenge _ _ | .getMeasurements _ _ _ | .keyExchange _
  | .finish _ | .endSession | .perstDeassert | .hostDataLinkUp _ _ | .snoopReceive _ | .droopDetect _ | .droopStretchEnd _ _
  | .opChangeComplete _ | .probeIntervalExpiry _ | .meterSample _ | .fallbackClear | .sessionAuthTimeout | .sessionIdleExpiry
  | .segmentStagingExpiry _ | .heartbeat | .emergencyRepeat | .undervoltageDip | .undervoltageDipEnd | .fieldPwrLoss
  | .fieldPwrRestore | .refclkRestore _ | .firmwareRestartEnd | .d2dCrcFailure _ | .rfmRefresh _ | .sensorCalibration _ => true
  | _ => false

end Sys2Proof.Obl

/-- The frame of the commands that stay inside their units: memory, keys, rings of the admin, contexts, wall, groups, cores,
migrations, pools, cut rules and ports are as before; so is everything of every function but its key page, and every Ledger
value; time does not run backwards. -/
def Obligations.FramesOfInternalCommands : Prop :=
  ∀ (c : Instr) (s t : State), staysInside c = true → exec c s = .next t →
    t.mems = s.mems ∧ t.keys = s.keys ∧ t.admins = s.admins ∧ t.enpin = s.enpin ∧ t.shapers = s.shapers ∧ t.wall = s.wall ∧
    t.coll = s.coll ∧ t.compute = s.compute ∧ t.mig = s.mig ∧ t.pools = s.pools ∧ t.cut = s.cut ∧ t.eth = s.eth ∧ t.part = s.part ∧
    t.ledger.values = s.ledger.values ∧ t.ledger.committed = s.ledger.committed ∧ t.pending = s.pending ∧
    (∀ f, { fnOf t f with keyPage := (fnOf s f).keyPage } = fnOf s f) ∧ s.now ≤ t.now
end

