-- ==== Sys2Proof/Laws/State.lean ====
section
/-! SUPPORT. What each setter of the state leaves alone and what it writes, and how tables answer: one lemma for each field and
each setter, so that no proof unfolds a record update. -/

namespace Sys2Proof.Laws
open Sys2Proof Sys2Proof.Machine

/-! ## Tables -/

@[simp] theorem tfind_tset {α : Type} (t : Table α) (k j : Nat) (v : α) :
    tfind (tset t k v) j = if j = k then some v else tfind t j := by
  induction t with
  | nil => simp only [tset, tfind]
  | cons p t ih =>
    obtain ⟨i, w⟩ := p
    simp only [tset]
    split
    · simp only [tfind]
    · split
      · subst_vars; simp only [tfind]; split <;> rfl
      · simp only [tfind, ih]
        split <;> split <;> simp_all

@[simp] theorem tget_tset {α : Type} (d : α) (t : Table α) (k j : Nat) (v : α) :
    tget d (tset t k v) j = if j = k then v else tget d t j := by
  simp only [tget, tfind_tset]
  split <;> rfl

/-! ## Setters and the fields they leave alone -/

@[simp] theorem setFn_pending (f : Nat) (x : Fn) (s : State) : (setFn f x s).pending = s.pending := rfl
@[simp] theorem setFn_part (f : Nat) (x : Fn) (s : State) : (setFn f x s).part = s.part := rfl
@[simp] theorem setFn_now (f : Nat) (x : Fn) (s : State) : (setFn f x s).now = s.now := rfl
@[simp] theorem setFn_free (f : Nat) (x : Fn) (s : State) : (setFn f x s).free = s.free := rfl
@[simp] theorem setFn_out (f : Nat) (x : Fn) (s : State) : (setFn f x s).out = s.out := rfl
@[simp] theorem setFn_mems (f : Nat) (x : Fn) (s : State) : (setFn f x s).mems = s.mems := rfl
@[simp] theorem setFn_admins (f : Nat) (x : Fn) (s : State) : (setFn f x s).admins = s.admins := rfl
@[simp] theorem setFn_keys (f : Nat) (x : Fn) (s : State) : (setFn f x s).keys = s.keys := rfl
@[simp] theorem setFn_enpin (f : Nat) (x : Fn) (s : State) : (setFn f x s).enpin = s.enpin := rfl
@[simp] theorem setFn_shapers (f : Nat) (x : Fn) (s : State) : (setFn f x s).shapers = s.shapers := rfl
@[simp] theorem setFn_wall (f : Nat) (x : Fn) (s : State) : (setFn f x s).wall = s.wall := rfl
@[simp] theorem setFn_coll (f : Nat) (x : Fn) (s : State) : (setFn f x s).coll = s.coll := rfl
@[simp] theorem setFn_compute (f : Nat) (x : Fn) (s : State) : (setFn f x s).compute = s.compute := rfl
@[simp] theorem setFn_mig (f : Nat) (x : Fn) (s : State) : (setFn f x s).mig = s.mig := rfl
@[simp] theorem setFn_pools (f : Nat) (x : Fn) (s : State) : (setFn f x s).pools = s.pools := rfl
@[simp] theorem setFn_cut (f : Nat) (x : Fn) (s : State) : (setFn f x s).cut = s.cut := rfl
@[simp] theorem setFn_eth (f : Nat) (x : Fn) (s : State) : (setFn f x s).eth = s.eth := rfl
@[simp] theorem setFn_host (f : Nat) (x : Fn) (s : State) : (setFn f x s).host = s.host := rfl
@[simp] theorem setFn_sec (f : Nat) (x : Fn) (s : State) : (setFn f x s).sec = s.sec := rfl
@[simp] theorem setFn_power (f : Nat) (x : Fn) (s : State) : (setFn f x s).power = s.power := rfl
@[simp] theorem setFn_ledger (f : Nat) (x : Fn) (s : State) : (setFn f x s).ledger = s.ledger := rfl
@[simp] theorem setFn_board (f : Nat) (x : Fn) (s : State) : (setFn f x s).board = s.board := rfl

@[simp] theorem modFn_pending (f : Nat) (g : Fn → Fn) (s : State) : (modFn f g s).pending = s.pending := rfl
@[simp] theorem modFn_part (f : Nat) (g : Fn → Fn) (s : State) : (modFn f g s).part = s.part := rfl
@[simp] theorem modFn_now (f : Nat) (g : Fn → Fn) (s : State) : (modFn f g s).now = s.now := rfl
@[simp] theorem modFn_free (f : Nat) (g : Fn → Fn) (s : State) : (modFn f g s).free = s.free := rfl
@[simp] theorem modFn_out (f : Nat) (g : Fn → Fn) (s : State) : (modFn f g s).out = s.out := rfl
@[simp] theorem modFn_mems (f : Nat) (g : Fn → Fn) (s : State) : (modFn f g s).mems = s.mems := rfl
@[simp] theorem modFn_admins (f : Nat) (g : Fn → Fn) (s : State) : (modFn f g s).admins = s.admins := rfl
@[simp] theorem modFn_keys (f : Nat) (g : Fn → Fn) (s : State) : (modFn f g s).keys = s.keys := rfl
@[simp] theorem modFn_enpin (f : Nat) (g : Fn → Fn) (s : State) : (modFn f g s).enpin = s.enpin := rfl
@[simp] theorem modFn_shapers (f : Nat) (g : Fn → Fn) (s : State) : (modFn f g s).shapers = s.shapers := rfl
@[simp] theorem modFn_wall (f : Nat) (g : Fn → Fn) (s : State) : (modFn f g s).wall = s.wall := rfl
@[simp] theorem modFn_coll (f : Nat) (g : Fn → Fn) (s : State) : (modFn f g s).coll = s.coll := rfl
@[simp] theorem modFn_compute (f : Nat) (g : Fn → Fn) (s : State) : (modFn f g s).compute = s.compute := rfl
@[simp] theorem modFn_mig (f : Nat) (g : Fn → Fn) (s : State) : (modFn f g s).mig = s.mig := rfl
@[simp] theorem modFn_pools (f : Nat) (g : Fn → Fn) (s : State) : (modFn f g s).pools = s.pools := rfl
@[simp] theorem modFn_cut (f : Nat) (g : Fn → Fn) (s : State) : (modFn f g s).cut = s.cut := rfl
@[simp] theorem modFn_eth (f : Nat) (g : Fn → Fn) (s : State) : (modFn f g s).eth = s.eth := rfl
@[simp] theorem modFn_host (f : Nat) (g : Fn → Fn) (s : State) : (modFn f g s).host = s.host := rfl
@[simp] theorem modFn_sec (f : Nat) (g : Fn → Fn) (s : State) : (modFn f g s).sec = s.sec := rfl
@[simp] theorem modFn_power (f : Nat) (g : Fn → Fn) (s : State) : (modFn f g s).power = s.power := rfl
@[simp] theorem modFn_ledger (f : Nat) (g : Fn → Fn) (s : State) : (modFn f g s).ledger = s.ledger := rfl
@[simp] theorem modFn_board (f : Nat) (g : Fn → Fn) (s : State) : (modFn f g s).board = s.board := rfl

@[simp] theorem setQueue_pending (q : QRef) (x : Queue) (s : State) : (setQueue q x s).pending = s.pending := by
  unfold setQueue; split <;> rfl
@[simp] theorem setQueue_part (q : QRef) (x : Queue) (s : State) : (setQueue q x s).part = s.part := by
  unfold setQueue; split <;> rfl
@[simp] theorem setQueue_now (q : QRef) (x : Queue) (s : State) : (setQueue q x s).now = s.now := by
  unfold setQueue; split <;> rfl
@[simp] theorem setQueue_free (q : QRef) (x : Queue) (s : State) : (setQueue q x s).free = s.free := by
  unfold setQueue; split <;> rfl
@[simp] theorem setQueue_out (q : QRef) (x : Queue) (s : State) : (setQueue q x s).out = s.out := by
  unfold setQueue; split <;> rfl
@[simp] theorem setQueue_mems (q : QRef) (x : Queue) (s : State) : (setQueue q x s).mems = s.mems := by
  unfold setQueue; split <;> rfl
@[simp] theorem setQueue_keys (q : QRef) (x : Queue) (s : State) : (setQueue q x s).keys = s.keys := by
  unfold setQueue; split <;> rfl
@[simp] theorem setQueue_enpin (q : QRef) (x : Queue) (s : State) : (setQueue q x s).enpin = s.enpin := by
  unfold setQueue; split <;> rfl
@[simp] theorem setQueue_shapers (q : QRef) (x : Queue) (s : State) : (setQueue q x s).shapers = s.shapers := by
  unfold setQueue; split <;> rfl
@[simp] theorem setQueue_wall (q : QRef) (x : Queue) (s : State) : (setQueue q x s).wall = s.wall := by
  unfold setQueue; split <;> rfl
@[simp] theorem setQueue_coll (q : QRef) (x : Queue) (s : State) : (setQueue q x s).coll = s.coll := by
  unfold setQueue; split <;> rfl
@[simp] theorem setQueue_compute (q : QRef) (x : Queue) (s : State) : (setQueue q x s).compute = s.compute := by
  unfold setQueue; split <;> rfl
@[simp] theorem setQueue_mig (q : QRef) (x : Queue) (s : State) : (setQueue q x s).mig = s.mig := by
  unfold setQueue; split <;> rfl
@[simp] theorem setQueue_pools (q : QRef) (x : Queue) (s : State) : (setQueue q x s).pools = s.pools := by
  unfold setQueue; split <;> rfl
@[simp] theorem setQueue_cut (q : QRef) (x : Queue) (s : State) : (setQueue q x s).cut = s.cut := by
  unfold setQueue; split <;> rfl
@[simp] theorem setQueue_eth (q : QRef) (x : Queue) (s : State) : (setQueue q x s).eth = s.eth := by
  unfold setQueue; split <;> rfl
@[simp] theorem setQueue_host (q : QRef) (x : Queue) (s : State) : (setQueue q x s).host = s.host := by
  unfold setQueue; split <;> rfl
@[simp] theorem setQueue_sec (q : QRef) (x : Queue) (s : State) : (setQueue q x s).sec = s.sec := by
  unfold setQueue; split <;> rfl
@[simp] theorem setQueue_power (q : QRef) (x : Queue) (s : State) : (setQueue q x s).power = s.power := by
  unfold setQueue; split <;> rfl
@[simp] theorem setQueue_ledger (q : QRef) (x : Queue) (s : State) : (setQueue q x s).ledger = s.ledger := by
  unfold setQueue; split <;> rfl
@[simp] theorem setQueue_board (q : QRef) (x : Queue) (s : State) : (setQueue q x s).board = s.board := by
  unfold setQueue; split <;> rfl

@[simp] theorem modQueue_pending (q : QRef) (g : Queue → Queue) (s : State) : (modQueue q g s).pending = s.pending := setQueue_pending _ _ _
@[simp] theorem modQueue_part (q : QRef) (g : Queue → Queue) (s : State) : (modQueue q g s).part = s.part := setQueue_part _ _ _
@[simp] theorem modQueue_now (q : QRef) (g : Queue → Queue) (s : State) : (modQueue q g s).now = s.now := setQueue_now _ _ _
@[simp] theorem modQueue_free (q : QRef) (g : Queue → Queue) (s : State) : (modQueue q g s).free = s.free := setQueue_free _ _ _
@[simp] theorem modQueue_out (q : QRef) (g : Queue → Queue) (s : State) : (modQueue q g s).out = s.out := setQueue_out _ _ _
@[simp] theorem modQueue_mems (q : QRef) (g : Queue → Queue) (s : State) : (modQueue q g s).mems = s.mems := setQueue_mems _ _ _
@[simp] theorem modQueue_keys (q : QRef) (g : Queue → Queue) (s : State) : (modQueue q g s).keys = s.keys := setQueue_keys _ _ _
@[simp] theorem modQueue_enpin (q : QRef) (g : Queue → Queue) (s : State) : (modQueue q g s).enpin = s.enpin := setQueue_enpin _ _ _
@[simp] theorem modQueue_shapers (q : QRef) (g : Queue → Queue) (s : State) : (modQueue q g s).shapers = s.shapers := setQueue_shapers _ _ _
@[simp] theorem modQueue_wall (q : QRef) (g : Queue → Queue) (s : State) : (modQueue q g s).wall = s.wall := setQueue_wall _ _ _
@[simp] theorem modQueue_coll (q : QRef) (g : Queue → Queue) (s : State) : (modQueue q g s).coll = s.coll := setQueue_coll _ _ _
@[simp] theorem modQueue_compute (q : QRef) (g : Queue → Queue) (s : State) : (modQueue q g s).compute = s.compute := setQueue_compute _ _ _
@[simp] theorem modQueue_mig (q : QRef) (g : Queue → Queue) (s : State) : (modQueue q g s).mig = s.mig := setQueue_mig _ _ _
@[simp] theorem modQueue_pools (q : QRef) (g : Queue → Queue) (s : State) : (modQueue q g s).pools = s.pools := setQueue_pools _ _ _
@[simp] theorem modQueue_cut (q : QRef) (g : Queue → Queue) (s : State) : (modQueue q g s).cut = s.cut := setQueue_cut _ _ _
@[simp] theorem modQueue_eth (q : QRef) (g : Queue → Queue) (s : State) : (modQueue q g s).eth = s.eth := setQueue_eth _ _ _
@[simp] theorem modQueue_host (q : QRef) (g : Queue → Queue) (s : State) : (modQueue q g s).host = s.host := setQueue_host _ _ _
@[simp] theorem modQueue_sec (q : QRef) (g : Queue → Queue) (s : State) : (modQueue q g s).sec = s.sec := setQueue_sec _ _ _
@[simp] theorem modQueue_power (q : QRef) (g : Queue → Queue) (s : State) : (modQueue q g s).power = s.power := setQueue_power _ _ _
@[simp] theorem modQueue_ledger (q : QRef) (g : Queue → Queue) (s : State) : (modQueue q g s).ledger = s.ledger := setQueue_ledger _ _ _
@[simp] theorem modQueue_board (q : QRef) (g : Queue → Queue) (s : State) : (modQueue q g s).board = s.board := setQueue_board _ _ _

@[simp] theorem setCq_pending (f r : Nat) (x : OutRing) (s : State) : (setCq f r x s).pending = s.pending := rfl
@[simp] theorem setCq_part (f r : Nat) (x : OutRing) (s : State) : (setCq f r x s).part = s.part := rfl
@[simp] theorem setCq_now (f r : Nat) (x : OutRing) (s : State) : (setCq f r x s).now = s.now := rfl
@[simp] theorem setCq_free (f r : Nat) (x : OutRing) (s : State) : (setCq f r x s).free = s.free := rfl
@[simp] theorem setCq_out (f r : Nat) (x : OutRing) (s : State) : (setCq f r x s).out = s.out := rfl
@[simp] theorem setCq_mems (f r : Nat) (x : OutRing) (s : State) : (setCq f r x s).mems = s.mems := rfl
@[simp] theorem setCq_admins (f r : Nat) (x : OutRing) (s : State) : (setCq f r x s).admins = s.admins := rfl
@[simp] theorem setCq_keys (f r : Nat) (x : OutRing) (s : State) : (setCq f r x s).keys = s.keys := rfl
@[simp] theorem setCq_enpin (f r : Nat) (x : OutRing) (s : State) : (setCq f r x s).enpin = s.enpin := rfl
@[simp] theorem setCq_shapers (f r : Nat) (x : OutRing) (s : State) : (setCq f r x s).shapers = s.shapers := rfl
@[simp] theorem setCq_wall (f r : Nat) (x : OutRing) (s : State) : (setCq f r x s).wall = s.wall := rfl
@[simp] theorem setCq_coll (f r : Nat) (x : OutRing) (s : State) : (setCq f r x s).coll = s.coll := rfl
@[simp] theorem setCq_compute (f r : Nat) (x : OutRing) (s : State) : (setCq f r x s).compute = s.compute := rfl
@[simp] theorem setCq_mig (f r : Nat) (x : OutRing) (s : State) : (setCq f r x s).mig = s.mig := rfl
@[simp] theorem setCq_pools (f r : Nat) (x : OutRing) (s : State) : (setCq f r x s).pools = s.pools := rfl
@[simp] theorem setCq_cut (f r : Nat) (x : OutRing) (s : State) : (setCq f r x s).cut = s.cut := rfl
@[simp] theorem setCq_eth (f r : Nat) (x : OutRing) (s : State) : (setCq f r x s).eth = s.eth := rfl
@[simp] theorem setCq_host (f r : Nat) (x : OutRing) (s : State) : (setCq f r x s).host = s.host := rfl
@[simp] theorem setCq_sec (f r : Nat) (x : OutRing) (s : State) : (setCq f r x s).sec = s.sec := rfl
@[simp] theorem setCq_power (f r : Nat) (x : OutRing) (s : State) : (setCq f r x s).power = s.power := rfl
@[simp] theorem setCq_ledger (f r : Nat) (x : OutRing) (s : State) : (setCq f r x s).ledger = s.ledger := rfl
@[simp] theorem setCq_board (f r : Nat) (x : OutRing) (s : State) : (setCq f r x s).board = s.board := rfl

@[simp] theorem modCq_pending (f r : Nat) (g : OutRing → OutRing) (s : State) : (modCq f r g s).pending = s.pending := rfl
@[simp] theorem modCq_part (f r : Nat) (g : OutRing → OutRing) (s : State) : (modCq f r g s).part = s.part := rfl
@[simp] theorem modCq_now (f r : Nat) (g : OutRing → OutRing) (s : State) : (modCq f r g s).now = s.now := rfl
@[simp] theorem modCq_free (f r : Nat) (g : OutRing → OutRing) (s : State) : (modCq f r g s).free = s.free := rfl
@[simp] theorem modCq_out (f r : Nat) (g : OutRing → OutRing) (s : State) : (modCq f r g s).out = s.out := rfl
@[simp] theorem modCq_mems (f r : Nat) (g : OutRing → OutRing) (s : State) : (modCq f r g s).mems = s.mems := rfl
@[simp] theorem modCq_admins (f r : Nat) (g : OutRing → OutRing) (s : State) : (modCq f r g s).admins = s.admins := rfl
@[simp] theorem modCq_keys (f r : Nat) (g : OutRing → OutRing) (s : State) : (modCq f r g s).keys = s.keys := rfl
@[simp] theorem modCq_enpin (f r : Nat) (g : OutRing → OutRing) (s : State) : (modCq f r g s).enpin = s.enpin := rfl
@[simp] theorem modCq_shapers (f r : Nat) (g : OutRing → OutRing) (s : State) : (modCq f r g s).shapers = s.shapers := rfl
@[simp] theorem modCq_wall (f r : Nat) (g : OutRing → OutRing) (s : State) : (modCq f r g s).wall = s.wall := rfl
@[simp] theorem modCq_coll (f r : Nat) (g : OutRing → OutRing) (s : State) : (modCq f r g s).coll = s.coll := rfl
@[simp] theorem modCq_compute (f r : Nat) (g : OutRing → OutRing) (s : State) : (modCq f r g s).compute = s.compute := rfl
@[simp] theorem modCq_mig (f r : Nat) (g : OutRing → OutRing) (s : State) : (modCq f r g s).mig = s.mig := rfl
@[simp] theorem modCq_pools (f r : Nat) (g : OutRing → OutRing) (s : State) : (modCq f r g s).pools = s.pools := rfl
@[simp] theorem modCq_cut (f r : Nat) (g : OutRing → OutRing) (s : State) : (modCq f r g s).cut = s.cut := rfl
@[simp] theorem modCq_eth (f r : Nat) (g : OutRing → OutRing) (s : State) : (modCq f r g s).eth = s.eth := rfl
@[simp] theorem modCq_host (f r : Nat) (g : OutRing → OutRing) (s : State) : (modCq f r g s).host = s.host := rfl
@[simp] theorem modCq_sec (f r : Nat) (g : OutRing → OutRing) (s : State) : (modCq f r g s).sec = s.sec := rfl
@[simp] theorem modCq_power (f r : Nat) (g : OutRing → OutRing) (s : State) : (modCq f r g s).power = s.power := rfl
@[simp] theorem modCq_ledger (f r : Nat) (g : OutRing → OutRing) (s : State) : (modCq f r g s).ledger = s.ledger := rfl
@[simp] theorem modCq_board (f r : Nat) (g : OutRing → OutRing) (s : State) : (modCq f r g s).board = s.board := rfl

@[simp] theorem setCore_pending (c : Nat) (x : Core) (s : State) : (setCore c x s).pending = s.pending := rfl
@[simp] theorem setCore_part (c : Nat) (x : Core) (s : State) : (setCore c x s).part = s.part := rfl
@[simp] theorem setCore_now (c : Nat) (x : Core) (s : State) : (setCore c x s).now = s.now := rfl
@[simp] theorem setCore_free (c : Nat) (x : Core) (s : State) : (setCore c x s).free = s.free := rfl
@[simp] theorem setCore_out (c : Nat) (x : Core) (s : State) : (setCore c x s).out = s.out := rfl
@[simp] theorem setCore_mems (c : Nat) (x : Core) (s : State) : (setCore c x s).mems = s.mems := rfl
@[simp] theorem setCore_fns (c : Nat) (x : Core) (s : State) : (setCore c x s).fns = s.fns := rfl
@[simp] theorem setCore_admins (c : Nat) (x : Core) (s : State) : (setCore c x s).admins = s.admins := rfl
@[simp] theorem setCore_keys (c : Nat) (x : Core) (s : State) : (setCore c x s).keys = s.keys := rfl
@[simp] theorem setCore_enpin (c : Nat) (x : Core) (s : State) : (setCore c x s).enpin = s.enpin := rfl
@[simp] theorem setCore_shapers (c : Nat) (x : Core) (s : State) : (setCore c x s).shapers = s.shapers := rfl
@[simp] theorem setCore_wall (c : Nat) (x : Core) (s : State) : (setCore c x s).wall = s.wall := rfl
@[simp] theorem setCore_coll (c : Nat) (x : Core) (s : State) : (setCore c x s).coll = s.coll := rfl
@[simp] theorem setCore_mig (c : Nat) (x : Core) (s : State) : (setCore c x s).mig = s.mig := rfl
@[simp] theorem setCore_pools (c : Nat) (x : Core) (s : State) : (setCore c x s).pools = s.pools := rfl
@[simp] theorem setCore_cut (c : Nat) (x : Core) (s : State) : (setCore c x s).cut = s.cut := rfl
@[simp] theorem setCore_eth (c : Nat) (x : Core) (s : State) : (setCore c x s).eth = s.eth := rfl
@[simp] theorem setCore_host (c : Nat) (x : Core) (s : State) : (setCore c x s).host = s.host := rfl
@[simp] theorem setCore_sec (c : Nat) (x : Core) (s : State) : (setCore c x s).sec = s.sec := rfl
@[simp] theorem setCore_power (c : Nat) (x : Core) (s : State) : (setCore c x s).power = s.power := rfl
@[simp] theorem setCore_ledger (c : Nat) (x : Core) (s : State) : (setCore c x s).ledger = s.ledger := rfl
@[simp] theorem setCore_board (c : Nat) (x : Core) (s : State) : (setCore c x s).board = s.board := rfl

@[simp] theorem modCore_pending (c : Nat) (g : Core → Core) (s : State) : (modCore c g s).pending = s.pending := rfl
@[simp] theorem modCore_part (c : Nat) (g : Core → Core) (s : State) : (modCore c g s).part = s.part := rfl
@[simp] theorem modCore_now (c : Nat) (g : Core → Core) (s : State) : (modCore c g s).now = s.now := rfl
@[simp] theorem modCore_free (c : Nat) (g : Core → Core) (s : State) : (modCore c g s).free = s.free := rfl
@[simp] theorem modCore_out (c : Nat) (g : Core → Core) (s : State) : (modCore c g s).out = s.out := rfl
@[simp] theorem modCore_mems (c : Nat) (g : Core → Core) (s : State) : (modCore c g s).mems = s.mems := rfl
@[simp] theorem modCore_fns (c : Nat) (g : Core → Core) (s : State) : (modCore c g s).fns = s.fns := rfl
@[simp] theorem modCore_admins (c : Nat) (g : Core → Core) (s : State) : (modCore c g s).admins = s.admins := rfl
@[simp] theorem modCore_keys (c : Nat) (g : Core → Core) (s : State) : (modCore c g s).keys = s.keys := rfl
@[simp] theorem modCore_enpin (c : Nat) (g : Core → Core) (s : State) : (modCore c g s).enpin = s.enpin := rfl
@[simp] theorem modCore_shapers (c : Nat) (g : Core → Core) (s : State) : (modCore c g s).shapers = s.shapers := rfl
@[simp] theorem modCore_wall (c : Nat) (g : Core → Core) (s : State) : (modCore c g s).wall = s.wall := rfl
@[simp] theorem modCore_coll (c : Nat) (g : Core → Core) (s : State) : (modCore c g s).coll = s.coll := rfl
@[simp] theorem modCore_mig (c : Nat) (g : Core → Core) (s : State) : (modCore c g s).mig = s.mig := rfl
@[simp] theorem modCore_pools (c : Nat) (g : Core → Core) (s : State) : (modCore c g s).pools = s.pools := rfl
@[simp] theorem modCore_cut (c : Nat) (g : Core → Core) (s : State) : (modCore c g s).cut = s.cut := rfl
@[simp] theorem modCore_eth (c : Nat) (g : Core → Core) (s : State) : (modCore c g s).eth = s.eth := rfl
@[simp] theorem modCore_host (c : Nat) (g : Core → Core) (s : State) : (modCore c g s).host = s.host := rfl
@[simp] theorem modCore_sec (c : Nat) (g : Core → Core) (s : State) : (modCore c g s).sec = s.sec := rfl
@[simp] theorem modCore_power (c : Nat) (g : Core → Core) (s : State) : (modCore c g s).power = s.power := rfl
@[simp] theorem modCore_ledger (c : Nat) (g : Core → Core) (s : State) : (modCore c g s).ledger = s.ledger := rfl
@[simp] theorem modCore_board (c : Nat) (g : Core → Core) (s : State) : (modCore c g s).board = s.board := rfl

@[simp] theorem setCtx_pending (p : W32) (c : Ctx) (s : State) : (setCtx p c s).pending = s.pending := rfl
@[simp] theorem setCtx_part (p : W32) (c : Ctx) (s : State) : (setCtx p c s).part = s.part := rfl
@[simp] theorem setCtx_now (p : W32) (c : Ctx) (s : State) : (setCtx p c s).now = s.now := rfl
@[simp] theorem setCtx_free (p : W32) (c : Ctx) (s : State) : (setCtx p c s).free = s.free := rfl
@[simp] theorem setCtx_out (p : W32) (c : Ctx) (s : State) : (setCtx p c s).out = s.out := rfl
@[simp] theorem setCtx_mems (p : W32) (c : Ctx) (s : State) : (setCtx p c s).mems = s.mems := rfl
@[simp] theorem setCtx_fns (p : W32) (c : Ctx) (s : State) : (setCtx p c s).fns = s.fns := rfl
@[simp] theorem setCtx_admins (p : W32) (c : Ctx) (s : State) : (setCtx p c s).admins = s.admins := rfl
@[simp] theorem setCtx_keys (p : W32) (c : Ctx) (s : State) : (setCtx p c s).keys = s.keys := rfl
@[simp] theorem setCtx_shapers (p : W32) (c : Ctx) (s : State) : (setCtx p c s).shapers = s.shapers := rfl
@[simp] theorem setCtx_wall (p : W32) (c : Ctx) (s : State) : (setCtx p c s).wall = s.wall := rfl
@[simp] theorem setCtx_coll (p : W32) (c : Ctx) (s : State) : (setCtx p c s).coll = s.coll := rfl
@[simp] theorem setCtx_compute (p : W32) (c : Ctx) (s : State) : (setCtx p c s).compute = s.compute := rfl
@[simp] theorem setCtx_mig (p : W32) (c : Ctx) (s : State) : (setCtx p c s).mig = s.mig := rfl
@[simp] theorem setCtx_pools (p : W32) (c : Ctx) (s : State) : (setCtx p c s).pools = s.pools := rfl
@[simp] theorem setCtx_cut (p : W32) (c : Ctx) (s : State) : (setCtx p c s).cut = s.cut := rfl
@[simp] theorem setCtx_eth (p : W32) (c : Ctx) (s : State) : (setCtx p c s).eth = s.eth := rfl
@[simp] theorem setCtx_host (p : W32) (c : Ctx) (s : State) : (setCtx p c s).host = s.host := rfl
@[simp] theorem setCtx_sec (p : W32) (c : Ctx) (s : State) : (setCtx p c s).sec = s.sec := rfl
@[simp] theorem setCtx_power (p : W32) (c : Ctx) (s : State) : (setCtx p c s).power = s.power := rfl
@[simp] theorem setCtx_ledger (p : W32) (c : Ctx) (s : State) : (setCtx p c s).ledger = s.ledger := rfl
@[simp] theorem setCtx_board (p : W32) (c : Ctx) (s : State) : (setCtx p c s).board = s.board := rfl

@[simp] theorem modCtx_pending (p : W32) (g : Ctx → Ctx) (s : State) : (modCtx p g s).pending = s.pending := by
  unfold modCtx; split <;> rfl
@[simp] theorem modCtx_part (p : W32) (g : Ctx → Ctx) (s : State) : (modCtx p g s).part = s.part := by
  unfold modCtx; split <;> rfl
@[simp] theorem modCtx_now (p : W32) (g : Ctx → Ctx) (s : State) : (modCtx p g s).now = s.now := by
  unfold modCtx; split <;> rfl
@[simp] theorem modCtx_free (p : W32) (g : Ctx → Ctx) (s : State) : (modCtx p g s).free = s.free := by
  unfold modCtx; split <;> rfl
@[simp] theorem modCtx_out (p : W32) (g : Ctx → Ctx) (s : State) : (modCtx p g s).out = s.out := by
  unfold modCtx; split <;> rfl
@[simp] theorem modCtx_mems (p : W32) (g : Ctx → Ctx) (s : State) : (modCtx p g s).mems = s.mems := by
  unfold modCtx; split <;> rfl
@[simp] theorem modCtx_fns (p : W32) (g : Ctx → Ctx) (s : State) : (modCtx p g s).fns = s.fns := by
  unfold modCtx; split <;> rfl
@[simp] theorem modCtx_admins (p : W32) (g : Ctx → Ctx) (s : State) : (modCtx p g s).admins = s.admins := by
  unfold modCtx; split <;> rfl
@[simp] theorem modCtx_keys (p : W32) (g : Ctx → Ctx) (s : State) : (modCtx p g s).keys = s.keys := by
  unfold modCtx; split <;> rfl
@[simp] theorem modCtx_shapers (p : W32) (g : Ctx → Ctx) (s : State) : (modCtx p g s).shapers = s.shapers := by
  unfold modCtx; split <;> rfl
@[simp] theorem modCtx_wall (p : W32) (g : Ctx → Ctx) (s : State) : (modCtx p g s).wall = s.wall := by
  unfold modCtx; split <;> rfl
@[simp] theorem modCtx_coll (p : W32) (g : Ctx → Ctx) (s : State) : (modCtx p g s).coll = s.coll := by
  unfold modCtx; split <;> rfl
@[simp] theorem modCtx_compute (p : W32) (g : Ctx → Ctx) (s : State) : (modCtx p g s).compute = s.compute := by
  unfold modCtx; split <;> rfl
@[simp] theorem modCtx_mig (p : W32) (g : Ctx → Ctx) (s : State) : (modCtx p g s).mig = s.mig := by
  unfold modCtx; split <;> rfl
@[simp] theorem modCtx_pools (p : W32) (g : Ctx → Ctx) (s : State) : (modCtx p g s).pools = s.pools := by
  unfold modCtx; split <;> rfl
@[simp] theorem modCtx_cut (p : W32) (g : Ctx → Ctx) (s : State) : (modCtx p g s).cut = s.cut := by
  unfold modCtx; split <;> rfl
@[simp] theorem modCtx_eth (p : W32) (g : Ctx → Ctx) (s : State) : (modCtx p g s).eth = s.eth := by
  unfold modCtx; split <;> rfl
@[simp] theorem modCtx_host (p : W32) (g : Ctx → Ctx) (s : State) : (modCtx p g s).host = s.host := by
  unfold modCtx; split <;> rfl
@[simp] theorem modCtx_sec (p : W32) (g : Ctx → Ctx) (s : State) : (modCtx p g s).sec = s.sec := by
  unfold modCtx; split <;> rfl
@[simp] theorem modCtx_power (p : W32) (g : Ctx → Ctx) (s : State) : (modCtx p g s).power = s.power := by
  unfold modCtx; split <;> rfl
@[simp] theorem modCtx_ledger (p : W32) (g : Ctx → Ctx) (s : State) : (modCtx p g s).ledger = s.ledger := by
  unfold modCtx; split <;> rfl
@[simp] theorem modCtx_board (p : W32) (g : Ctx → Ctx) (s : State) : (modCtx p g s).board = s.board := by
  unfold modCtx; split <;> rfl

@[simp] theorem setLink_pending (l : Nat) (x : Link) (s : State) : (setLink l x s).pending = s.pending := rfl
@[simp] theorem setLink_part (l : Nat) (x : Link) (s : State) : (setLink l x s).part = s.part := rfl
@[simp] theorem setLink_now (l : Nat) (x : Link) (s : State) : (setLink l x s).now = s.now := rfl
@[simp] theorem setLink_free (l : Nat) (x : Link) (s : State) : (setLink l x s).free = s.free := rfl
@[simp] theorem setLink_out (l : Nat) (x : Link) (s : State) : (setLink l x s).out = s.out := rfl
@[simp] theorem setLink_mems (l : Nat) (x : Link) (s : State) : (setLink l x s).mems = s.mems := rfl
@[simp] theorem setLink_fns (l : Nat) (x : Link) (s : State) : (setLink l x s).fns = s.fns := rfl
@[simp] theorem setLink_admins (l : Nat) (x : Link) (s : State) : (setLink l x s).admins = s.admins := rfl
@[simp] theorem setLink_keys (l : Nat) (x : Link) (s : State) : (setLink l x s).keys = s.keys := rfl
@[simp] theorem setLink_enpin (l : Nat) (x : Link) (s : State) : (setLink l x s).enpin = s.enpin := rfl
@[simp] theorem setLink_shapers (l : Nat) (x : Link) (s : State) : (setLink l x s).shapers = s.shapers := rfl
@[simp] theorem setLink_coll (l : Nat) (x : Link) (s : State) : (setLink l x s).coll = s.coll := rfl
@[simp] theorem setLink_compute (l : Nat) (x : Link) (s : State) : (setLink l x s).compute = s.compute := rfl
@[simp] theorem setLink_mig (l : Nat) (x : Link) (s : State) : (setLink l x s).mig = s.mig := rfl
@[simp] theorem setLink_pools (l : Nat) (x : Link) (s : State) : (setLink l x s).pools = s.pools := rfl
@[simp] theorem setLink_cut (l : Nat) (x : Link) (s : State) : (setLink l x s).cut = s.cut := rfl
@[simp] theorem setLink_eth (l : Nat) (x : Link) (s : State) : (setLink l x s).eth = s.eth := rfl
@[simp] theorem setLink_host (l : Nat) (x : Link) (s : State) : (setLink l x s).host = s.host := rfl
@[simp] theorem setLink_sec (l : Nat) (x : Link) (s : State) : (setLink l x s).sec = s.sec := rfl
@[simp] theorem setLink_power (l : Nat) (x : Link) (s : State) : (setLink l x s).power = s.power := rfl
@[simp] theorem setLink_ledger (l : Nat) (x : Link) (s : State) : (setLink l x s).ledger = s.ledger := rfl
@[simp] theorem setLink_board (l : Nat) (x : Link) (s : State) : (setLink l x s).board = s.board := rfl

@[simp] theorem modLink_pending (l : Nat) (g : Link → Link) (s : State) : (modLink l g s).pending = s.pending := rfl
@[simp] theorem modLink_part (l : Nat) (g : Link → Link) (s : State) : (modLink l g s).part = s.part := rfl
@[simp] theorem modLink_now (l : Nat) (g : Link → Link) (s : State) : (modLink l g s).now = s.now := rfl
@[simp] theorem modLink_free (l : Nat) (g : Link → Link) (s : State) : (modLink l g s).free = s.free := rfl
@[simp] theorem modLink_out (l : Nat) (g : Link → Link) (s : State) : (modLink l g s).out = s.out := rfl
@[simp] theorem modLink_mems (l : Nat) (g : Link → Link) (s : State) : (modLink l g s).mems = s.mems := rfl
@[simp] theorem modLink_fns (l : Nat) (g : Link → Link) (s : State) : (modLink l g s).fns = s.fns := rfl
@[simp] theorem modLink_admins (l : Nat) (g : Link → Link) (s : State) : (modLink l g s).admins = s.admins := rfl
@[simp] theorem modLink_keys (l : Nat) (g : Link → Link) (s : State) : (modLink l g s).keys = s.keys := rfl
@[simp] theorem modLink_enpin (l : Nat) (g : Link → Link) (s : State) : (modLink l g s).enpin = s.enpin := rfl
@[simp] theorem modLink_shapers (l : Nat) (g : Link → Link) (s : State) : (modLink l g s).shapers = s.shapers := rfl
@[simp] theorem modLink_coll (l : Nat) (g : Link → Link) (s : State) : (modLink l g s).coll = s.coll := rfl
@[simp] theorem modLink_compute (l : Nat) (g : Link → Link) (s : State) : (modLink l g s).compute = s.compute := rfl
@[simp] theorem modLink_mig (l : Nat) (g : Link → Link) (s : State) : (modLink l g s).mig = s.mig := rfl
@[simp] theorem modLink_pools (l : Nat) (g : Link → Link) (s : State) : (modLink l g s).pools = s.pools := rfl
@[simp] theorem modLink_cut (l : Nat) (g : Link → Link) (s : State) : (modLink l g s).cut = s.cut := rfl
@[simp] theorem modLink_eth (l : Nat) (g : Link → Link) (s : State) : (modLink l g s).eth = s.eth := rfl
@[simp] theorem modLink_host (l : Nat) (g : Link → Link) (s : State) : (modLink l g s).host = s.host := rfl
@[simp] theorem modLink_sec (l : Nat) (g : Link → Link) (s : State) : (modLink l g s).sec = s.sec := rfl
@[simp] theorem modLink_power (l : Nat) (g : Link → Link) (s : State) : (modLink l g s).power = s.power := rfl
@[simp] theorem modLink_ledger (l : Nat) (g : Link → Link) (s : State) : (modLink l g s).ledger = s.ledger := rfl
@[simp] theorem modLink_board (l : Nat) (g : Link → Link) (s : State) : (modLink l g s).board = s.board := rfl

@[simp] theorem setPort_pending (p : Nat) (x : Port) (s : State) : (setPort p x s).pending = s.pending := rfl
@[simp] theorem setPort_part (p : Nat) (x : Port) (s : State) : (setPort p x s).part = s.part := rfl
@[simp] theorem setPort_now (p : Nat) (x : Port) (s : State) : (setPort p x s).now = s.now := rfl
@[simp] theorem setPort_free (p : Nat) (x : Port) (s : State) : (setPort p x s).free = s.free := rfl
@[simp] theorem setPort_out (p : Nat) (x : Port) (s : State) : (setPort p x s).out = s.out := rfl
@[simp] theorem setPort_mems (p : Nat) (x : Port) (s : State) : (setPort p x s).mems = s.mems := rfl
@[simp] theorem setPort_fns (p : Nat) (x : Port) (s : State) : (setPort p x s).fns = s.fns := rfl
@[simp] theorem setPort_admins (p : Nat) (x : Port) (s : State) : (setPort p x s).admins = s.admins := rfl
@[simp] theorem setPort_keys (p : Nat) (x : Port) (s : State) : (setPort p x s).keys = s.keys := rfl
@[simp] theorem setPort_enpin (p : Nat) (x : Port) (s : State) : (setPort p x s).enpin = s.enpin := rfl
@[simp] theorem setPort_shapers (p : Nat) (x : Port) (s : State) : (setPort p x s).shapers = s.shapers := rfl
@[simp] theorem setPort_wall (p : Nat) (x : Port) (s : State) : (setPort p x s).wall = s.wall := rfl
@[simp] theorem setPort_coll (p : Nat) (x : Port) (s : State) : (setPort p x s).coll = s.coll := rfl
@[simp] theorem setPort_compute (p : Nat) (x : Port) (s : State) : (setPort p x s).compute = s.compute := rfl
@[simp] theorem setPort_mig (p : Nat) (x : Port) (s : State) : (setPort p x s).mig = s.mig := rfl
@[simp] theorem setPort_pools (p : Nat) (x : Port) (s : State) : (setPort p x s).pools = s.pools := rfl
@[simp] theorem setPort_cut (p : Nat) (x : Port) (s : State) : (setPort p x s).cut = s.cut := rfl
@[simp] theorem setPort_host (p : Nat) (x : Port) (s : State) : (setPort p x s).host = s.host := rfl
@[simp] theorem setPort_sec (p : Nat) (x : Port) (s : State) : (setPort p x s).sec = s.sec := rfl
@[simp] theorem setPort_power (p : Nat) (x : Port) (s : State) : (setPort p x s).power = s.power := rfl
@[simp] theorem setPort_ledger (p : Nat) (x : Port) (s : State) : (setPort p x s).ledger = s.ledger := rfl
@[simp] theorem setPort_board (p : Nat) (x : Port) (s : State) : (setPort p x s).board = s.board := rfl

@[simp] theorem modPort_pending (p : Nat) (g : Port → Port) (s : State) : (modPort p g s).pending = s.pending := rfl
@[simp] theorem modPort_part (p : Nat) (g : Port → Port) (s : State) : (modPort p g s).part = s.part := rfl
@[simp] theorem modPort_now (p : Nat) (g : Port → Port) (s : State) : (modPort p g s).now = s.now := rfl
@[simp] theorem modPort_free (p : Nat) (g : Port → Port) (s : State) : (modPort p g s).free = s.free := rfl
@[simp] theorem modPort_out (p : Nat) (g : Port → Port) (s : State) : (modPort p g s).out = s.out := rfl
@[simp] theorem modPort_mems (p : Nat) (g : Port → Port) (s : State) : (modPort p g s).mems = s.mems := rfl
@[simp] theorem modPort_fns (p : Nat) (g : Port → Port) (s : State) : (modPort p g s).fns = s.fns := rfl
@[simp] theorem modPort_admins (p : Nat) (g : Port → Port) (s : State) : (modPort p g s).admins = s.admins := rfl
@[simp] theorem modPort_keys (p : Nat) (g : Port → Port) (s : State) : (modPort p g s).keys = s.keys := rfl
@[simp] theorem modPort_enpin (p : Nat) (g : Port → Port) (s : State) : (modPort p g s).enpin = s.enpin := rfl
@[simp] theorem modPort_shapers (p : Nat) (g : Port → Port) (s : State) : (modPort p g s).shapers = s.shapers := rfl
@[simp] theorem modPort_wall (p : Nat) (g : Port → Port) (s : State) : (modPort p g s).wall = s.wall := rfl
@[simp] theorem modPort_coll (p : Nat) (g : Port → Port) (s : State) : (modPort p g s).coll = s.coll := rfl
@[simp] theorem modPort_compute (p : Nat) (g : Port → Port) (s : State) : (modPort p g s).compute = s.compute := rfl
@[simp] theorem modPort_mig (p : Nat) (g : Port → Port) (s : State) : (modPort p g s).mig = s.mig := rfl
@[simp] theorem modPort_pools (p : Nat) (g : Port → Port) (s : State) : (modPort p g s).pools = s.pools := rfl
@[simp] theorem modPort_cut (p : Nat) (g : Port → Port) (s : State) : (modPort p g s).cut = s.cut := rfl
@[simp] theorem modPort_host (p : Nat) (g : Port → Port) (s : State) : (modPort p g s).host = s.host := rfl
@[simp] theorem modPort_sec (p : Nat) (g : Port → Port) (s : State) : (modPort p g s).sec = s.sec := rfl
@[simp] theorem modPort_power (p : Nat) (g : Port → Port) (s : State) : (modPort p g s).power = s.power := rfl
@[simp] theorem modPort_ledger (p : Nat) (g : Port → Port) (s : State) : (modPort p g s).ledger = s.ledger := rfl
@[simp] theorem modPort_board (p : Nat) (g : Port → Port) (s : State) : (modPort p g s).board = s.board := rfl

@[simp] theorem modDie_pending (d : Nat) (g : Die → Die) (s : State) : (modDie d g s).pending = s.pending := rfl
@[simp] theorem modDie_part (d : Nat) (g : Die → Die) (s : State) : (modDie d g s).part = s.part := rfl
@[simp] theorem modDie_now (d : Nat) (g : Die → Die) (s : State) : (modDie d g s).now = s.now := rfl
@[simp] theorem modDie_free (d : Nat) (g : Die → Die) (s : State) : (modDie d g s).free = s.free := rfl
@[simp] theorem modDie_out (d : Nat) (g : Die → Die) (s : State) : (modDie d g s).out = s.out := rfl
@[simp] theorem modDie_mems (d : Nat) (g : Die → Die) (s : State) : (modDie d g s).mems = s.mems := rfl
@[simp] theorem modDie_fns (d : Nat) (g : Die → Die) (s : State) : (modDie d g s).fns = s.fns := rfl
@[simp] theorem modDie_admins (d : Nat) (g : Die → Die) (s : State) : (modDie d g s).admins = s.admins := rfl
@[simp] theorem modDie_keys (d : Nat) (g : Die → Die) (s : State) : (modDie d g s).keys = s.keys := rfl
@[simp] theorem modDie_enpin (d : Nat) (g : Die → Die) (s : State) : (modDie d g s).enpin = s.enpin := rfl
@[simp] theorem modDie_shapers (d : Nat) (g : Die → Die) (s : State) : (modDie d g s).shapers = s.shapers := rfl
@[simp] theorem modDie_wall (d : Nat) (g : Die → Die) (s : State) : (modDie d g s).wall = s.wall := rfl
@[simp] theorem modDie_coll (d : Nat) (g : Die → Die) (s : State) : (modDie d g s).coll = s.coll := rfl
@[simp] theorem modDie_compute (d : Nat) (g : Die → Die) (s : State) : (modDie d g s).compute = s.compute := rfl
@[simp] theorem modDie_mig (d : Nat) (g : Die → Die) (s : State) : (modDie d g s).mig = s.mig := rfl
@[simp] theorem modDie_pools (d : Nat) (g : Die → Die) (s : State) : (modDie d g s).pools = s.pools := rfl
@[simp] theorem modDie_cut (d : Nat) (g : Die → Die) (s : State) : (modDie d g s).cut = s.cut := rfl
@[simp] theorem modDie_eth (d : Nat) (g : Die → Die) (s : State) : (modDie d g s).eth = s.eth := rfl
@[simp] theorem modDie_host (d : Nat) (g : Die → Die) (s : State) : (modDie d g s).host = s.host := rfl
@[simp] theorem modDie_sec (d : Nat) (g : Die → Die) (s : State) : (modDie d g s).sec = s.sec := rfl
@[simp] theorem modDie_ledger (d : Nat) (g : Die → Die) (s : State) : (modDie d g s).ledger = s.ledger := rfl
@[simp] theorem modDie_board (d : Nat) (g : Die → Die) (s : State) : (modDie d g s).board = s.board := rfl

@[simp] theorem setKey_pending (i : Nat) (e : KeyEntry) (s : State) : (setKey i e s).pending = s.pending := rfl
@[simp] theorem setKey_part (i : Nat) (e : KeyEntry) (s : State) : (setKey i e s).part = s.part := rfl
@[simp] theorem setKey_now (i : Nat) (e : KeyEntry) (s : State) : (setKey i e s).now = s.now := rfl
@[simp] theorem setKey_free (i : Nat) (e : KeyEntry) (s : State) : (setKey i e s).free = s.free := rfl
@[simp] theorem setKey_out (i : Nat) (e : KeyEntry) (s : State) : (setKey i e s).out = s.out := rfl
@[simp] theorem setKey_mems (i : Nat) (e : KeyEntry) (s : State) : (setKey i e s).mems = s.mems := rfl
@[simp] theorem setKey_fns (i : Nat) (e : KeyEntry) (s : State) : (setKey i e s).fns = s.fns := rfl
@[simp] theorem setKey_admins (i : Nat) (e : KeyEntry) (s : State) : (setKey i e s).admins = s.admins := rfl
@[simp] theorem setKey_enpin (i : Nat) (e : KeyEntry) (s : State) : (setKey i e s).enpin = s.enpin := rfl
@[simp] theorem setKey_shapers (i : Nat) (e : KeyEntry) (s : State) : (setKey i e s).shapers = s.shapers := rfl
@[simp] theorem setKey_wall (i : Nat) (e : KeyEntry) (s : State) : (setKey i e s).wall = s.wall := rfl
@[simp] theorem setKey_coll (i : Nat) (e : KeyEntry) (s : State) : (setKey i e s).coll = s.coll := rfl
@[simp] theorem setKey_compute (i : Nat) (e : KeyEntry) (s : State) : (setKey i e s).compute = s.compute := rfl
@[simp] theorem setKey_mig (i : Nat) (e : KeyEntry) (s : State) : (setKey i e s).mig = s.mig := rfl
@[simp] theorem setKey_pools (i : Nat) (e : KeyEntry) (s : State) : (setKey i e s).pools = s.pools := rfl
@[simp] theorem setKey_cut (i : Nat) (e : KeyEntry) (s : State) : (setKey i e s).cut = s.cut := rfl
@[simp] theorem setKey_eth (i : Nat) (e : KeyEntry) (s : State) : (setKey i e s).eth = s.eth := rfl
@[simp] theorem setKey_host (i : Nat) (e : KeyEntry) (s : State) : (setKey i e s).host = s.host := rfl
@[simp] theorem setKey_sec (i : Nat) (e : KeyEntry) (s : State) : (setKey i e s).sec = s.sec := rfl
@[simp] theorem setKey_power (i : Nat) (e : KeyEntry) (s : State) : (setKey i e s).power = s.power := rfl
@[simp] theorem setKey_ledger (i : Nat) (e : KeyEntry) (s : State) : (setKey i e s).ledger = s.ledger := rfl
@[simp] theorem setKey_board (i : Nat) (e : KeyEntry) (s : State) : (setKey i e s).board = s.board := rfl

@[simp] theorem modSeg_pending (f g : Nat) (h : Segment → Segment) (s : State) : (modSeg f g h s).pending = s.pending := rfl
@[simp] theorem modSeg_part (f g : Nat) (h : Segment → Segment) (s : State) : (modSeg f g h s).part = s.part := rfl
@[simp] theorem modSeg_now (f g : Nat) (h : Segment → Segment) (s : State) : (modSeg f g h s).now = s.now := rfl
@[simp] theorem modSeg_free (f g : Nat) (h : Segment → Segment) (s : State) : (modSeg f g h s).free = s.free := rfl
@[simp] theorem modSeg_out (f g : Nat) (h : Segment → Segment) (s : State) : (modSeg f g h s).out = s.out := rfl
@[simp] theorem modSeg_mems (f g : Nat) (h : Segment → Segment) (s : State) : (modSeg f g h s).mems = s.mems := rfl
@[simp] theorem modSeg_admins (f g : Nat) (h : Segment → Segment) (s : State) : (modSeg f g h s).admins = s.admins := rfl
@[simp] theorem modSeg_keys (f g : Nat) (h : Segment → Segment) (s : State) : (modSeg f g h s).keys = s.keys := rfl
@[simp] theorem modSeg_enpin (f g : Nat) (h : Segment → Segment) (s : State) : (modSeg f g h s).enpin = s.enpin := rfl
@[simp] theorem modSeg_shapers (f g : Nat) (h : Segment → Segment) (s : State) : (modSeg f g h s).shapers = s.shapers := rfl
@[simp] theorem modSeg_wall (f g : Nat) (h : Segment → Segment) (s : State) : (modSeg f g h s).wall = s.wall := rfl
@[simp] theorem modSeg_coll (f g : Nat) (h : Segment → Segment) (s : State) : (modSeg f g h s).coll = s.coll := rfl
@[simp] theorem modSeg_compute (f g : Nat) (h : Segment → Segment) (s : State) : (modSeg f g h s).compute = s.compute := rfl
@[simp] theorem modSeg_mig (f g : Nat) (h : Segment → Segment) (s : State) : (modSeg f g h s).mig = s.mig := rfl
@[simp] theorem modSeg_pools (f g : Nat) (h : Segment → Segment) (s : State) : (modSeg f g h s).pools = s.pools := rfl
@[simp] theorem modSeg_cut (f g : Nat) (h : Segment → Segment) (s : State) : (modSeg f g h s).cut = s.cut := rfl
@[simp] theorem modSeg_eth (f g : Nat) (h : Segment → Segment) (s : State) : (modSeg f g h s).eth = s.eth := rfl
@[simp] theorem modSeg_host (f g : Nat) (h : Segment → Segment) (s : State) : (modSeg f g h s).host = s.host := rfl
@[simp] theorem modSeg_sec (f g : Nat) (h : Segment → Segment) (s : State) : (modSeg f g h s).sec = s.sec := rfl
@[simp] theorem modSeg_power (f g : Nat) (h : Segment → Segment) (s : State) : (modSeg f g h s).power = s.power := rfl
@[simp] theorem modSeg_ledger (f g : Nat) (h : Segment → Segment) (s : State) : (modSeg f g h s).ledger = s.ledger := rfl
@[simp] theorem modSeg_board (f g : Nat) (h : Segment → Segment) (s : State) : (modSeg f g h s).board = s.board := rfl

@[simp] theorem modPage_pending (f g p : Nat) (h : Page → Page) (s : State) : (modPage f g p h s).pending = s.pending := rfl
@[simp] theorem modPage_part (f g p : Nat) (h : Page → Page) (s : State) : (modPage f g p h s).part = s.part := rfl
@[simp] theorem modPage_now (f g p : Nat) (h : Page → Page) (s : State) : (modPage f g p h s).now = s.now := rfl
@[simp] theorem modPage_free (f g p : Nat) (h : Page → Page) (s : State) : (modPage f g p h s).free = s.free := rfl
@[simp] theorem modPage_out (f g p : Nat) (h : Page → Page) (s : State) : (modPage f g p h s).out = s.out := rfl
@[simp] theorem modPage_mems (f g p : Nat) (h : Page → Page) (s : State) : (modPage f g p h s).mems = s.mems := rfl
@[simp] theorem modPage_admins (f g p : Nat) (h : Page → Page) (s : State) : (modPage f g p h s).admins = s.admins := rfl
@[simp] theorem modPage_keys (f g p : Nat) (h : Page → Page) (s : State) : (modPage f g p h s).keys = s.keys := rfl
@[simp] theorem modPage_enpin (f g p : Nat) (h : Page → Page) (s : State) : (modPage f g p h s).enpin = s.enpin := rfl
@[simp] theorem modPage_shapers (f g p : Nat) (h : Page → Page) (s : State) : (modPage f g p h s).shapers = s.shapers := rfl
@[simp] theorem modPage_wall (f g p : Nat) (h : Page → Page) (s : State) : (modPage f g p h s).wall = s.wall := rfl
@[simp] theorem modPage_coll (f g p : Nat) (h : Page → Page) (s : State) : (modPage f g p h s).coll = s.coll := rfl
@[simp] theorem modPage_compute (f g p : Nat) (h : Page → Page) (s : State) : (modPage f g p h s).compute = s.compute := rfl
@[simp] theorem modPage_mig (f g p : Nat) (h : Page → Page) (s : State) : (modPage f g p h s).mig = s.mig := rfl
@[simp] theorem modPage_pools (f g p : Nat) (h : Page → Page) (s : State) : (modPage f g p h s).pools = s.pools := rfl
@[simp] theorem modPage_cut (f g p : Nat) (h : Page → Page) (s : State) : (modPage f g p h s).cut = s.cut := rfl
@[simp] theorem modPage_eth (f g p : Nat) (h : Page → Page) (s : State) : (modPage f g p h s).eth = s.eth := rfl
@[simp] theorem modPage_host (f g p : Nat) (h : Page → Page) (s : State) : (modPage f g p h s).host = s.host := rfl
@[simp] theorem modPage_sec (f g p : Nat) (h : Page → Page) (s : State) : (modPage f g p h s).sec = s.sec := rfl
@[simp] theorem modPage_power (f g p : Nat) (h : Page → Page) (s : State) : (modPage f g p h s).power = s.power := rfl
@[simp] theorem modPage_ledger (f g p : Nat) (h : Page → Page) (s : State) : (modPage f g p h s).ledger = s.ledger := rfl
@[simp] theorem modPage_board (f g p : Nat) (h : Page → Page) (s : State) : (modPage f g p h s).board = s.board := rfl

@[simp] theorem outEmit_pending (o : Output) (s : State) : (outEmit o s).pending = s.pending := rfl
@[simp] theorem outEmit_part (o : Output) (s : State) : (outEmit o s).part = s.part := rfl
@[simp] theorem outEmit_now (o : Output) (s : State) : (outEmit o s).now = s.now := rfl
@[simp] theorem outEmit_free (o : Output) (s : State) : (outEmit o s).free = s.free := rfl
@[simp] theorem outEmit_mems (o : Output) (s : State) : (outEmit o s).mems = s.mems := rfl
@[simp] theorem outEmit_fns (o : Output) (s : State) : (outEmit o s).fns = s.fns := rfl
@[simp] theorem outEmit_admins (o : Output) (s : State) : (outEmit o s).admins = s.admins := rfl
@[simp] theorem outEmit_keys (o : Output) (s : State) : (outEmit o s).keys = s.keys := rfl
@[simp] theorem outEmit_enpin (o : Output) (s : State) : (outEmit o s).enpin = s.enpin := rfl
@[simp] theorem outEmit_shapers (o : Output) (s : State) : (outEmit o s).shapers = s.shapers := rfl
@[simp] theorem outEmit_wall (o : Output) (s : State) : (outEmit o s).wall = s.wall := rfl
@[simp] theorem outEmit_coll (o : Output) (s : State) : (outEmit o s).coll = s.coll := rfl
@[simp] theorem outEmit_compute (o : Output) (s : State) : (outEmit o s).compute = s.compute := rfl
@[simp] theorem outEmit_mig (o : Output) (s : State) : (outEmit o s).mig = s.mig := rfl
@[simp] theorem outEmit_pools (o : Output) (s : State) : (outEmit o s).pools = s.pools := rfl
@[simp] theorem outEmit_cut (o : Output) (s : State) : (outEmit o s).cut = s.cut := rfl
@[simp] theorem outEmit_eth (o : Output) (s : State) : (outEmit o s).eth = s.eth := rfl
@[simp] theorem outEmit_host (o : Output) (s : State) : (outEmit o s).host = s.host := rfl
@[simp] theorem outEmit_sec (o : Output) (s : State) : (outEmit o s).sec = s.sec := rfl
@[simp] theorem outEmit_power (o : Output) (s : State) : (outEmit o s).power = s.power := rfl
@[simp] theorem outEmit_ledger (o : Output) (s : State) : (outEmit o s).ledger = s.ledger := rfl
@[simp] theorem outEmit_board (o : Output) (s : State) : (outEmit o s).board = s.board := rfl

@[simp] theorem advanceTo_pending (t : Nat) (s : State) : (advanceTo t s).pending = s.pending := rfl
@[simp] theorem advanceTo_part (t : Nat) (s : State) : (advanceTo t s).part = s.part := rfl
@[simp] theorem advanceTo_free (t : Nat) (s : State) : (advanceTo t s).free = s.free := rfl
@[simp] theorem advanceTo_out (t : Nat) (s : State) : (advanceTo t s).out = s.out := rfl
@[simp] theorem advanceTo_mems (t : Nat) (s : State) : (advanceTo t s).mems = s.mems := rfl
@[simp] theorem advanceTo_fns (t : Nat) (s : State) : (advanceTo t s).fns = s.fns := rfl
@[simp] theorem advanceTo_admins (t : Nat) (s : State) : (advanceTo t s).admins = s.admins := rfl
@[simp] theorem advanceTo_keys (t : Nat) (s : State) : (advanceTo t s).keys = s.keys := rfl
@[simp] theorem advanceTo_enpin (t : Nat) (s : State) : (advanceTo t s).enpin = s.enpin := rfl
@[simp] theorem advanceTo_shapers (t : Nat) (s : State) : (advanceTo t s).shapers = s.shapers := rfl
@[simp] theorem advanceTo_wall (t : Nat) (s : State) : (advanceTo t s).wall = s.wall := rfl
@[simp] theorem advanceTo_coll (t : Nat) (s : State) : (advanceTo t s).coll = s.coll := rfl
@[simp] theorem advanceTo_compute (t : Nat) (s : State) : (advanceTo t s).compute = s.compute := rfl
@[simp] theorem advanceTo_mig (t : Nat) (s : State) : (advanceTo t s).mig = s.mig := rfl
@[simp] theorem advanceTo_pools (t : Nat) (s : State) : (advanceTo t s).pools = s.pools := rfl
@[simp] theorem advanceTo_cut (t : Nat) (s : State) : (advanceTo t s).cut = s.cut := rfl
@[simp] theorem advanceTo_eth (t : Nat) (s : State) : (advanceTo t s).eth = s.eth := rfl
@[simp] theorem advanceTo_host (t : Nat) (s : State) : (advanceTo t s).host = s.host := rfl
@[simp] theorem advanceTo_sec (t : Nat) (s : State) : (advanceTo t s).sec = s.sec := rfl
@[simp] theorem advanceTo_power (t : Nat) (s : State) : (advanceTo t s).power = s.power := rfl
@[simp] theorem advanceTo_ledger (t : Nat) (s : State) : (advanceTo t s).ledger = s.ledger := rfl
@[simp] theorem advanceTo_board (t : Nat) (s : State) : (advanceTo t s).board = s.board := rfl

@[simp] theorem drawn_pending (s : State) : (drawn s).pending = s.pending := rfl
@[simp] theorem drawn_part (s : State) : (drawn s).part = s.part := rfl
@[simp] theorem drawn_now (s : State) : (drawn s).now = s.now := rfl
@[simp] theorem drawn_out (s : State) : (drawn s).out = s.out := rfl
@[simp] theorem drawn_mems (s : State) : (drawn s).mems = s.mems := rfl
@[simp] theorem drawn_fns (s : State) : (drawn s).fns = s.fns := rfl
@[simp] theorem drawn_admins (s : State) : (drawn s).admins = s.admins := rfl
@[simp] theorem drawn_keys (s : State) : (drawn s).keys = s.keys := rfl
@[simp] theorem drawn_enpin (s : State) : (drawn s).enpin = s.enpin := rfl
@[simp] theorem drawn_shapers (s : State) : (drawn s).shapers = s.shapers := rfl
@[simp] theorem drawn_wall (s : State) : (drawn s).wall = s.wall := rfl
@[simp] theorem drawn_coll (s : State) : (drawn s).coll = s.coll := rfl
@[simp] theorem drawn_compute (s : State) : (drawn s).compute = s.compute := rfl
@[simp] theorem drawn_mig (s : State) : (drawn s).mig = s.mig := rfl
@[simp] theorem drawn_pools (s : State) : (drawn s).pools = s.pools := rfl
@[simp] theorem drawn_cut (s : State) : (drawn s).cut = s.cut := rfl
@[simp] theorem drawn_eth (s : State) : (drawn s).eth = s.eth := rfl
@[simp] theorem drawn_host (s : State) : (drawn s).host = s.host := rfl
@[simp] theorem drawn_sec (s : State) : (drawn s).sec = s.sec := rfl
@[simp] theorem drawn_power (s : State) : (drawn s).power = s.power := rfl
@[simp] theorem drawn_ledger (s : State) : (drawn s).ledger = s.ledger := rfl
@[simp] theorem drawn_board (s : State) : (drawn s).board = s.board := rfl

@[simp] theorem noteChange_pending (i j : Nat) (s : State) : (noteChange i j s).pending = s.pending := by
  unfold noteChange; split <;> rfl
@[simp] theorem noteChange_part (i j : Nat) (s : State) : (noteChange i j s).part = s.part := by
  unfold noteChange; split <;> rfl
@[simp] theorem noteChange_now (i j : Nat) (s : State) : (noteChange i j s).now = s.now := by
  unfold noteChange; split <;> rfl
@[simp] theorem noteChange_free (i j : Nat) (s : State) : (noteChange i j s).free = s.free := by
  unfold noteChange; split <;> rfl
@[simp] theorem noteChange_out (i j : Nat) (s : State) : (noteChange i j s).out = s.out := by
  unfold noteChange; split <;> rfl
@[simp] theorem noteChange_mems (i j : Nat) (s : State) : (noteChange i j s).mems = s.mems := by
  unfold noteChange; split <;> rfl
@[simp] theorem noteChange_fns (i j : Nat) (s : State) : (noteChange i j s).fns = s.fns := by
  unfold noteChange; split <;> rfl
@[simp] theorem noteChange_admins (i j : Nat) (s : State) : (noteChange i j s).admins = s.admins := by
  unfold noteChange; split <;> rfl
@[simp] theorem noteChange_keys (i j : Nat) (s : State) : (noteChange i j s).keys = s.keys := by
  unfold noteChange; split <;> rfl
@[simp] theorem noteChange_enpin (i j : Nat) (s : State) : (noteChange i j s).enpin = s.enpin := by
  unfold noteChange; split <;> rfl
@[simp] theorem noteChange_shapers (i j : Nat) (s : State) : (noteChange i j s).shapers = s.shapers := by
  unfold noteChange; split <;> rfl
@[simp] theorem noteChange_wall (i j : Nat) (s : State) : (noteChange i j s).wall = s.wall := by
  unfold noteChange; split <;> rfl
@[simp] theorem noteChange_coll (i j : Nat) (s : State) : (noteChange i j s).coll = s.coll := by
  unfold noteChange; split <;> rfl
@[simp] theorem noteChange_compute (i j : Nat) (s : State) : (noteChange i j s).compute = s.compute := by
  unfold noteChange; split <;> rfl
@[simp] theorem noteChange_mig (i j : Nat) (s : State) : (noteChange i j s).mig = s.mig := by
  unfold noteChange; split <;> rfl
@[simp] theorem noteChange_pools (i j : Nat) (s : State) : (noteChange i j s).pools = s.pools := by
  unfold noteChange; split <;> rfl
@[simp] theorem noteChange_cut (i j : Nat) (s : State) : (noteChange i j s).cut = s.cut := by
  unfold noteChange; split <;> rfl
@[simp] theorem noteChange_eth (i j : Nat) (s : State) : (noteChange i j s).eth = s.eth := by
  unfold noteChange; split <;> rfl
@[simp] theorem noteChange_host (i j : Nat) (s : State) : (noteChange i j s).host = s.host := by
  unfold noteChange; split <;> rfl
@[simp] theorem noteChange_sec (i j : Nat) (s : State) : (noteChange i j s).sec = s.sec := by
  unfold noteChange; split <;> rfl
@[simp] theorem noteChange_power (i j : Nat) (s : State) : (noteChange i j s).power = s.power := by
  unfold noteChange; split <;> rfl
@[simp] theorem noteChange_board (i j : Nat) (s : State) : (noteChange i j s).board = s.board := by
  unfold noteChange; split <;> rfl

@[simp] theorem ledPut_pending (i j : Nat) (v : Bytes) (s : State) : (ledPut i j v s).pending = s.pending := rfl
@[simp] theorem ledPut_part (i j : Nat) (v : Bytes) (s : State) : (ledPut i j v s).part = s.part := rfl
@[simp] theorem ledPut_now (i j : Nat) (v : Bytes) (s : State) : (ledPut i j v s).now = s.now := rfl
@[simp] theorem ledPut_free (i j : Nat) (v : Bytes) (s : State) : (ledPut i j v s).free = s.free := rfl
@[simp] theorem ledPut_out (i j : Nat) (v : Bytes) (s : State) : (ledPut i j v s).out = s.out := rfl
@[simp] theorem ledPut_mems (i j : Nat) (v : Bytes) (s : State) : (ledPut i j v s).mems = s.mems := rfl
@[simp] theorem ledPut_fns (i j : Nat) (v : Bytes) (s : State) : (ledPut i j v s).fns = s.fns := rfl
@[simp] theorem ledPut_admins (i j : Nat) (v : Bytes) (s : State) : (ledPut i j v s).admins = s.admins := rfl
@[simp] theorem ledPut_keys (i j : Nat) (v : Bytes) (s : State) : (ledPut i j v s).keys = s.keys := rfl
@[simp] theorem ledPut_enpin (i j : Nat) (v : Bytes) (s : State) : (ledPut i j v s).enpin = s.enpin := rfl
@[simp] theorem ledPut_shapers (i j : Nat) (v : Bytes) (s : State) : (ledPut i j v s).shapers = s.shapers := rfl
@[simp] theorem ledPut_wall (i j : Nat) (v : Bytes) (s : State) : (ledPut i j v s).wall = s.wall := rfl
@[simp] theorem ledPut_coll (i j : Nat) (v : Bytes) (s : State) : (ledPut i j v s).coll = s.coll := rfl
@[simp] theorem ledPut_compute (i j : Nat) (v : Bytes) (s : State) : (ledPut i j v s).compute = s.compute := rfl
@[simp] theorem ledPut_mig (i j : Nat) (v : Bytes) (s : State) : (ledPut i j v s).mig = s.mig := rfl
@[simp] theorem ledPut_pools (i j : Nat) (v : Bytes) (s : State) : (ledPut i j v s).pools = s.pools := rfl
@[simp] theorem ledPut_cut (i j : Nat) (v : Bytes) (s : State) : (ledPut i j v s).cut = s.cut := rfl
@[simp] theorem ledPut_eth (i j : Nat) (v : Bytes) (s : State) : (ledPut i j v s).eth = s.eth := rfl
@[simp] theorem ledPut_host (i j : Nat) (v : Bytes) (s : State) : (ledPut i j v s).host = s.host := rfl
@[simp] theorem ledPut_sec (i j : Nat) (v : Bytes) (s : State) : (ledPut i j v s).sec = s.sec := rfl
@[simp] theorem ledPut_power (i j : Nat) (v : Bytes) (s : State) : (ledPut i j v s).power = s.power := rfl
@[simp] theorem ledPut_board (i j : Nat) (v : Bytes) (s : State) : (ledPut i j v s).board = s.board := rfl

@[simp] theorem ledCommit_pending (i j : Nat) (v : Bytes) (s : State) : (ledCommit i j v s).pending = s.pending := rfl
@[simp] theorem ledCommit_part (i j : Nat) (v : Bytes) (s : State) : (ledCommit i j v s).part = s.part := rfl
@[simp] theorem ledCommit_now (i j : Nat) (v : Bytes) (s : State) : (ledCommit i j v s).now = s.now := rfl
@[simp] theorem ledCommit_free (i j : Nat) (v : Bytes) (s : State) : (ledCommit i j v s).free = s.free := rfl
@[simp] theorem ledCommit_out (i j : Nat) (v : Bytes) (s : State) : (ledCommit i j v s).out = s.out := rfl
@[simp] theorem ledCommit_mems (i j : Nat) (v : Bytes) (s : State) : (ledCommit i j v s).mems = s.mems := rfl
@[simp] theorem ledCommit_fns (i j : Nat) (v : Bytes) (s : State) : (ledCommit i j v s).fns = s.fns := rfl
@[simp] theorem ledCommit_admins (i j : Nat) (v : Bytes) (s : State) : (ledCommit i j v s).admins = s.admins := rfl
@[simp] theorem ledCommit_keys (i j : Nat) (v : Bytes) (s : State) : (ledCommit i j v s).keys = s.keys := rfl
@[simp] theorem ledCommit_enpin (i j : Nat) (v : Bytes) (s : State) : (ledCommit i j v s).enpin = s.enpin := rfl
@[simp] theorem ledCommit_shapers (i j : Nat) (v : Bytes) (s : State) : (ledCommit i j v s).shapers = s.shapers := rfl
@[simp] theorem ledCommit_wall (i j : Nat) (v : Bytes) (s : State) : (ledCommit i j v s).wall = s.wall := rfl
@[simp] theorem ledCommit_coll (i j : Nat) (v : Bytes) (s : State) : (ledCommit i j v s).coll = s.coll := rfl
@[simp] theorem ledCommit_compute (i j : Nat) (v : Bytes) (s : State) : (ledCommit i j v s).compute = s.compute := rfl
@[simp] theorem ledCommit_mig (i j : Nat) (v : Bytes) (s : State) : (ledCommit i j v s).mig = s.mig := rfl
@[simp] theorem ledCommit_pools (i j : Nat) (v : Bytes) (s : State) : (ledCommit i j v s).pools = s.pools := rfl
@[simp] theorem ledCommit_cut (i j : Nat) (v : Bytes) (s : State) : (ledCommit i j v s).cut = s.cut := rfl
@[simp] theorem ledCommit_eth (i j : Nat) (v : Bytes) (s : State) : (ledCommit i j v s).eth = s.eth := rfl
@[simp] theorem ledCommit_host (i j : Nat) (v : Bytes) (s : State) : (ledCommit i j v s).host = s.host := rfl
@[simp] theorem ledCommit_sec (i j : Nat) (v : Bytes) (s : State) : (ledCommit i j v s).sec = s.sec := rfl
@[simp] theorem ledCommit_power (i j : Nat) (v : Bytes) (s : State) : (ledCommit i j v s).power = s.power := rfl
@[simp] theorem ledCommit_board (i j : Nat) (v : Bytes) (s : State) : (ledCommit i j v s).board = s.board := rfl

@[simp] theorem bump_pending (i j n : Nat) (s : State) : (bump i j n s).pending = s.pending := rfl
@[simp] theorem bump_part (i j n : Nat) (s : State) : (bump i j n s).part = s.part := rfl
@[simp] theorem bump_now (i j n : Nat) (s : State) : (bump i j n s).now = s.now := rfl
@[simp] theorem bump_free (i j n : Nat) (s : State) : (bump i j n s).free = s.free := rfl
@[simp] theorem bump_out (i j n : Nat) (s : State) : (bump i j n s).out = s.out := rfl
@[simp] theorem bump_mems (i j n : Nat) (s : State) : (bump i j n s).mems = s.mems := rfl
@[simp] theorem bump_fns (i j n : Nat) (s : State) : (bump i j n s).fns = s.fns := rfl
@[simp] theorem bump_admins (i j n : Nat) (s : State) : (bump i j n s).admins = s.admins := rfl
@[simp] theorem bump_keys (i j n : Nat) (s : State) : (bump i j n s).keys = s.keys := rfl
@[simp] theorem bump_enpin (i j n : Nat) (s : State) : (bump i j n s).enpin = s.enpin := rfl
@[simp] theorem bump_shapers (i j n : Nat) (s : State) : (bump i j n s).shapers = s.shapers := rfl
@[simp] theorem bump_wall (i j n : Nat) (s : State) : (bump i j n s).wall = s.wall := rfl
@[simp] theorem bump_coll (i j n : Nat) (s : State) : (bump i j n s).coll = s.coll := rfl
@[simp] theorem bump_compute (i j n : Nat) (s : State) : (bump i j n s).compute = s.compute := rfl
@[simp] theorem bump_mig (i j n : Nat) (s : State) : (bump i j n s).mig = s.mig := rfl
@[simp] theorem bump_pools (i j n : Nat) (s : State) : (bump i j n s).pools = s.pools := rfl
@[simp] theorem bump_cut (i j n : Nat) (s : State) : (bump i j n s).cut = s.cut := rfl
@[simp] theorem bump_eth (i j n : Nat) (s : State) : (bump i j n s).eth = s.eth := rfl
@[simp] theorem bump_host (i j n : Nat) (s : State) : (bump i j n s).host = s.host := rfl
@[simp] theorem bump_sec (i j n : Nat) (s : State) : (bump i j n s).sec = s.sec := rfl
@[simp] theorem bump_power (i j n : Nat) (s : State) : (bump i j n s).power = s.power := rfl
@[simp] theorem bump_board (i j n : Nat) (s : State) : (bump i j n s).board = s.board := rfl

@[simp] theorem memSet_pending (m : MemId) (x : Memory) (s : State) : (memSet m x s).pending = s.pending := by
  cases m <;> rfl
@[simp] theorem memSet_part (m : MemId) (x : Memory) (s : State) : (memSet m x s).part = s.part := by
  cases m <;> rfl
@[simp] theorem memSet_now (m : MemId) (x : Memory) (s : State) : (memSet m x s).now = s.now := by
  cases m <;> rfl
@[simp] theorem memSet_free (m : MemId) (x : Memory) (s : State) : (memSet m x s).free = s.free := by
  cases m <;> rfl
@[simp] theorem memSet_out (m : MemId) (x : Memory) (s : State) : (memSet m x s).out = s.out := by
  cases m <;> rfl
@[simp] theorem memSet_fns (m : MemId) (x : Memory) (s : State) : (memSet m x s).fns = s.fns := by
  cases m <;> rfl
@[simp] theorem memSet_admins (m : MemId) (x : Memory) (s : State) : (memSet m x s).admins = s.admins := by
  cases m <;> rfl
@[simp] theorem memSet_keys (m : MemId) (x : Memory) (s : State) : (memSet m x s).keys = s.keys := by
  cases m <;> rfl
@[simp] theorem memSet_enpin (m : MemId) (x : Memory) (s : State) : (memSet m x s).enpin = s.enpin := by
  cases m <;> rfl
@[simp] theorem memSet_shapers (m : MemId) (x : Memory) (s : State) : (memSet m x s).shapers = s.shapers := by
  cases m <;> rfl
@[simp] theorem memSet_wall (m : MemId) (x : Memory) (s : State) : (memSet m x s).wall = s.wall := by
  cases m <;> rfl
@[simp] theorem memSet_coll (m : MemId) (x : Memory) (s : State) : (memSet m x s).coll = s.coll := by
  cases m <;> rfl
@[simp] theorem memSet_compute (m : MemId) (x : Memory) (s : State) : (memSet m x s).compute = s.compute := by
  cases m <;> rfl
@[simp] theorem memSet_mig (m : MemId) (x : Memory) (s : State) : (memSet m x s).mig = s.mig := by
  cases m <;> rfl
@[simp] theorem memSet_pools (m : MemId) (x : Memory) (s : State) : (memSet m x s).pools = s.pools := by
  cases m <;> rfl
@[simp] theorem memSet_cut (m : MemId) (x : Memory) (s : State) : (memSet m x s).cut = s.cut := by
  cases m <;> rfl
@[simp] theorem memSet_eth (m : MemId) (x : Memory) (s : State) : (memSet m x s).eth = s.eth := by
  cases m <;> rfl
@[simp] theorem memSet_host (m : MemId) (x : Memory) (s : State) : (memSet m x s).host = s.host := by
  cases m <;> rfl
@[simp] theorem memSet_sec (m : MemId) (x : Memory) (s : State) : (memSet m x s).sec = s.sec := by
  cases m <;> rfl
@[simp] theorem memSet_power (m : MemId) (x : Memory) (s : State) : (memSet m x s).power = s.power := by
  cases m <;> rfl
@[simp] theorem memSet_ledger (m : MemId) (x : Memory) (s : State) : (memSet m x s).ledger = s.ledger := by
  cases m <;> rfl
@[simp] theorem memSet_board (m : MemId) (x : Memory) (s : State) : (memSet m x s).board = s.board := by
  cases m <;> rfl

@[simp] theorem logFault_pending (a b c d : Nat) (s : State) : (logFault a b c d s).pending = s.pending := rfl
@[simp] theorem logFault_part (a b c d : Nat) (s : State) : (logFault a b c d s).part = s.part := rfl
@[simp] theorem logFault_now (a b c d : Nat) (s : State) : (logFault a b c d s).now = s.now := rfl
@[simp] theorem logFault_free (a b c d : Nat) (s : State) : (logFault a b c d s).free = s.free := rfl
@[simp] theorem logFault_out (a b c d : Nat) (s : State) : (logFault a b c d s).out = s.out := rfl
@[simp] theorem logFault_mems (a b c d : Nat) (s : State) : (logFault a b c d s).mems = s.mems := rfl
@[simp] theorem logFault_fns (a b c d : Nat) (s : State) : (logFault a b c d s).fns = s.fns := rfl
@[simp] theorem logFault_admins (a b c d : Nat) (s : State) : (logFault a b c d s).admins = s.admins := rfl
@[simp] theorem logFault_keys (a b c d : Nat) (s : State) : (logFault a b c d s).keys = s.keys := rfl
@[simp] theorem logFault_enpin (a b c d : Nat) (s : State) : (logFault a b c d s).enpin = s.enpin := rfl
@[simp] theorem logFault_shapers (a b c d : Nat) (s : State) : (logFault a b c d s).shapers = s.shapers := rfl
@[simp] theorem logFault_wall (a b c d : Nat) (s : State) : (logFault a b c d s).wall = s.wall := rfl
@[simp] theorem logFault_coll (a b c d : Nat) (s : State) : (logFault a b c d s).coll = s.coll := rfl
@[simp] theorem logFault_compute (a b c d : Nat) (s : State) : (logFault a b c d s).compute = s.compute := rfl
@[simp] theorem logFault_mig (a b c d : Nat) (s : State) : (logFault a b c d s).mig = s.mig := rfl
@[simp] theorem logFault_pools (a b c d : Nat) (s : State) : (logFault a b c d s).pools = s.pools := rfl
@[simp] theorem logFault_cut (a b c d : Nat) (s : State) : (logFault a b c d s).cut = s.cut := rfl
@[simp] theorem logFault_eth (a b c d : Nat) (s : State) : (logFault a b c d s).eth = s.eth := rfl
@[simp] theorem logFault_host (a b c d : Nat) (s : State) : (logFault a b c d s).host = s.host := rfl
@[simp] theorem logFault_sec (a b c d : Nat) (s : State) : (logFault a b c d s).sec = s.sec := rfl
@[simp] theorem logFault_power (a b c d : Nat) (s : State) : (logFault a b c d s).power = s.power := rfl
@[simp] theorem logFault_ledger (a b c d : Nat) (s : State) : (logFault a b c d s).ledger = s.ledger := rfl

/-! ## Setters and the readers that they leave alone -/

@[simp] theorem coreOf_setFn (f : Nat) (x : Fn) (a1 : Nat) (s : State) : coreOf (setFn f x s) a1 = coreOf s a1 := rfl
@[simp] theorem ctxOf_setFn (f : Nat) (x : Fn) (a1 : W32) (s : State) : ctxOf (setFn f x s) a1 = ctxOf s a1 := rfl
@[simp] theorem linkOf_setFn (f : Nat) (x : Fn) (a1 : Nat) (s : State) : linkOf (setFn f x s) a1 = linkOf s a1 := rfl
@[simp] theorem portOf_setFn (f : Nat) (x : Fn) (a1 : Nat) (s : State) : portOf (setFn f x s) a1 = portOf s a1 := rfl
@[simp] theorem dieOf_setFn (f : Nat) (x : Fn) (a1 : Nat) (s : State) : dieOf (setFn f x s) a1 = dieOf s a1 := rfl
@[simp] theorem keyOf_setFn (f : Nat) (x : Fn) (a1 : Nat) (s : State) : keyOf (setFn f x s) a1 = keyOf s a1 := rfl
@[simp] theorem ledN_setFn (f : Nat) (x : Fn) (a1 b1 : Nat) (s : State) : ledN (setFn f x s) a1 b1 = ledN s a1 b1 := rfl
@[simp] theorem memGet_setFn (f : Nat) (x : Fn) (a1 : MemId) (s : State) : memGet a1 (setFn f x s) = memGet a1 s := rfl
@[simp] theorem ownId_setFn (f : Nat) (x : Fn) (s : State) : ownId (setFn f x s) = ownId s := rfl
@[simp] theorem isReady_setFn (f : Nat) (x : Fn) (s : State) : isReady (setFn f x s) = isReady s := rfl
@[simp] theorem isFatal_setFn (f : Nat) (x : Fn) (s : State) : isFatal (setFn f x s) = isFatal s := rfl
@[simp] theorem hostOk_setFn (f : Nat) (x : Fn) (s : State) : hostOk (setFn f x s) = hostOk s := rfl

@[simp] theorem coreOf_modFn (f : Nat) (g : Fn → Fn) (a1 : Nat) (s : State) : coreOf (modFn f g s) a1 = coreOf s a1 := rfl
@[simp] theorem ctxOf_modFn (f : Nat) (g : Fn → Fn) (a1 : W32) (s : State) : ctxOf (modFn f g s) a1 = ctxOf s a1 := rfl
@[simp] theorem linkOf_modFn (f : Nat) (g : Fn → Fn) (a1 : Nat) (s : State) : linkOf (modFn f g s) a1 = linkOf s a1 := rfl
@[simp] theorem portOf_modFn (f : Nat) (g : Fn → Fn) (a1 : Nat) (s : State) : portOf (modFn f g s) a1 = portOf s a1 := rfl
@[simp] theorem dieOf_modFn (f : Nat) (g : Fn → Fn) (a1 : Nat) (s : State) : dieOf (modFn f g s) a1 = dieOf s a1 := rfl
@[simp] theorem keyOf_modFn (f : Nat) (g : Fn → Fn) (a1 : Nat) (s : State) : keyOf (modFn f g s) a1 = keyOf s a1 := rfl
@[simp] theorem ledN_modFn (f : Nat) (g : Fn → Fn) (a1 b1 : Nat) (s : State) : ledN (modFn f g s) a1 b1 = ledN s a1 b1 := rfl
@[simp] theorem memGet_modFn (f : Nat) (g : Fn → Fn) (a1 : MemId) (s : State) : memGet a1 (modFn f g s) = memGet a1 s := rfl
@[simp] theorem ownId_modFn (f : Nat) (g : Fn → Fn) (s : State) : ownId (modFn f g s) = ownId s := rfl
@[simp] theorem isReady_modFn (f : Nat) (g : Fn → Fn) (s : State) : isReady (modFn f g s) = isReady s := rfl
@[simp] theorem isFatal_modFn (f : Nat) (g : Fn → Fn) (s : State) : isFatal (modFn f g s) = isFatal s := rfl
@[simp] theorem hostOk_modFn (f : Nat) (g : Fn → Fn) (s : State) : hostOk (modFn f g s) = hostOk s := rfl

@[simp] theorem coreOf_setQueue (q : QRef) (x : Queue) (a1 : Nat) (s : State) : coreOf (setQueue q x s) a1 = coreOf s a1 := by
  unfold setQueue; split <;> rfl
@[simp] theorem ctxOf_setQueue (q : QRef) (x : Queue) (a1 : W32) (s : State) : ctxOf (setQueue q x s) a1 = ctxOf s a1 := by
  unfold setQueue; split <;> rfl
@[simp] theorem linkOf_setQueue (q : QRef) (x : Queue) (a1 : Nat) (s : State) : linkOf (setQueue q x s) a1 = linkOf s a1 := by
  unfold setQueue; split <;> rfl
@[simp] theorem portOf_setQueue (q : QRef) (x : Queue) (a1 : Nat) (s : State) : portOf (setQueue q x s) a1 = portOf s a1 := by
  unfold setQueue; split <;> rfl
@[simp] theorem dieOf_setQueue (q : QRef) (x : Queue) (a1 : Nat) (s : State) : dieOf (setQueue q x s) a1 = dieOf s a1 := by
  unfold setQueue; split <;> rfl
@[simp] theorem keyOf_setQueue (q : QRef) (x : Queue) (a1 : Nat) (s : State) : keyOf (setQueue q x s) a1 = keyOf s a1 := by
  unfold setQueue; split <;> rfl
@[simp] theorem ledN_setQueue (q : QRef) (x : Queue) (a1 b1 : Nat) (s : State) : ledN (setQueue q x s) a1 b1 = ledN s a1 b1 := by
  unfold setQueue; split <;> rfl
@[simp] theorem memGet_setQueue (q : QRef) (x : Queue) (a1 : MemId) (s : State) : memGet a1 (setQueue q x s) = memGet a1 s := by
  unfold setQueue; split <;> rfl
@[simp] theorem ownId_setQueue (q : QRef) (x : Queue) (s : State) : ownId (setQueue q x s) = ownId s := by
  unfold setQueue; split <;> rfl
@[simp] theorem isReady_setQueue (q : QRef) (x : Queue) (s : State) : isReady (setQueue q x s) = isReady s := by
  unfold setQueue; split <;> rfl
@[simp] theorem isFatal_setQueue (q : QRef) (x : Queue) (s : State) : isFatal (setQueue q x s) = isFatal s := by
  unfold setQueue; split <;> rfl
@[simp] theorem hostOk_setQueue (q : QRef) (x : Queue) (s : State) : hostOk (setQueue q x s) = hostOk s := by
  unfold setQueue; split <;> rfl

@[simp] theorem coreOf_modQueue (q : QRef) (g : Queue → Queue) (a1 : Nat) (s : State) : coreOf (modQueue q g s) a1 = coreOf s a1 := coreOf_setQueue _ _ _ s
@[simp] theorem ctxOf_modQueue (q : QRef) (g : Queue → Queue) (a1 : W32) (s : State) : ctxOf (modQueue q g s) a1 = ctxOf s a1 := ctxOf_setQueue _ _ _ s
@[simp] theorem linkOf_modQueue (q : QRef) (g : Queue → Queue) (a1 : Nat) (s : State) : linkOf (modQueue q g s) a1 = linkOf s a1 := linkOf_setQueue _ _ _ s
@[simp] theorem portOf_modQueue (q : QRef) (g : Queue → Queue) (a1 : Nat) (s : State) : portOf (modQueue q g s) a1 = portOf s a1 := portOf_setQueue _ _ _ s
@[simp] theorem dieOf_modQueue (q : QRef) (g : Queue → Queue) (a1 : Nat) (s : State) : dieOf (modQueue q g s) a1 = dieOf s a1 := dieOf_setQueue _ _ _ s
@[simp] theorem keyOf_modQueue (q : QRef) (g : Queue → Queue) (a1 : Nat) (s : State) : keyOf (modQueue q g s) a1 = keyOf s a1 := keyOf_setQueue _ _ _ s
@[simp] theorem ledN_modQueue (q : QRef) (g : Queue → Queue) (a1 b1 : Nat) (s : State) : ledN (modQueue q g s) a1 b1 = ledN s a1 b1 := ledN_setQueue _ _ _ _ s
@[simp] theorem memGet_modQueue (q : QRef) (g : Queue → Queue) (a1 : MemId) (s : State) : memGet a1 (modQueue q g s) = memGet a1 s := memGet_setQueue _ _ _ s
@[simp] theorem ownId_modQueue (q : QRef) (g : Queue → Queue) (s : State) : ownId (modQueue q g s) = ownId s := ownId_setQueue _ _ s
@[simp] theorem isReady_modQueue (q : QRef) (g : Queue → Queue) (s : State) : isReady (modQueue q g s) = isReady s := isReady_setQueue _ _ s
@[simp] theorem isFatal_modQueue (q : QRef) (g : Queue → Queue) (s : State) : isFatal (modQueue q g s) = isFatal s := isFatal_setQueue _ _ s
@[simp] theorem hostOk_modQueue (q : QRef) (g : Queue → Queue) (s : State) : hostOk (modQueue q g s) = hostOk s := hostOk_setQueue _ _ s

@[simp] theorem coreOf_setCq (f r : Nat) (x : OutRing) (a1 : Nat) (s : State) : coreOf (setCq f r x s) a1 = coreOf s a1 := rfl
@[simp] theorem ctxOf_setCq (f r : Nat) (x : OutRing) (a1 : W32) (s : State) : ctxOf (setCq f r x s) a1 = ctxOf s a1 := rfl
@[simp] theorem linkOf_setCq (f r : Nat) (x : OutRing) (a1 : Nat) (s : State) : linkOf (setCq f r x s) a1 = linkOf s a1 := rfl
@[simp] theorem portOf_setCq (f r : Nat) (x : OutRing) (a1 : Nat) (s : State) : portOf (setCq f r x s) a1 = portOf s a1 := rfl
@[simp] theorem dieOf_setCq (f r : Nat) (x : OutRing) (a1 : Nat) (s : State) : dieOf (setCq f r x s) a1 = dieOf s a1 := rfl
@[simp] theorem keyOf_setCq (f r : Nat) (x : OutRing) (a1 : Nat) (s : State) : keyOf (setCq f r x s) a1 = keyOf s a1 := rfl
@[simp] theorem ledN_setCq (f r : Nat) (x : OutRing) (a1 b1 : Nat) (s : State) : ledN (setCq f r x s) a1 b1 = ledN s a1 b1 := rfl
@[simp] theorem memGet_setCq (f r : Nat) (x : OutRing) (a1 : MemId) (s : State) : memGet a1 (setCq f r x s) = memGet a1 s := rfl
@[simp] theorem ownId_setCq (f r : Nat) (x : OutRing) (s : State) : ownId (setCq f r x s) = ownId s := rfl
@[simp] theorem isReady_setCq (f r : Nat) (x : OutRing) (s : State) : isReady (setCq f r x s) = isReady s := rfl
@[simp] theorem isFatal_setCq (f r : Nat) (x : OutRing) (s : State) : isFatal (setCq f r x s) = isFatal s := rfl
@[simp] theorem hostOk_setCq (f r : Nat) (x : OutRing) (s : State) : hostOk (setCq f r x s) = hostOk s := rfl

@[simp] theorem coreOf_modCq (f r : Nat) (g : OutRing → OutRing) (a1 : Nat) (s : State) : coreOf (modCq f r g s) a1 = coreOf s a1 := rfl
@[simp] theorem ctxOf_modCq (f r : Nat) (g : OutRing → OutRing) (a1 : W32) (s : State) : ctxOf (modCq f r g s) a1 = ctxOf s a1 := rfl
@[simp] theorem linkOf_modCq (f r : Nat) (g : OutRing → OutRing) (a1 : Nat) (s : State) : linkOf (modCq f r g s) a1 = linkOf s a1 := rfl
@[simp] theorem portOf_modCq (f r : Nat) (g : OutRing → OutRing) (a1 : Nat) (s : State) : portOf (modCq f r g s) a1 = portOf s a1 := rfl
@[simp] theorem dieOf_modCq (f r : Nat) (g : OutRing → OutRing) (a1 : Nat) (s : State) : dieOf (modCq f r g s) a1 = dieOf s a1 := rfl
@[simp] theorem keyOf_modCq (f r : Nat) (g : OutRing → OutRing) (a1 : Nat) (s : State) : keyOf (modCq f r g s) a1 = keyOf s a1 := rfl
@[simp] theorem ledN_modCq (f r : Nat) (g : OutRing → OutRing) (a1 b1 : Nat) (s : State) : ledN (modCq f r g s) a1 b1 = ledN s a1 b1 := rfl
@[simp] theorem memGet_modCq (f r : Nat) (g : OutRing → OutRing) (a1 : MemId) (s : State) : memGet a1 (modCq f r g s) = memGet a1 s := rfl
@[simp] theorem ownId_modCq (f r : Nat) (g : OutRing → OutRing) (s : State) : ownId (modCq f r g s) = ownId s := rfl
@[simp] theorem isReady_modCq (f r : Nat) (g : OutRing → OutRing) (s : State) : isReady (modCq f r g s) = isReady s := rfl
@[simp] theorem isFatal_modCq (f r : Nat) (g : OutRing → OutRing) (s : State) : isFatal (modCq f r g s) = isFatal s := rfl
@[simp] theorem hostOk_modCq (f r : Nat) (g : OutRing → OutRing) (s : State) : hostOk (modCq f r g s) = hostOk s := rfl

@[simp] theorem fnOf_setCore (c : Nat) (x : Core) (a1 : Nat) (s : State) : fnOf (setCore c x s) a1 = fnOf s a1 := rfl
@[simp] theorem queueOf_setCore (c : Nat) (x : Core) (a1 : QRef) (s : State) : queueOf (setCore c x s) a1 = queueOf s a1 := rfl
@[simp] theorem cqOf_setCore (c : Nat) (x : Core) (a1 b1 : Nat) (s : State) : cqOf (setCore c x s) a1 b1 = cqOf s a1 b1 := rfl
@[simp] theorem segOf_setCore (c : Nat) (x : Core) (a1 b1 : Nat) (s : State) : segOf (setCore c x s) a1 b1 = segOf s a1 b1 := rfl
@[simp] theorem pageOf_setCore (c : Nat) (x : Core) (a1 b1 c1 : Nat) (s : State) : pageOf (setCore c x s) a1 b1 c1 = pageOf s a1 b1 c1 := rfl
@[simp] theorem counterOf_setCore (c : Nat) (x : Core) (a1 b1 : Nat) (s : State) : counterOf (setCore c x s) a1 b1 = counterOf s a1 b1 := rfl
@[simp] theorem grantOf_setCore (c : Nat) (x : Core) (a1 : Nat) (s : State) : grantOf (setCore c x s) a1 = grantOf s a1 := rfl
@[simp] theorem ctxOf_setCore (c : Nat) (x : Core) (a1 : W32) (s : State) : ctxOf (setCore c x s) a1 = ctxOf s a1 := rfl
@[simp] theorem linkOf_setCore (c : Nat) (x : Core) (a1 : Nat) (s : State) : linkOf (setCore c x s) a1 = linkOf s a1 := rfl
@[simp] theorem portOf_setCore (c : Nat) (x : Core) (a1 : Nat) (s : State) : portOf (setCore c x s) a1 = portOf s a1 := rfl
@[simp] theorem dieOf_setCore (c : Nat) (x : Core) (a1 : Nat) (s : State) : dieOf (setCore c x s) a1 = dieOf s a1 := rfl
@[simp] theorem keyOf_setCore (c : Nat) (x : Core) (a1 : Nat) (s : State) : keyOf (setCore c x s) a1 = keyOf s a1 := rfl
@[simp] theorem ledN_setCore (c : Nat) (x : Core) (a1 b1 : Nat) (s : State) : ledN (setCore c x s) a1 b1 = ledN s a1 b1 := rfl
@[simp] theorem memGet_setCore (c : Nat) (x : Core) (a1 : MemId) (s : State) : memGet a1 (setCore c x s) = memGet a1 s := rfl
@[simp] theorem ownId_setCore (c : Nat) (x : Core) (s : State) : ownId (setCore c x s) = ownId s := rfl
@[simp] theorem isReady_setCore (c : Nat) (x : Core) (s : State) : isReady (setCore c x s) = isReady s := rfl
@[simp] theorem isFatal_setCore (c : Nat) (x : Core) (s : State) : isFatal (setCore c x s) = isFatal s := rfl
@[simp] theorem hostOk_setCore (c : Nat) (x : Core) (s : State) : hostOk (setCore c x s) = hostOk s := rfl

@[simp] theorem fnOf_modCore (c : Nat) (g : Core → Core) (a1 : Nat) (s : State) : fnOf (modCore c g s) a1 = fnOf s a1 := rfl
@[simp] theorem queueOf_modCore (c : Nat) (g : Core → Core) (a1 : QRef) (s : State) : queueOf (modCore c g s) a1 = queueOf s a1 := rfl
@[simp] theorem cqOf_modCore (c : Nat) (g : Core → Core) (a1 b1 : Nat) (s : State) : cqOf (modCore c g s) a1 b1 = cqOf s a1 b1 := rfl
@[simp] theorem segOf_modCore (c : Nat) (g : Core → Core) (a1 b1 : Nat) (s : State) : segOf (modCore c g s) a1 b1 = segOf s a1 b1 := rfl
@[simp] theorem pageOf_modCore (c : Nat) (g : Core → Core) (a1 b1 c1 : Nat) (s : State) : pageOf (modCore c g s) a1 b1 c1 = pageOf s a1 b1 c1 := rfl
@[simp] theorem counterOf_modCore (c : Nat) (g : Core → Core) (a1 b1 : Nat) (s : State) : counterOf (modCore c g s) a1 b1 = counterOf s a1 b1 := rfl
@[simp] theorem grantOf_modCore (c : Nat) (g : Core → Core) (a1 : Nat) (s : State) : grantOf (modCore c g s) a1 = grantOf s a1 := rfl
@[simp] theorem ctxOf_modCore (c : Nat) (g : Core → Core) (a1 : W32) (s : State) : ctxOf (modCore c g s) a1 = ctxOf s a1 := rfl
@[simp] theorem linkOf_modCore (c : Nat) (g : Core → Core) (a1 : Nat) (s : State) : linkOf (modCore c g s) a1 = linkOf s a1 := rfl
@[simp] theorem portOf_modCore (c : Nat) (g : Core → Core) (a1 : Nat) (s : State) : portOf (modCore c g s) a1 = portOf s a1 := rfl
@[simp] theorem dieOf_modCore (c : Nat) (g : Core → Core) (a1 : Nat) (s : State) : dieOf (modCore c g s) a1 = dieOf s a1 := rfl
@[simp] theorem keyOf_modCore (c : Nat) (g : Core → Core) (a1 : Nat) (s : State) : keyOf (modCore c g s) a1 = keyOf s a1 := rfl
@[simp] theorem ledN_modCore (c : Nat) (g : Core → Core) (a1 b1 : Nat) (s : State) : ledN (modCore c g s) a1 b1 = ledN s a1 b1 := rfl
@[simp] theorem memGet_modCore (c : Nat) (g : Core → Core) (a1 : MemId) (s : State) : memGet a1 (modCore c g s) = memGet a1 s := rfl
@[simp] theorem ownId_modCore (c : Nat) (g : Core → Core) (s : State) : ownId (modCore c g s) = ownId s := rfl
@[simp] theorem isReady_modCore (c : Nat) (g : Core → Core) (s : State) : isReady (modCore c g s) = isReady s := rfl
@[simp] theorem isFatal_modCore (c : Nat) (g : Core → Core) (s : State) : isFatal (modCore c g s) = isFatal s := rfl
@[simp] theorem hostOk_modCore (c : Nat) (g : Core → Core) (s : State) : hostOk (modCore c g s) = hostOk s := rfl

@[simp] theorem fnOf_setCtx (p : W32) (c : Ctx) (a1 : Nat) (s : State) : fnOf (setCtx p c s) a1 = fnOf s a1 := rfl
@[simp] theorem queueOf_setCtx (p : W32) (c : Ctx) (a1 : QRef) (s : State) : queueOf (setCtx p c s) a1 = queueOf s a1 := rfl
@[simp] theorem cqOf_setCtx (p : W32) (c : Ctx) (a1 b1 : Nat) (s : State) : cqOf (setCtx p c s) a1 b1 = cqOf s a1 b1 := rfl
@[simp] theorem segOf_setCtx (p : W32) (c : Ctx) (a1 b1 : Nat) (s : State) : segOf (setCtx p c s) a1 b1 = segOf s a1 b1 := rfl
@[simp] theorem pageOf_setCtx (p : W32) (c : Ctx) (a1 b1 c1 : Nat) (s : State) : pageOf (setCtx p c s) a1 b1 c1 = pageOf s a1 b1 c1 := rfl
@[simp] theorem counterOf_setCtx (p : W32) (c : Ctx) (a1 b1 : Nat) (s : State) : counterOf (setCtx p c s) a1 b1 = counterOf s a1 b1 := rfl
@[simp] theorem grantOf_setCtx (p : W32) (c : Ctx) (a1 : Nat) (s : State) : grantOf (setCtx p c s) a1 = grantOf s a1 := rfl
@[simp] theorem coreOf_setCtx (p : W32) (c : Ctx) (a1 : Nat) (s : State) : coreOf (setCtx p c s) a1 = coreOf s a1 := rfl
@[simp] theorem linkOf_setCtx (p : W32) (c : Ctx) (a1 : Nat) (s : State) : linkOf (setCtx p c s) a1 = linkOf s a1 := rfl
@[simp] theorem portOf_setCtx (p : W32) (c : Ctx) (a1 : Nat) (s : State) : portOf (setCtx p c s) a1 = portOf s a1 := rfl
@[simp] theorem dieOf_setCtx (p : W32) (c : Ctx) (a1 : Nat) (s : State) : dieOf (setCtx p c s) a1 = dieOf s a1 := rfl
@[simp] theorem keyOf_setCtx (p : W32) (c : Ctx) (a1 : Nat) (s : State) : keyOf (setCtx p c s) a1 = keyOf s a1 := rfl
@[simp] theorem ledN_setCtx (p : W32) (c : Ctx) (a1 b1 : Nat) (s : State) : ledN (setCtx p c s) a1 b1 = ledN s a1 b1 := rfl
@[simp] theorem memGet_setCtx (p : W32) (c : Ctx) (a1 : MemId) (s : State) : memGet a1 (setCtx p c s) = memGet a1 s := rfl
@[simp] theorem ownId_setCtx (p : W32) (c : Ctx) (s : State) : ownId (setCtx p c s) = ownId s := rfl
@[simp] theorem isReady_setCtx (p : W32) (c : Ctx) (s : State) : isReady (setCtx p c s) = isReady s := rfl
@[simp] theorem isFatal_setCtx (p : W32) (c : Ctx) (s : State) : isFatal (setCtx p c s) = isFatal s := rfl
@[simp] theorem hostOk_setCtx (p : W32) (c : Ctx) (s : State) : hostOk (setCtx p c s) = hostOk s := rfl

@[simp] theorem fnOf_modCtx (p : W32) (g : Ctx → Ctx) (a1 : Nat) (s : State) : fnOf (modCtx p g s) a1 = fnOf s a1 := by
  unfold modCtx; split <;> rfl
@[simp] theorem queueOf_modCtx (p : W32) (g : Ctx → Ctx) (a1 : QRef) (s : State) : queueOf (modCtx p g s) a1 = queueOf s a1 := by
  unfold modCtx; split <;> rfl
@[simp] theorem cqOf_modCtx (p : W32) (g : Ctx → Ctx) (a1 b1 : Nat) (s : State) : cqOf (modCtx p g s) a1 b1 = cqOf s a1 b1 := by
  unfold modCtx; split <;> rfl
@[simp] theorem segOf_modCtx (p : W32) (g : Ctx → Ctx) (a1 b1 : Nat) (s : State) : segOf (modCtx p g s) a1 b1 = segOf s a1 b1 := by
  unfold modCtx; split <;> rfl
@[simp] theorem pageOf_modCtx (p : W32) (g : Ctx → Ctx) (a1 b1 c1 : Nat) (s : State) : pageOf (modCtx p g s) a1 b1 c1 = pageOf s a1 b1 c1 := by
  unfold modCtx; split <;> rfl
@[simp] theorem counterOf_modCtx (p : W32) (g : Ctx → Ctx) (a1 b1 : Nat) (s : State) : counterOf (modCtx p g s) a1 b1 = counterOf s a1 b1 := by
  unfold modCtx; split <;> rfl
@[simp] theorem grantOf_modCtx (p : W32) (g : Ctx → Ctx) (a1 : Nat) (s : State) : grantOf (modCtx p g s) a1 = grantOf s a1 := by
  unfold modCtx; split <;> rfl
@[simp] theorem coreOf_modCtx (p : W32) (g : Ctx → Ctx) (a1 : Nat) (s : State) : coreOf (modCtx p g s) a1 = coreOf s a1 := by
  unfold modCtx; split <;> rfl
@[simp] theorem linkOf_modCtx (p : W32) (g : Ctx → Ctx) (a1 : Nat) (s : State) : linkOf (modCtx p g s) a1 = linkOf s a1 := by
  unfold modCtx; split <;> rfl
@[simp] theorem portOf_modCtx (p : W32) (g : Ctx → Ctx) (a1 : Nat) (s : State) : portOf (modCtx p g s) a1 = portOf s a1 := by
  unfold modCtx; split <;> rfl
@[simp] theorem dieOf_modCtx (p : W32) (g : Ctx → Ctx) (a1 : Nat) (s : State) : dieOf (modCtx p g s) a1 = dieOf s a1 := by
  unfold modCtx; split <;> rfl
@[simp] theorem keyOf_modCtx (p : W32) (g : Ctx → Ctx) (a1 : Nat) (s : State) : keyOf (modCtx p g s) a1 = keyOf s a1 := by
  unfold modCtx; split <;> rfl
@[simp] theorem ledN_modCtx (p : W32) (g : Ctx → Ctx) (a1 b1 : Nat) (s : State) : ledN (modCtx p g s) a1 b1 = ledN s a1 b1 := by
  unfold modCtx; split <;> rfl
@[simp] theorem memGet_modCtx (p : W32) (g : Ctx → Ctx) (a1 : MemId) (s : State) : memGet a1 (modCtx p g s) = memGet a1 s := by
  unfold modCtx; split <;> rfl
@[simp] theorem ownId_modCtx (p : W32) (g : Ctx → Ctx) (s : State) : ownId (modCtx p g s) = ownId s := by
  unfold modCtx; split <;> rfl
@[simp] theorem isReady_modCtx (p : W32) (g : Ctx → Ctx) (s : State) : isReady (modCtx p g s) = isReady s := by
  unfold modCtx; split <;> rfl
@[simp] theorem isFatal_modCtx (p : W32) (g : Ctx → Ctx) (s : State) : isFatal (modCtx p g s) = isFatal s := by
  unfold modCtx; split <;> rfl
@[simp] theorem hostOk_modCtx (p : W32) (g : Ctx → Ctx) (s : State) : hostOk (modCtx p g s) = hostOk s := by
  unfold modCtx; split <;> rfl

@[simp] theorem fnOf_setLink (l : Nat) (x : Link) (a1 : Nat) (s : State) : fnOf (setLink l x s) a1 = fnOf s a1 := rfl
@[simp] theorem queueOf_setLink (l : Nat) (x : Link) (a1 : QRef) (s : State) : queueOf (setLink l x s) a1 = queueOf s a1 := rfl
@[simp] theorem cqOf_setLink (l : Nat) (x : Link) (a1 b1 : Nat) (s : State) : cqOf (setLink l x s) a1 b1 = cqOf s a1 b1 := rfl
@[simp] theorem segOf_setLink (l : Nat) (x : Link) (a1 b1 : Nat) (s : State) : segOf (setLink l x s) a1 b1 = segOf s a1 b1 := rfl
@[simp] theorem pageOf_setLink (l : Nat) (x : Link) (a1 b1 c1 : Nat) (s : State) : pageOf (setLink l x s) a1 b1 c1 = pageOf s a1 b1 c1 := rfl
@[simp] theorem counterOf_setLink (l : Nat) (x : Link) (a1 b1 : Nat) (s : State) : counterOf (setLink l x s) a1 b1 = counterOf s a1 b1 := rfl
@[simp] theorem grantOf_setLink (l : Nat) (x : Link) (a1 : Nat) (s : State) : grantOf (setLink l x s) a1 = grantOf s a1 := rfl
@[simp] theorem coreOf_setLink (l : Nat) (x : Link) (a1 : Nat) (s : State) : coreOf (setLink l x s) a1 = coreOf s a1 := rfl
@[simp] theorem ctxOf_setLink (l : Nat) (x : Link) (a1 : W32) (s : State) : ctxOf (setLink l x s) a1 = ctxOf s a1 := rfl
@[simp] theorem portOf_setLink (l : Nat) (x : Link) (a1 : Nat) (s : State) : portOf (setLink l x s) a1 = portOf s a1 := rfl
@[simp] theorem dieOf_setLink (l : Nat) (x : Link) (a1 : Nat) (s : State) : dieOf (setLink l x s) a1 = dieOf s a1 := rfl
@[simp] theorem keyOf_setLink (l : Nat) (x : Link) (a1 : Nat) (s : State) : keyOf (setLink l x s) a1 = keyOf s a1 := rfl
@[simp] theorem ledN_setLink (l : Nat) (x : Link) (a1 b1 : Nat) (s : State) : ledN (setLink l x s) a1 b1 = ledN s a1 b1 := rfl
@[simp] theorem memGet_setLink (l : Nat) (x : Link) (a1 : MemId) (s : State) : memGet a1 (setLink l x s) = memGet a1 s := rfl
@[simp] theorem isReady_setLink (l : Nat) (x : Link) (s : State) : isReady (setLink l x s) = isReady s := rfl
@[simp] theorem isFatal_setLink (l : Nat) (x : Link) (s : State) : isFatal (setLink l x s) = isFatal s := rfl
@[simp] theorem hostOk_setLink (l : Nat) (x : Link) (s : State) : hostOk (setLink l x s) = hostOk s := rfl

@[simp] theorem fnOf_modLink (l : Nat) (g : Link → Link) (a1 : Nat) (s : State) : fnOf (modLink l g s) a1 = fnOf s a1 := rfl
@[simp] theorem queueOf_modLink (l : Nat) (g : Link → Link) (a1 : QRef) (s : State) : queueOf (modLink l g s) a1 = queueOf s a1 := rfl
@[simp] theorem cqOf_modLink (l : Nat) (g : Link → Link) (a1 b1 : Nat) (s : State) : cqOf (modLink l g s) a1 b1 = cqOf s a1 b1 := rfl
@[simp] theorem segOf_modLink (l : Nat) (g : Link → Link) (a1 b1 : Nat) (s : State) : segOf (modLink l g s) a1 b1 = segOf s a1 b1 := rfl
@[simp] theorem pageOf_modLink (l : Nat) (g : Link → Link) (a1 b1 c1 : Nat) (s : State) : pageOf (modLink l g s) a1 b1 c1 = pageOf s a1 b1 c1 := rfl
@[simp] theorem counterOf_modLink (l : Nat) (g : Link → Link) (a1 b1 : Nat) (s : State) : counterOf (modLink l g s) a1 b1 = counterOf s a1 b1 := rfl
@[simp] theorem grantOf_modLink (l : Nat) (g : Link → Link) (a1 : Nat) (s : State) : grantOf (modLink l g s) a1 = grantOf s a1 := rfl
@[simp] theorem coreOf_modLink (l : Nat) (g : Link → Link) (a1 : Nat) (s : State) : coreOf (modLink l g s) a1 = coreOf s a1 := rfl
@[simp] theorem ctxOf_modLink (l : Nat) (g : Link → Link) (a1 : W32) (s : State) : ctxOf (modLink l g s) a1 = ctxOf s a1 := rfl
@[simp] theorem portOf_modLink (l : Nat) (g : Link → Link) (a1 : Nat) (s : State) : portOf (modLink l g s) a1 = portOf s a1 := rfl
@[simp] theorem dieOf_modLink (l : Nat) (g : Link → Link) (a1 : Nat) (s : State) : dieOf (modLink l g s) a1 = dieOf s a1 := rfl
@[simp] theorem keyOf_modLink (l : Nat) (g : Link → Link) (a1 : Nat) (s : State) : keyOf (modLink l g s) a1 = keyOf s a1 := rfl
@[simp] theorem ledN_modLink (l : Nat) (g : Link → Link) (a1 b1 : Nat) (s : State) : ledN (modLink l g s) a1 b1 = ledN s a1 b1 := rfl
@[simp] theorem memGet_modLink (l : Nat) (g : Link → Link) (a1 : MemId) (s : State) : memGet a1 (modLink l g s) = memGet a1 s := rfl
@[simp] theorem isReady_modLink (l : Nat) (g : Link → Link) (s : State) : isReady (modLink l g s) = isReady s := rfl
@[simp] theorem isFatal_modLink (l : Nat) (g : Link → Link) (s : State) : isFatal (modLink l g s) = isFatal s := rfl
@[simp] theorem hostOk_modLink (l : Nat) (g : Link → Link) (s : State) : hostOk (modLink l g s) = hostOk s := rfl

@[simp] theorem fnOf_setPort (p : Nat) (x : Port) (a1 : Nat) (s : State) : fnOf (setPort p x s) a1 = fnOf s a1 := rfl
@[simp] theorem queueOf_setPort (p : Nat) (x : Port) (a1 : QRef) (s : State) : queueOf (setPort p x s) a1 = queueOf s a1 := rfl
@[simp] theorem cqOf_setPort (p : Nat) (x : Port) (a1 b1 : Nat) (s : State) : cqOf (setPort p x s) a1 b1 = cqOf s a1 b1 := rfl
@[simp] theorem segOf_setPort (p : Nat) (x : Port) (a1 b1 : Nat) (s : State) : segOf (setPort p x s) a1 b1 = segOf s a1 b1 := rfl
@[simp] theorem pageOf_setPort (p : Nat) (x : Port) (a1 b1 c1 : Nat) (s : State) : pageOf (setPort p x s) a1 b1 c1 = pageOf s a1 b1 c1 := rfl
@[simp] theorem counterOf_setPort (p : Nat) (x : Port) (a1 b1 : Nat) (s : State) : counterOf (setPort p x s) a1 b1 = counterOf s a1 b1 := rfl
@[simp] theorem grantOf_setPort (p : Nat) (x : Port) (a1 : Nat) (s : State) : grantOf (setPort p x s) a1 = grantOf s a1 := rfl
@[simp] theorem coreOf_setPort (p : Nat) (x : Port) (a1 : Nat) (s : State) : coreOf (setPort p x s) a1 = coreOf s a1 := rfl
@[simp] theorem ctxOf_setPort (p : Nat) (x : Port) (a1 : W32) (s : State) : ctxOf (setPort p x s) a1 = ctxOf s a1 := rfl
@[simp] theorem linkOf_setPort (p : Nat) (x : Port) (a1 : Nat) (s : State) : linkOf (setPort p x s) a1 = linkOf s a1 := rfl
@[simp] theorem dieOf_setPort (p : Nat) (x : Port) (a1 : Nat) (s : State) : dieOf (setPort p x s) a1 = dieOf s a1 := rfl
@[simp] theorem keyOf_setPort (p : Nat) (x : Port) (a1 : Nat) (s : State) : keyOf (setPort p x s) a1 = keyOf s a1 := rfl
@[simp] theorem ledN_setPort (p : Nat) (x : Port) (a1 b1 : Nat) (s : State) : ledN (setPort p x s) a1 b1 = ledN s a1 b1 := rfl
@[simp] theorem memGet_setPort (p : Nat) (x : Port) (a1 : MemId) (s : State) : memGet a1 (setPort p x s) = memGet a1 s := rfl
@[simp] theorem ownId_setPort (p : Nat) (x : Port) (s : State) : ownId (setPort p x s) = ownId s := rfl
@[simp] theorem isReady_setPort (p : Nat) (x : Port) (s : State) : isReady (setPort p x s) = isReady s := rfl
@[simp] theorem isFatal_setPort (p : Nat) (x : Port) (s : State) : isFatal (setPort p x s) = isFatal s := rfl
@[simp] theorem hostOk_setPort (p : Nat) (x : Port) (s : State) : hostOk (setPort p x s) = hostOk s := rfl

@[simp] theorem fnOf_modPort (p : Nat) (g : Port → Port) (a1 : Nat) (s : State) : fnOf (modPort p g s) a1 = fnOf s a1 := rfl
@[simp] theorem queueOf_modPort (p : Nat) (g : Port → Port) (a1 : QRef) (s : State) : queueOf (modPort p g s) a1 = queueOf s a1 := rfl
@[simp] theorem cqOf_modPort (p : Nat) (g : Port → Port) (a1 b1 : Nat) (s : State) : cqOf (modPort p g s) a1 b1 = cqOf s a1 b1 := rfl
@[simp] theorem segOf_modPort (p : Nat) (g : Port → Port) (a1 b1 : Nat) (s : State) : segOf (modPort p g s) a1 b1 = segOf s a1 b1 := rfl
@[simp] theorem pageOf_modPort (p : Nat) (g : Port → Port) (a1 b1 c1 : Nat) (s : State) : pageOf (modPort p g s) a1 b1 c1 = pageOf s a1 b1 c1 := rfl
@[simp] theorem counterOf_modPort (p : Nat) (g : Port → Port) (a1 b1 : Nat) (s : State) : counterOf (modPort p g s) a1 b1 = counterOf s a1 b1 := rfl
@[simp] theorem grantOf_modPort (p : Nat) (g : Port → Port) (a1 : Nat) (s : State) : grantOf (modPort p g s) a1 = grantOf s a1 := rfl
@[simp] theorem coreOf_modPort (p : Nat) (g : Port → Port) (a1 : Nat) (s : State) : coreOf (modPort p g s) a1 = coreOf s a1 := rfl
@[simp] theorem ctxOf_modPort (p : Nat) (g : Port → Port) (a1 : W32) (s : State) : ctxOf (modPort p g s) a1 = ctxOf s a1 := rfl
@[simp] theorem linkOf_modPort (p : Nat) (g : Port → Port) (a1 : Nat) (s : State) : linkOf (modPort p g s) a1 = linkOf s a1 := rfl
@[simp] theorem dieOf_modPort (p : Nat) (g : Port → Port) (a1 : Nat) (s : State) : dieOf (modPort p g s) a1 = dieOf s a1 := rfl
@[simp] theorem keyOf_modPort (p : Nat) (g : Port → Port) (a1 : Nat) (s : State) : keyOf (modPort p g s) a1 = keyOf s a1 := rfl
@[simp] theorem ledN_modPort (p : Nat) (g : Port → Port) (a1 b1 : Nat) (s : State) : ledN (modPort p g s) a1 b1 = ledN s a1 b1 := rfl
@[simp] theorem memGet_modPort (p : Nat) (g : Port → Port) (a1 : MemId) (s : State) : memGet a1 (modPort p g s) = memGet a1 s := rfl
@[simp] theorem ownId_modPort (p : Nat) (g : Port → Port) (s : State) : ownId (modPort p g s) = ownId s := rfl
@[simp] theorem isReady_modPort (p : Nat) (g : Port → Port) (s : State) : isReady (modPort p g s) = isReady s := rfl
@[simp] theorem isFatal_modPort (p : Nat) (g : Port → Port) (s : State) : isFatal (modPort p g s) = isFatal s := rfl
@[simp] theorem hostOk_modPort (p : Nat) (g : Port → Port) (s : State) : hostOk (modPort p g s) = hostOk s := rfl

@[simp] theorem fnOf_modDie (d : Nat) (g : Die → Die) (a1 : Nat) (s : State) : fnOf (modDie d g s) a1 = fnOf s a1 := rfl
@[simp] theorem queueOf_modDie (d : Nat) (g : Die → Die) (a1 : QRef) (s : State) : queueOf (modDie d g s) a1 = queueOf s a1 := rfl
@[simp] theorem cqOf_modDie (d : Nat) (g : Die → Die) (a1 b1 : Nat) (s : State) : cqOf (modDie d g s) a1 b1 = cqOf s a1 b1 := rfl
@[simp] theorem segOf_modDie (d : Nat) (g : Die → Die) (a1 b1 : Nat) (s : State) : segOf (modDie d g s) a1 b1 = segOf s a1 b1 := rfl
@[simp] theorem pageOf_modDie (d : Nat) (g : Die → Die) (a1 b1 c1 : Nat) (s : State) : pageOf (modDie d g s) a1 b1 c1 = pageOf s a1 b1 c1 := rfl
@[simp] theorem counterOf_modDie (d : Nat) (g : Die → Die) (a1 b1 : Nat) (s : State) : counterOf (modDie d g s) a1 b1 = counterOf s a1 b1 := rfl
@[simp] theorem grantOf_modDie (d : Nat) (g : Die → Die) (a1 : Nat) (s : State) : grantOf (modDie d g s) a1 = grantOf s a1 := rfl
@[simp] theorem coreOf_modDie (d : Nat) (g : Die → Die) (a1 : Nat) (s : State) : coreOf (modDie d g s) a1 = coreOf s a1 := rfl
@[simp] theorem ctxOf_modDie (d : Nat) (g : Die → Die) (a1 : W32) (s : State) : ctxOf (modDie d g s) a1 = ctxOf s a1 := rfl
@[simp] theorem linkOf_modDie (d : Nat) (g : Die → Die) (a1 : Nat) (s : State) : linkOf (modDie d g s) a1 = linkOf s a1 := rfl
@[simp] theorem portOf_modDie (d : Nat) (g : Die → Die) (a1 : Nat) (s : State) : portOf (modDie d g s) a1 = portOf s a1 := rfl
@[simp] theorem keyOf_modDie (d : Nat) (g : Die → Die) (a1 : Nat) (s : State) : keyOf (modDie d g s) a1 = keyOf s a1 := rfl
@[simp] theorem ledN_modDie (d : Nat) (g : Die → Die) (a1 b1 : Nat) (s : State) : ledN (modDie d g s) a1 b1 = ledN s a1 b1 := rfl
@[simp] theorem memGet_modDie (d : Nat) (g : Die → Die) (a1 : MemId) (s : State) : memGet a1 (modDie d g s) = memGet a1 s := rfl
@[simp] theorem ownId_modDie (d : Nat) (g : Die → Die) (s : State) : ownId (modDie d g s) = ownId s := rfl
@[simp] theorem isReady_modDie (d : Nat) (g : Die → Die) (s : State) : isReady (modDie d g s) = isReady s := rfl
@[simp] theorem isFatal_modDie (d : Nat) (g : Die → Die) (s : State) : isFatal (modDie d g s) = isFatal s := rfl
@[simp] theorem hostOk_modDie (d : Nat) (g : Die → Die) (s : State) : hostOk (modDie d g s) = hostOk s := rfl

@[simp] theorem fnOf_setKey (i : Nat) (e : KeyEntry) (a1 : Nat) (s : State) : fnOf (setKey i e s) a1 = fnOf s a1 := rfl
@[simp] theorem queueOf_setKey (i : Nat) (e : KeyEntry) (a1 : QRef) (s : State) : queueOf (setKey i e s) a1 = queueOf s a1 := rfl
@[simp] theorem cqOf_setKey (i : Nat) (e : KeyEntry) (a1 b1 : Nat) (s : State) : cqOf (setKey i e s) a1 b1 = cqOf s a1 b1 := rfl
@[simp] theorem segOf_setKey (i : Nat) (e : KeyEntry) (a1 b1 : Nat) (s : State) : segOf (setKey i e s) a1 b1 = segOf s a1 b1 := rfl
@[simp] theorem pageOf_setKey (i : Nat) (e : KeyEntry) (a1 b1 c1 : Nat) (s : State) : pageOf (setKey i e s) a1 b1 c1 = pageOf s a1 b1 c1 := rfl
@[simp] theorem counterOf_setKey (i : Nat) (e : KeyEntry) (a1 b1 : Nat) (s : State) : counterOf (setKey i e s) a1 b1 = counterOf s a1 b1 := rfl
@[simp] theorem grantOf_setKey (i : Nat) (e : KeyEntry) (a1 : Nat) (s : State) : grantOf (setKey i e s) a1 = grantOf s a1 := rfl
@[simp] theorem coreOf_setKey (i : Nat) (e : KeyEntry) (a1 : Nat) (s : State) : coreOf (setKey i e s) a1 = coreOf s a1 := rfl
@[simp] theorem ctxOf_setKey (i : Nat) (e : KeyEntry) (a1 : W32) (s : State) : ctxOf (setKey i e s) a1 = ctxOf s a1 := rfl
@[simp] theorem linkOf_setKey (i : Nat) (e : KeyEntry) (a1 : Nat) (s : State) : linkOf (setKey i e s) a1 = linkOf s a1 := rfl
@[simp] theorem portOf_setKey (i : Nat) (e : KeyEntry) (a1 : Nat) (s : State) : portOf (setKey i e s) a1 = portOf s a1 := rfl
@[simp] theorem dieOf_setKey (i : Nat) (e : KeyEntry) (a1 : Nat) (s : State) : dieOf (setKey i e s) a1 = dieOf s a1 := rfl
@[simp] theorem ledN_setKey (i : Nat) (e : KeyEntry) (a1 b1 : Nat) (s : State) : ledN (setKey i e s) a1 b1 = ledN s a1 b1 := rfl
@[simp] theorem memGet_setKey (i : Nat) (e : KeyEntry) (a1 : MemId) (s : State) : memGet a1 (setKey i e s) = memGet a1 s := rfl
@[simp] theorem ownId_setKey (i : Nat) (e : KeyEntry) (s : State) : ownId (setKey i e s) = ownId s := rfl
@[simp] theorem isReady_setKey (i : Nat) (e : KeyEntry) (s : State) : isReady (setKey i e s) = isReady s := rfl
@[simp] theorem isFatal_setKey (i : Nat) (e : KeyEntry) (s : State) : isFatal (setKey i e s) = isFatal s := rfl
@[simp] theorem hostOk_setKey (i : Nat) (e : KeyEntry) (s : State) : hostOk (setKey i e s) = hostOk s := rfl

@[simp] theorem coreOf_modSeg (f g : Nat) (h : Segment → Segment) (a1 : Nat) (s : State) : coreOf (modSeg f g h s) a1 = coreOf s a1 := rfl
@[simp] theorem ctxOf_modSeg (f g : Nat) (h : Segment → Segment) (a1 : W32) (s : State) : ctxOf (modSeg f g h s) a1 = ctxOf s a1 := rfl
@[simp] theorem linkOf_modSeg (f g : Nat) (h : Segment → Segment) (a1 : Nat) (s : State) : linkOf (modSeg f g h s) a1 = linkOf s a1 := rfl
@[simp] theorem portOf_modSeg (f g : Nat) (h : Segment → Segment) (a1 : Nat) (s : State) : portOf (modSeg f g h s) a1 = portOf s a1 := rfl
@[simp] theorem dieOf_modSeg (f g : Nat) (h : Segment → Segment) (a1 : Nat) (s : State) : dieOf (modSeg f g h s) a1 = dieOf s a1 := rfl
@[simp] theorem keyOf_modSeg (f g : Nat) (h : Segment → Segment) (a1 : Nat) (s : State) : keyOf (modSeg f g h s) a1 = keyOf s a1 := rfl
@[simp] theorem ledN_modSeg (f g : Nat) (h : Segment → Segment) (a1 b1 : Nat) (s : State) : ledN (modSeg f g h s) a1 b1 = ledN s a1 b1 := rfl
@[simp] theorem memGet_modSeg (f g : Nat) (h : Segment → Segment) (a1 : MemId) (s : State) : memGet a1 (modSeg f g h s) = memGet a1 s := rfl
@[simp] theorem ownId_modSeg (f g : Nat) (h : Segment → Segment) (s : State) : ownId (modSeg f g h s) = ownId s := rfl
@[simp] theorem isReady_modSeg (f g : Nat) (h : Segment → Segment) (s : State) : isReady (modSeg f g h s) = isReady s := rfl
@[simp] theorem isFatal_modSeg (f g : Nat) (h : Segment → Segment) (s : State) : isFatal (modSeg f g h s) = isFatal s := rfl
@[simp] theorem hostOk_modSeg (f g : Nat) (h : Segment → Segment) (s : State) : hostOk (modSeg f g h s) = hostOk s := rfl

@[simp] theorem coreOf_modPage (f g p : Nat) (h : Page → Page) (a1 : Nat) (s : State) : coreOf (modPage f g p h s) a1 = coreOf s a1 := rfl
@[simp] theorem ctxOf_modPage (f g p : Nat) (h : Page → Page) (a1 : W32) (s : State) : ctxOf (modPage f g p h s) a1 = ctxOf s a1 := rfl
@[simp] theorem linkOf_modPage (f g p : Nat) (h : Page → Page) (a1 : Nat) (s : State) : linkOf (modPage f g p h s) a1 = linkOf s a1 := rfl
@[simp] theorem portOf_modPage (f g p : Nat) (h : Page → Page) (a1 : Nat) (s : State) : portOf (modPage f g p h s) a1 = portOf s a1 := rfl
@[simp] theorem dieOf_modPage (f g p : Nat) (h : Page → Page) (a1 : Nat) (s : State) : dieOf (modPage f g p h s) a1 = dieOf s a1 := rfl
@[simp] theorem keyOf_modPage (f g p : Nat) (h : Page → Page) (a1 : Nat) (s : State) : keyOf (modPage f g p h s) a1 = keyOf s a1 := rfl
@[simp] theorem ledN_modPage (f g p : Nat) (h : Page → Page) (a1 b1 : Nat) (s : State) : ledN (modPage f g p h s) a1 b1 = ledN s a1 b1 := rfl
@[simp] theorem memGet_modPage (f g p : Nat) (h : Page → Page) (a1 : MemId) (s : State) : memGet a1 (modPage f g p h s) = memGet a1 s := rfl
@[simp] theorem ownId_modPage (f g p : Nat) (h : Page → Page) (s : State) : ownId (modPage f g p h s) = ownId s := rfl
@[simp] theorem isReady_modPage (f g p : Nat) (h : Page → Page) (s : State) : isReady (modPage f g p h s) = isReady s := rfl
@[simp] theorem isFatal_modPage (f g p : Nat) (h : Page → Page) (s : State) : isFatal (modPage f g p h s) = isFatal s := rfl
@[simp] theorem hostOk_modPage (f g p : Nat) (h : Page → Page) (s : State) : hostOk (modPage f g p h s) = hostOk s := rfl

@[simp] theorem fnOf_outEmit (o : Output) (a1 : Nat) (s : State) : fnOf (outEmit o s) a1 = fnOf s a1 := rfl
@[simp] theorem queueOf_outEmit (o : Output) (a1 : QRef) (s : State) : queueOf (outEmit o s) a1 = queueOf s a1 := rfl
@[simp] theorem cqOf_outEmit (o : Output) (a1 b1 : Nat) (s : State) : cqOf (outEmit o s) a1 b1 = cqOf s a1 b1 := rfl
@[simp] theorem segOf_outEmit (o : Output) (a1 b1 : Nat) (s : State) : segOf (outEmit o s) a1 b1 = segOf s a1 b1 := rfl
@[simp] theorem pageOf_outEmit (o : Output) (a1 b1 c1 : Nat) (s : State) : pageOf (outEmit o s) a1 b1 c1 = pageOf s a1 b1 c1 := rfl
@[simp] theorem counterOf_outEmit (o : Output) (a1 b1 : Nat) (s : State) : counterOf (outEmit o s) a1 b1 = counterOf s a1 b1 := rfl
@[simp] theorem grantOf_outEmit (o : Output) (a1 : Nat) (s : State) : grantOf (outEmit o s) a1 = grantOf s a1 := rfl
@[simp] theorem coreOf_outEmit (o : Output) (a1 : Nat) (s : State) : coreOf (outEmit o s) a1 = coreOf s a1 := rfl
@[simp] theorem ctxOf_outEmit (o : Output) (a1 : W32) (s : State) : ctxOf (outEmit o s) a1 = ctxOf s a1 := rfl
@[simp] theorem linkOf_outEmit (o : Output) (a1 : Nat) (s : State) : linkOf (outEmit o s) a1 = linkOf s a1 := rfl
@[simp] theorem portOf_outEmit (o : Output) (a1 : Nat) (s : State) : portOf (outEmit o s) a1 = portOf s a1 := rfl
@[simp] theorem dieOf_outEmit (o : Output) (a1 : Nat) (s : State) : dieOf (outEmit o s) a1 = dieOf s a1 := rfl
@[simp] theorem keyOf_outEmit (o : Output) (a1 : Nat) (s : State) : keyOf (outEmit o s) a1 = keyOf s a1 := rfl
@[simp] theorem ledN_outEmit (o : Output) (a1 b1 : Nat) (s : State) : ledN (outEmit o s) a1 b1 = ledN s a1 b1 := rfl
@[simp] theorem memGet_outEmit (o : Output) (a1 : MemId) (s : State) : memGet a1 (outEmit o s) = memGet a1 s := rfl
@[simp] theorem ownId_outEmit (o : Output) (s : State) : ownId (outEmit o s) = ownId s := rfl
@[simp] theorem isReady_outEmit (o : Output) (s : State) : isReady (outEmit o s) = isReady s := rfl
@[simp] theorem isFatal_outEmit (o : Output) (s : State) : isFatal (outEmit o s) = isFatal s := rfl
@[simp] theorem hostOk_outEmit (o : Output) (s : State) : hostOk (outEmit o s) = hostOk s := rfl

@[simp] theorem fnOf_advanceTo (t : Nat) (a1 : Nat) (s : State) : fnOf (advanceTo t s) a1 = fnOf s a1 := rfl
@[simp] theorem queueOf_advanceTo (t : Nat) (a1 : QRef) (s : State) : queueOf (advanceTo t s) a1 = queueOf s a1 := rfl
@[simp] theorem cqOf_advanceTo (t : Nat) (a1 b1 : Nat) (s : State) : cqOf (advanceTo t s) a1 b1 = cqOf s a1 b1 := rfl
@[simp] theorem segOf_advanceTo (t : Nat) (a1 b1 : Nat) (s : State) : segOf (advanceTo t s) a1 b1 = segOf s a1 b1 := rfl
@[simp] theorem pageOf_advanceTo (t : Nat) (a1 b1 c1 : Nat) (s : State) : pageOf (advanceTo t s) a1 b1 c1 = pageOf s a1 b1 c1 := rfl
@[simp] theorem counterOf_advanceTo (t : Nat) (a1 b1 : Nat) (s : State) : counterOf (advanceTo t s) a1 b1 = counterOf s a1 b1 := rfl
@[simp] theorem grantOf_advanceTo (t : Nat) (a1 : Nat) (s : State) : grantOf (advanceTo t s) a1 = grantOf s a1 := rfl
@[simp] theorem coreOf_advanceTo (t : Nat) (a1 : Nat) (s : State) : coreOf (advanceTo t s) a1 = coreOf s a1 := rfl
@[simp] theorem ctxOf_advanceTo (t : Nat) (a1 : W32) (s : State) : ctxOf (advanceTo t s) a1 = ctxOf s a1 := rfl
@[simp] theorem linkOf_advanceTo (t : Nat) (a1 : Nat) (s : State) : linkOf (advanceTo t s) a1 = linkOf s a1 := rfl
@[simp] theorem portOf_advanceTo (t : Nat) (a1 : Nat) (s : State) : portOf (advanceTo t s) a1 = portOf s a1 := rfl
@[simp] theorem dieOf_advanceTo (t : Nat) (a1 : Nat) (s : State) : dieOf (advanceTo t s) a1 = dieOf s a1 := rfl
@[simp] theorem keyOf_advanceTo (t : Nat) (a1 : Nat) (s : State) : keyOf (advanceTo t s) a1 = keyOf s a1 := rfl
@[simp] theorem ledN_advanceTo (t : Nat) (a1 b1 : Nat) (s : State) : ledN (advanceTo t s) a1 b1 = ledN s a1 b1 := rfl
@[simp] theorem memGet_advanceTo (t : Nat) (a1 : MemId) (s : State) : memGet a1 (advanceTo t s) = memGet a1 s := rfl
@[simp] theorem ownId_advanceTo (t : Nat) (s : State) : ownId (advanceTo t s) = ownId s := rfl
@[simp] theorem isReady_advanceTo (t : Nat) (s : State) : isReady (advanceTo t s) = isReady s := rfl
@[simp] theorem isFatal_advanceTo (t : Nat) (s : State) : isFatal (advanceTo t s) = isFatal s := rfl
@[simp] theorem hostOk_advanceTo (t : Nat) (s : State) : hostOk (advanceTo t s) = hostOk s := rfl

@[simp] theorem fnOf_drawn (a1 : Nat) (s : State) : fnOf (drawn s) a1 = fnOf s a1 := rfl
@[simp] theorem queueOf_drawn (a1 : QRef) (s : State) : queueOf (drawn s) a1 = queueOf s a1 := rfl
@[simp] theorem cqOf_drawn (a1 b1 : Nat) (s : State) : cqOf (drawn s) a1 b1 = cqOf s a1 b1 := rfl
@[simp] theorem segOf_drawn (a1 b1 : Nat) (s : State) : segOf (drawn s) a1 b1 = segOf s a1 b1 := rfl
@[simp] theorem pageOf_drawn (a1 b1 c1 : Nat) (s : State) : pageOf (drawn s) a1 b1 c1 = pageOf s a1 b1 c1 := rfl
@[simp] theorem counterOf_drawn (a1 b1 : Nat) (s : State) : counterOf (drawn s) a1 b1 = counterOf s a1 b1 := rfl
@[simp] theorem grantOf_drawn (a1 : Nat) (s : State) : grantOf (drawn s) a1 = grantOf s a1 := rfl
@[simp] theorem coreOf_drawn (a1 : Nat) (s : State) : coreOf (drawn s) a1 = coreOf s a1 := rfl
@[simp] theorem ctxOf_drawn (a1 : W32) (s : State) : ctxOf (drawn s) a1 = ctxOf s a1 := rfl
@[simp] theorem linkOf_drawn (a1 : Nat) (s : State) : linkOf (drawn s) a1 = linkOf s a1 := rfl
@[simp] theorem portOf_drawn (a1 : Nat) (s : State) : portOf (drawn s) a1 = portOf s a1 := rfl
@[simp] theorem dieOf_drawn (a1 : Nat) (s : State) : dieOf (drawn s) a1 = dieOf s a1 := rfl
@[simp] theorem keyOf_drawn (a1 : Nat) (s : State) : keyOf (drawn s) a1 = keyOf s a1 := rfl
@[simp] theorem ledN_drawn (a1 b1 : Nat) (s : State) : ledN (drawn s) a1 b1 = ledN s a1 b1 := rfl
@[simp] theorem memGet_drawn (a1 : MemId) (s : State) : memGet a1 (drawn s) = memGet a1 s := rfl
@[simp] theorem ownId_drawn (s : State) : ownId (drawn s) = ownId s := rfl
@[simp] theorem isReady_drawn (s : State) : isReady (drawn s) = isReady s := rfl
@[simp] theorem isFatal_drawn (s : State) : isFatal (drawn s) = isFatal s := rfl
@[simp] theorem hostOk_drawn (s : State) : hostOk (drawn s) = hostOk s := rfl

@[simp] theorem fnOf_noteChange (i j : Nat) (a1 : Nat) (s : State) : fnOf (noteChange i j s) a1 = fnOf s a1 := by
  unfold noteChange; split <;> rfl
@[simp] theorem queueOf_noteChange (i j : Nat) (a1 : QRef) (s : State) : queueOf (noteChange i j s) a1 = queueOf s a1 := by
  unfold noteChange; split <;> rfl
@[simp] theorem cqOf_noteChange (i j : Nat) (a1 b1 : Nat) (s : State) : cqOf (noteChange i j s) a1 b1 = cqOf s a1 b1 := by
  unfold noteChange; split <;> rfl
@[simp] theorem segOf_noteChange (i j : Nat) (a1 b1 : Nat) (s : State) : segOf (noteChange i j s) a1 b1 = segOf s a1 b1 := by
  unfold noteChange; split <;> rfl
@[simp] theorem pageOf_noteChange (i j : Nat) (a1 b1 c1 : Nat) (s : State) : pageOf (noteChange i j s) a1 b1 c1 = pageOf s a1 b1 c1 := by
  unfold noteChange; split <;> rfl
@[simp] theorem counterOf_noteChange (i j : Nat) (a1 b1 : Nat) (s : State) : counterOf (noteChange i j s) a1 b1 = counterOf s a1 b1 := by
  unfold noteChange; split <;> rfl
@[simp] theorem grantOf_noteChange (i j : Nat) (a1 : Nat) (s : State) : grantOf (noteChange i j s) a1 = grantOf s a1 := by
  unfold noteChange; split <;> rfl
@[simp] theorem coreOf_noteChange (i j : Nat) (a1 : Nat) (s : State) : coreOf (noteChange i j s) a1 = coreOf s a1 := by
  unfold noteChange; split <;> rfl
@[simp] theorem ctxOf_noteChange (i j : Nat) (a1 : W32) (s : State) : ctxOf (noteChange i j s) a1 = ctxOf s a1 := by
  unfold noteChange; split <;> rfl
@[simp] theorem linkOf_noteChange (i j : Nat) (a1 : Nat) (s : State) : linkOf (noteChange i j s) a1 = linkOf s a1 := by
  unfold noteChange; split <;> rfl
@[simp] theorem portOf_noteChange (i j : Nat) (a1 : Nat) (s : State) : portOf (noteChange i j s) a1 = portOf s a1 := by
  unfold noteChange; split <;> rfl
@[simp] theorem dieOf_noteChange (i j : Nat) (a1 : Nat) (s : State) : dieOf (noteChange i j s) a1 = dieOf s a1 := by
  unfold noteChange; split <;> rfl
@[simp] theorem keyOf_noteChange (i j : Nat) (a1 : Nat) (s : State) : keyOf (noteChange i j s) a1 = keyOf s a1 := by
  unfold noteChange; split <;> rfl
@[simp] theorem ledN_noteChange (i j : Nat) (a1 b1 : Nat) (s : State) : ledN (noteChange i j s) a1 b1 = ledN s a1 b1 := by
  unfold noteChange; split <;> rfl
@[simp] theorem memGet_noteChange (i j : Nat) (a1 : MemId) (s : State) : memGet a1 (noteChange i j s) = memGet a1 s := by
  unfold noteChange; split <;> rfl
@[simp] theorem ownId_noteChange (i j : Nat) (s : State) : ownId (noteChange i j s) = ownId s := by
  unfold noteChange; split <;> rfl
@[simp] theorem isReady_noteChange (i j : Nat) (s : State) : isReady (noteChange i j s) = isReady s := by
  unfold noteChange; split <;> rfl
@[simp] theorem isFatal_noteChange (i j : Nat) (s : State) : isFatal (noteChange i j s) = isFatal s := by
  unfold noteChange; split <;> rfl
@[simp] theorem hostOk_noteChange (i j : Nat) (s : State) : hostOk (noteChange i j s) = hostOk s := by
  unfold noteChange; split <;> rfl

@[simp] theorem fnOf_ledPut (i j : Nat) (v : Bytes) (a1 : Nat) (s : State) : fnOf (ledPut i j v s) a1 = fnOf s a1 := rfl
@[simp] theorem queueOf_ledPut (i j : Nat) (v : Bytes) (a1 : QRef) (s : State) : queueOf (ledPut i j v s) a1 = queueOf s a1 := rfl
@[simp] theorem cqOf_ledPut (i j : Nat) (v : Bytes) (a1 b1 : Nat) (s : State) : cqOf (ledPut i j v s) a1 b1 = cqOf s a1 b1 := rfl
@[simp] theorem segOf_ledPut (i j : Nat) (v : Bytes) (a1 b1 : Nat) (s : State) : segOf (ledPut i j v s) a1 b1 = segOf s a1 b1 := rfl
@[simp] theorem pageOf_ledPut (i j : Nat) (v : Bytes) (a1 b1 c1 : Nat) (s : State) : pageOf (ledPut i j v s) a1 b1 c1 = pageOf s a1 b1 c1 := rfl
@[simp] theorem counterOf_ledPut (i j : Nat) (v : Bytes) (a1 b1 : Nat) (s : State) : counterOf (ledPut i j v s) a1 b1 = counterOf s a1 b1 := rfl
@[simp] theorem grantOf_ledPut (i j : Nat) (v : Bytes) (a1 : Nat) (s : State) : grantOf (ledPut i j v s) a1 = grantOf s a1 := rfl
@[simp] theorem coreOf_ledPut (i j : Nat) (v : Bytes) (a1 : Nat) (s : State) : coreOf (ledPut i j v s) a1 = coreOf s a1 := rfl
@[simp] theorem ctxOf_ledPut (i j : Nat) (v : Bytes) (a1 : W32) (s : State) : ctxOf (ledPut i j v s) a1 = ctxOf s a1 := rfl
@[simp] theorem linkOf_ledPut (i j : Nat) (v : Bytes) (a1 : Nat) (s : State) : linkOf (ledPut i j v s) a1 = linkOf s a1 := rfl
@[simp] theorem portOf_ledPut (i j : Nat) (v : Bytes) (a1 : Nat) (s : State) : portOf (ledPut i j v s) a1 = portOf s a1 := rfl
@[simp] theorem dieOf_ledPut (i j : Nat) (v : Bytes) (a1 : Nat) (s : State) : dieOf (ledPut i j v s) a1 = dieOf s a1 := rfl
@[simp] theorem keyOf_ledPut (i j : Nat) (v : Bytes) (a1 : Nat) (s : State) : keyOf (ledPut i j v s) a1 = keyOf s a1 := rfl
@[simp] theorem memGet_ledPut (i j : Nat) (v : Bytes) (a1 : MemId) (s : State) : memGet a1 (ledPut i j v s) = memGet a1 s := rfl
@[simp] theorem isReady_ledPut (i j : Nat) (v : Bytes) (s : State) : isReady (ledPut i j v s) = isReady s := rfl
@[simp] theorem isFatal_ledPut (i j : Nat) (v : Bytes) (s : State) : isFatal (ledPut i j v s) = isFatal s := rfl
@[simp] theorem hostOk_ledPut (i j : Nat) (v : Bytes) (s : State) : hostOk (ledPut i j v s) = hostOk s := rfl

@[simp] theorem fnOf_ledCommit (i j : Nat) (v : Bytes) (a1 : Nat) (s : State) : fnOf (ledCommit i j v s) a1 = fnOf s a1 := rfl
@[simp] theorem queueOf_ledCommit (i j : Nat) (v : Bytes) (a1 : QRef) (s : State) : queueOf (ledCommit i j v s) a1 = queueOf s a1 := rfl
@[simp] theorem cqOf_ledCommit (i j : Nat) (v : Bytes) (a1 b1 : Nat) (s : State) : cqOf (ledCommit i j v s) a1 b1 = cqOf s a1 b1 := rfl
@[simp] theorem segOf_ledCommit (i j : Nat) (v : Bytes) (a1 b1 : Nat) (s : State) : segOf (ledCommit i j v s) a1 b1 = segOf s a1 b1 := rfl
@[simp] theorem pageOf_ledCommit (i j : Nat) (v : Bytes) (a1 b1 c1 : Nat) (s : State) : pageOf (ledCommit i j v s) a1 b1 c1 = pageOf s a1 b1 c1 := rfl
@[simp] theorem counterOf_ledCommit (i j : Nat) (v : Bytes) (a1 b1 : Nat) (s : State) : counterOf (ledCommit i j v s) a1 b1 = counterOf s a1 b1 := rfl
@[simp] theorem grantOf_ledCommit (i j : Nat) (v : Bytes) (a1 : Nat) (s : State) : grantOf (ledCommit i j v s) a1 = grantOf s a1 := rfl
@[simp] theorem coreOf_ledCommit (i j : Nat) (v : Bytes) (a1 : Nat) (s : State) : coreOf (ledCommit i j v s) a1 = coreOf s a1 := rfl
@[simp] theorem ctxOf_ledCommit (i j : Nat) (v : Bytes) (a1 : W32) (s : State) : ctxOf (ledCommit i j v s) a1 = ctxOf s a1 := rfl
@[simp] theorem linkOf_ledCommit (i j : Nat) (v : Bytes) (a1 : Nat) (s : State) : linkOf (ledCommit i j v s) a1 = linkOf s a1 := rfl
@[simp] theorem portOf_ledCommit (i j : Nat) (v : Bytes) (a1 : Nat) (s : State) : portOf (ledCommit i j v s) a1 = portOf s a1 := rfl
@[simp] theorem dieOf_ledCommit (i j : Nat) (v : Bytes) (a1 : Nat) (s : State) : dieOf (ledCommit i j v s) a1 = dieOf s a1 := rfl
@[simp] theorem keyOf_ledCommit (i j : Nat) (v : Bytes) (a1 : Nat) (s : State) : keyOf (ledCommit i j v s) a1 = keyOf s a1 := rfl
@[simp] theorem memGet_ledCommit (i j : Nat) (v : Bytes) (a1 : MemId) (s : State) : memGet a1 (ledCommit i j v s) = memGet a1 s := rfl
@[simp] theorem isReady_ledCommit (i j : Nat) (v : Bytes) (s : State) : isReady (ledCommit i j v s) = isReady s := rfl
@[simp] theorem isFatal_ledCommit (i j : Nat) (v : Bytes) (s : State) : isFatal (ledCommit i j v s) = isFatal s := rfl
@[simp] theorem hostOk_ledCommit (i j : Nat) (v : Bytes) (s : State) : hostOk (ledCommit i j v s) = hostOk s := rfl

@[simp] theorem fnOf_bump (i j n : Nat) (a1 : Nat) (s : State) : fnOf (bump i j n s) a1 = fnOf s a1 := rfl
@[simp] theorem queueOf_bump (i j n : Nat) (a1 : QRef) (s : State) : queueOf (bump i j n s) a1 = queueOf s a1 := rfl
@[simp] theorem cqOf_bump (i j n : Nat) (a1 b1 : Nat) (s : State) : cqOf (bump i j n s) a1 b1 = cqOf s a1 b1 := rfl
@[simp] theorem segOf_bump (i j n : Nat) (a1 b1 : Nat) (s : State) : segOf (bump i j n s) a1 b1 = segOf s a1 b1 := rfl
@[simp] theorem pageOf_bump (i j n : Nat) (a1 b1 c1 : Nat) (s : State) : pageOf (bump i j n s) a1 b1 c1 = pageOf s a1 b1 c1 := rfl
@[simp] theorem counterOf_bump (i j n : Nat) (a1 b1 : Nat) (s : State) : counterOf (bump i j n s) a1 b1 = counterOf s a1 b1 := rfl
@[simp] theorem grantOf_bump (i j n : Nat) (a1 : Nat) (s : State) : grantOf (bump i j n s) a1 = grantOf s a1 := rfl
@[simp] theorem coreOf_bump (i j n : Nat) (a1 : Nat) (s : State) : coreOf (bump i j n s) a1 = coreOf s a1 := rfl
@[simp] theorem ctxOf_bump (i j n : Nat) (a1 : W32) (s : State) : ctxOf (bump i j n s) a1 = ctxOf s a1 := rfl
@[simp] theorem linkOf_bump (i j n : Nat) (a1 : Nat) (s : State) : linkOf (bump i j n s) a1 = linkOf s a1 := rfl
@[simp] theorem portOf_bump (i j n : Nat) (a1 : Nat) (s : State) : portOf (bump i j n s) a1 = portOf s a1 := rfl
@[simp] theorem dieOf_bump (i j n : Nat) (a1 : Nat) (s : State) : dieOf (bump i j n s) a1 = dieOf s a1 := rfl
@[simp] theorem keyOf_bump (i j n : Nat) (a1 : Nat) (s : State) : keyOf (bump i j n s) a1 = keyOf s a1 := rfl
@[simp] theorem ledN_bump (i j n : Nat) (a1 b1 : Nat) (s : State) : ledN (bump i j n s) a1 b1 = ledN s a1 b1 := rfl
@[simp] theorem memGet_bump (i j n : Nat) (a1 : MemId) (s : State) : memGet a1 (bump i j n s) = memGet a1 s := rfl
@[simp] theorem ownId_bump (i j n : Nat) (s : State) : ownId (bump i j n s) = ownId s := rfl
@[simp] theorem isReady_bump (i j n : Nat) (s : State) : isReady (bump i j n s) = isReady s := rfl
@[simp] theorem isFatal_bump (i j n : Nat) (s : State) : isFatal (bump i j n s) = isFatal s := rfl
@[simp] theorem hostOk_bump (i j n : Nat) (s : State) : hostOk (bump i j n s) = hostOk s := rfl

@[simp] theorem fnOf_memSet (m : MemId) (x : Memory) (a1 : Nat) (s : State) : fnOf (memSet m x s) a1 = fnOf s a1 := by
  cases m <;> rfl
@[simp] theorem queueOf_memSet (m : MemId) (x : Memory) (a1 : QRef) (s : State) : queueOf (memSet m x s) a1 = queueOf s a1 := by
  cases m <;> rfl
@[simp] theorem cqOf_memSet (m : MemId) (x : Memory) (a1 b1 : Nat) (s : State) : cqOf (memSet m x s) a1 b1 = cqOf s a1 b1 := by
  cases m <;> rfl
@[simp] theorem segOf_memSet (m : MemId) (x : Memory) (a1 b1 : Nat) (s : State) : segOf (memSet m x s) a1 b1 = segOf s a1 b1 := by
  cases m <;> rfl
@[simp] theorem pageOf_memSet (m : MemId) (x : Memory) (a1 b1 c1 : Nat) (s : State) : pageOf (memSet m x s) a1 b1 c1 = pageOf s a1 b1 c1 := by
  cases m <;> rfl
@[simp] theorem counterOf_memSet (m : MemId) (x : Memory) (a1 b1 : Nat) (s : State) : counterOf (memSet m x s) a1 b1 = counterOf s a1 b1 := by
  cases m <;> rfl
@[simp] theorem grantOf_memSet (m : MemId) (x : Memory) (a1 : Nat) (s : State) : grantOf (memSet m x s) a1 = grantOf s a1 := by
  cases m <;> rfl
@[simp] theorem coreOf_memSet (m : MemId) (x : Memory) (a1 : Nat) (s : State) : coreOf (memSet m x s) a1 = coreOf s a1 := by
  cases m <;> rfl
@[simp] theorem ctxOf_memSet (m : MemId) (x : Memory) (a1 : W32) (s : State) : ctxOf (memSet m x s) a1 = ctxOf s a1 := by
  cases m <;> rfl
@[simp] theorem linkOf_memSet (m : MemId) (x : Memory) (a1 : Nat) (s : State) : linkOf (memSet m x s) a1 = linkOf s a1 := by
  cases m <;> rfl
@[simp] theorem portOf_memSet (m : MemId) (x : Memory) (a1 : Nat) (s : State) : portOf (memSet m x s) a1 = portOf s a1 := by
  cases m <;> rfl
@[simp] theorem dieOf_memSet (m : MemId) (x : Memory) (a1 : Nat) (s : State) : dieOf (memSet m x s) a1 = dieOf s a1 := by
  cases m <;> rfl
@[simp] theorem keyOf_memSet (m : MemId) (x : Memory) (a1 : Nat) (s : State) : keyOf (memSet m x s) a1 = keyOf s a1 := by
  cases m <;> rfl
@[simp] theorem ledN_memSet (m : MemId) (x : Memory) (a1 b1 : Nat) (s : State) : ledN (memSet m x s) a1 b1 = ledN s a1 b1 := by
  cases m <;> rfl
@[simp] theorem ownId_memSet (m : MemId) (x : Memory) (s : State) : ownId (memSet m x s) = ownId s := by
  cases m <;> rfl
@[simp] theorem isReady_memSet (m : MemId) (x : Memory) (s : State) : isReady (memSet m x s) = isReady s := by
  cases m <;> rfl
@[simp] theorem isFatal_memSet (m : MemId) (x : Memory) (s : State) : isFatal (memSet m x s) = isFatal s := by
  cases m <;> rfl
@[simp] theorem hostOk_memSet (m : MemId) (x : Memory) (s : State) : hostOk (memSet m x s) = hostOk s := by
  cases m <;> rfl

@[simp] theorem fnOf_logFault (a b c d : Nat) (a1 : Nat) (s : State) : fnOf (logFault a b c d s) a1 = fnOf s a1 := rfl
@[simp] theorem queueOf_logFault (a b c d : Nat) (a1 : QRef) (s : State) : queueOf (logFault a b c d s) a1 = queueOf s a1 := rfl
@[simp] theorem cqOf_logFault (a b c d : Nat) (a1 b1 : Nat) (s : State) : cqOf (logFault a b c d s) a1 b1 = cqOf s a1 b1 := rfl
@[simp] theorem segOf_logFault (a b c d : Nat) (a1 b1 : Nat) (s : State) : segOf (logFault a b c d s) a1 b1 = segOf s a1 b1 := rfl
@[simp] theorem pageOf_logFault (a b c d : Nat) (a1 b1 c1 : Nat) (s : State) : pageOf (logFault a b c d s) a1 b1 c1 = pageOf s a1 b1 c1 := rfl
@[simp] theorem counterOf_logFault (a b c d : Nat) (a1 b1 : Nat) (s : State) : counterOf (logFault a b c d s) a1 b1 = counterOf s a1 b1 := rfl
@[simp] theorem grantOf_logFault (a b c d : Nat) (a1 : Nat) (s : State) : grantOf (logFault a b c d s) a1 = grantOf s a1 := rfl
@[simp] theorem coreOf_logFault (a b c d : Nat) (a1 : Nat) (s : State) : coreOf (logFault a b c d s) a1 = coreOf s a1 := rfl
@[simp] theorem ctxOf_logFault (a b c d : Nat) (a1 : W32) (s : State) : ctxOf (logFault a b c d s) a1 = ctxOf s a1 := rfl
@[simp] theorem linkOf_logFault (a b c d : Nat) (a1 : Nat) (s : State) : linkOf (logFault a b c d s) a1 = linkOf s a1 := rfl
@[simp] theorem portOf_logFault (a b c d : Nat) (a1 : Nat) (s : State) : portOf (logFault a b c d s) a1 = portOf s a1 := rfl
@[simp] theorem dieOf_logFault (a b c d : Nat) (a1 : Nat) (s : State) : dieOf (logFault a b c d s) a1 = dieOf s a1 := rfl
@[simp] theorem ledN_logFault (a b c d : Nat) (a1 b1 : Nat) (s : State) : ledN (logFault a b c d s) a1 b1 = ledN s a1 b1 := rfl
@[simp] theorem memGet_logFault (a b c d : Nat) (a1 : MemId) (s : State) : memGet a1 (logFault a b c d s) = memGet a1 s := rfl
@[simp] theorem ownId_logFault (a b c d : Nat) (s : State) : ownId (logFault a b c d s) = ownId s := rfl
@[simp] theorem hostOk_logFault (a b c d : Nat) (s : State) : hostOk (logFault a b c d s) = hostOk s := rfl

/-! ## What the setters write -/

@[simp] theorem fnOf_setFn (f g : Nat) (x : Fn) (s : State) : fnOf (setFn f x s) g = if g = f then x else fnOf s g :=
  tget_tset _ _ _ _ _

@[simp] theorem fnOf_modFn (f g : Nat) (h : Fn → Fn) (s : State) :
    fnOf (modFn f h s) g = if g = f then h (fnOf s f) else fnOf s g := fnOf_setFn _ _ _ _

@[simp] theorem queueOf_setQueue (q : QRef) (x : Queue) (s : State) : queueOf (setQueue q x s) q = x := by
  unfold queueOf setQueue
  cases q.kind <;> simp

@[simp] theorem queueOf_modQueue (q : QRef) (g : Queue → Queue) (s : State) : queueOf (modQueue q g s) q = g (queueOf s q) :=
  queueOf_setQueue _ _ _

@[simp] theorem grantOf_setQueue (q : QRef) (x : Queue) (s : State) (f : Nat) : grantOf (setQueue q x s) f = grantOf s f := by
  unfold grantOf setQueue
  cases q.kind <;> simp only [fnOf_modFn]
  · split
    · subst_vars; rfl
    · rfl
  · split
    · subst_vars; rfl
    · rfl
  · rfl

@[simp] theorem grantOf_modQueue (q : QRef) (g : Queue → Queue) (s : State) (f : Nat) : grantOf (modQueue q g s) f = grantOf s f :=
  grantOf_setQueue _ _ _ _

/-- Another queue is as it was: one of another kind, of another function, or with another index. -/
theorem queueOf_setQueue_ne {q r : QRef}
    (h : r.kind ≠ q.kind ∨ (r.kind ≠ .admin ∧ r.fn ≠ q.fn) ∨ (r.kind ≠ .control ∧ r.index ≠ q.index)) (x : Queue) (s : State) :
    queueOf (setQueue q x s) r = queueOf s r := by
  obtain ⟨f, k, i⟩ := q
  obtain ⟨g, l, j⟩ := r
  have fns (t : State) (e : t.fns = s.fns) : fnOf t = fnOf s := by funext n; unfold fnOf; rw [e]
  cases k <;> cases l <;> by_cases hg : g = f <;> by_cases hj : j = i <;>
    simp_all [queueOf, setQueue]

@[simp] theorem cqOf_setCq (f r g q : Nat) (x : OutRing) (s : State) :
    cqOf (setCq f r x s) g q = if g = f ∧ q = r then x else cqOf s g q := by
  simp only [cqOf, setCq, fnOf_modFn]
  by_cases h : g = f <;> simp [h]

@[simp] theorem coreOf_setCore (c d : Nat) (x : Core) (s : State) : coreOf (setCore c x s) d = if d = c then x else coreOf s d :=
  tget_tset _ _ _ _ _

@[simp] theorem coreOf_modCore (c d : Nat) (g : Core → Core) (s : State) :
    coreOf (modCore c g s) d = if d = c then g (coreOf s c) else coreOf s d := coreOf_setCore _ _ _ _

@[simp] theorem ctxOf_setCtx (p r : W32) (c : Ctx) (s : State) : ctxOf (setCtx p c s) r = if r = p then some c else ctxOf s r := by
  simp only [ctxOf, setCtx, tfind_tset]
  by_cases h : r = p
  · simp [h]
  · rw [if_neg h, if_neg (fun e => h (BitVec.eq_of_toNat_eq e))]

@[simp] theorem ctxOf_modCtx (p r : W32) (g : Ctx → Ctx) (s : State) :
    ctxOf (modCtx p g s) r = if r = p then (ctxOf s p).map g else ctxOf s r := by
  unfold modCtx
  split
  · rename_i c h; simp [h]
  · rename_i h
    split
    · subst_vars; simp [h]
    · rfl

@[simp] theorem linkOf_setLink (l k : Nat) (x : Link) (s : State) : linkOf (setLink l x s) k = if k = l then x else linkOf s k :=
  tget_tset _ _ _ _ _

@[simp] theorem linkOf_modLink (l k : Nat) (g : Link → Link) (s : State) :
    linkOf (modLink l g s) k = if k = l then g (linkOf s l) else linkOf s k := linkOf_setLink _ _ _ _

@[simp] theorem portOf_setPort (p k : Nat) (x : Port) (s : State) : portOf (setPort p x s) k = if k = p then x else portOf s k :=
  tget_tset _ _ _ _ _

@[simp] theorem portOf_modPort (p k : Nat) (g : Port → Port) (s : State) :
    portOf (modPort p g s) k = if k = p then g (portOf s p) else portOf s k := portOf_setPort _ _ _ _

@[simp] theorem dieOf_modDie (d k : Nat) (g : Die → Die) (s : State) :
    dieOf (modDie d g s) k = if k = d then g (dieOf s d) else dieOf s k := tget_tset _ _ _ _ _

@[simp] theorem keyOf_setKey (i : Nat) (e : KeyEntry) (s : State) : keyOf (setKey i e s) i = e := by
  simp [keyOf, setKey]

@[simp] theorem memGet_memSet (m : MemId) (x : Memory) (s : State) : memGet m (memSet m x s) = x := by cases m <;> rfl

/-- Another memory is as it was. -/
theorem memGet_memSet_ne {m n : MemId} (h : n ≠ m) (x : Memory) (s : State) : memGet n (memSet m x s) = memGet n s := by
  cases m <;> cases n <;> first | exact absurd rfl h | rfl

@[simp] theorem outEmit_out (o : Output) (s : State) : (outEmit o s).out = o :: s.out := rfl
@[simp] theorem advanceTo_now (t : Nat) (s : State) : (advanceTo t s).now = max s.now t := rfl
@[simp] theorem drawn_free (s : State) : (drawn s).free = s.free + 1 := rfl

/-- A counter of the Ledger after one of them has moved on. -/
@[simp] theorem bump_counters (i j n k : Nat) (s : State) : tget 0 (bump i j n s).ledger.counters k =
    if k = i * 256 + j then tget 0 s.ledger.counters k + BitVec.ofNat 64 n else tget 0 s.ledger.counters k := by
  simp only [bump, tget_tset]
  split <;> simp_all

@[simp] theorem bump_values (i j n : Nat) (s : State) : (bump i j n s).ledger.values = s.ledger.values := rfl

/-! ## Taking an entry -/

/-- Everything `offer` does to an entry that is at its queue's head and that nothing holds: the head moves on, the entry joins
those in progress, and it starts. -/
theorem offer_takes {hold : State → QRef → Entry → Hold} {start : QRef → Nat → Entry → State → State} {q : QRef} {e : Entry}
    {s : State} (h1 : queueServed s q = true) (h2 : headIs s q e = true) (h3 : entryMalformed s q e = false)
    (h4 : roomToTake s q = true) (h5 : fenceBlocks s q e = false)
    (h8 : (q.kind != .admin && adminReady s) = false) (h6 : entryShaped s q e = true) (h7 : hold s q e = .none) :
    offer hold start q e s = start q (queueOf s q).head e (advanceHead e q s) := by
  simp [offer, h1, h2, h3, h4, h5, h6, h7, h8]

/-- An entry that is not the head of a queue in service is left where it is. -/
theorem offer_not_served {hold : State → QRef → Entry → Hold} {start : QRef → Nat → Entry → State → State} {q : QRef}
    {e : Entry} {s : State} (h : (queueServed s q && headIs s q e) = false) : offer hold start q e s = s := by
  simp [offer, h]

/-- Taking an entry changes its own queue and no context. -/
@[simp] theorem advanceHead_enpin (e : Entry) (q : QRef) (s : State) : (advanceHead e q s).enpin = s.enpin := by
  unfold advanceHead; simp

/-- Right after it has been taken an entry is in progress, if no earlier one in progress has its index. -/
theorem takenAt_advanceHead (e : Entry) (q : QRef) (s : State)
    (h : (queueOf s q).taken.all (fun t => !(t.idx == (queueOf s q).head && t.status.isNone)) = true) :
    takenAt? (advanceHead e q s) q (queueOf s q).head =
      some { idx := (queueOf s q).head, entry := e, takenAt := s.now, info := entryInfo e } := by
  have h0 : (queueOf s q).taken.filter (fun t => t.idx == (queueOf s q).head && t.status.isNone) = [] := by
    rw [List.filter_eq_nil_iff]
    intro t ht
    have := List.all_eq_true.mp h t ht
    revert this
    cases (t.idx == (queueOf s q).head && t.status.isNone) <;> simp
  simp [takenAt?, advanceHead, List.filter_append, h0]

end Sys2Proof.Laws
end

