-- ==== Sys2Proof/Laws/Shared.lean ====
section
/-! SUPPORT. What the reporting operations that nearly every command ends with can do: ring records, events, completions. Each is
stated once; proofs about commands cite these and do not unfold the operations. -/

namespace Sys2Proof.Laws
open Sys2Proof Sys2Proof.Machine

/-- What a report never changes in a function. -/
def fnKey (x : Fn) : VState × Nat × Option Grant × Option VOp × Table Segment × Table Binding × KeyPage × Bool × Telem :=
  (x.vstate, x.haltStatus, x.grant, x.vop, x.segs, x.bindings, x.keyPage, x.flrDraining, x.telem)

/-- The parts of the module that a report never changes: all but the rings, the queues' own registers, the counters, the pages'
hold counts, the memories and what leaves the module. -/
structure Quiet (s t : State) : Prop where
  pending : t.pending = s.pending
  part : t.part = s.part
  now : t.now = s.now
  free : t.free = s.free
  keys : t.keys = s.keys
  enpin : t.enpin = s.enpin
  shapers : t.shapers = s.shapers
  wall : t.wall = s.wall
  coll : t.coll = s.coll
  compute : t.compute = s.compute
  mig : t.mig = s.mig
  pools : t.pools = s.pools
  eth : t.eth = s.eth
  host : t.host = s.host
  sec : t.sec = s.sec
  power : t.power = s.power
  board : t.board = s.board
  values : t.ledger.values = s.ledger.values
  fn : ∀ f, fnKey (fnOf t f) = fnKey (fnOf s f)

/-- Every queue is as it was. -/
def QKeep (s t : State) : Prop := ∀ q, queueOf t q = queueOf s q

theorem Quiet.rfl' (s : State) : Quiet s s := by constructor <;> intros <;> rfl

theorem Quiet.trans {s t u : State} (h : Quiet s t) (k : Quiet t u) : Quiet s u where
  pending := k.pending.trans h.pending
  part := k.part.trans h.part
  now := k.now.trans h.now
  free := k.free.trans h.free
  keys := k.keys.trans h.keys
  enpin := k.enpin.trans h.enpin
  shapers := k.shapers.trans h.shapers
  wall := k.wall.trans h.wall
  coll := k.coll.trans h.coll
  compute := k.compute.trans h.compute
  mig := k.mig.trans h.mig
  pools := k.pools.trans h.pools
  eth := k.eth.trans h.eth
  host := k.host.trans h.host
  sec := k.sec.trans h.sec
  power := k.power.trans h.power
  board := k.board.trans h.board
  values := k.values.trans h.values
  fn f := (k.fn f).trans (h.fn f)

theorem QKeep.rfl' (s : State) : QKeep s s := fun _ => rfl
theorem QKeep.trans {s t u : State} (h : QKeep s t) (k : QKeep t u) : QKeep s u := fun q => (k q).trans (h q)

/-! ## Setters -/

theorem quiet_modFn (f : Nat) (g : Fn → Fn) (s : State) (h : fnKey (g (fnOf s f)) = fnKey (fnOf s f)) : Quiet s (modFn f g s) := by
  constructor <;> try rfl
  intro k
  simp only [fnOf_modFn]
  split
  · subst_vars; exact h
  · rfl

theorem qkeep_modFn (f : Nat) (g : Fn → Fn) (s : State) (h : (g (fnOf s f)).sends = (fnOf s f).sends)
    (k : (g (fnOf s f)).control = (fnOf s f).control) : QKeep s (modFn f g s) := by
  intro q
  unfold queueOf
  cases q.kind <;> simp only [fnOf_modFn, modFn_admins]
  · split
    · rename_i e; rw [e, h]
    · rfl
  · split
    · rename_i e; rw [e, k]
    · rfl

theorem quiet_modQueue (q : QRef) (g : Queue → Queue) (s : State) : Quiet s (modQueue q g s) := by
  unfold modQueue setQueue
  cases q.kind
  · exact quiet_modFn _ _ _ rfl
  · exact quiet_modFn _ _ _ rfl
  · constructor <;> intros <;> rfl

theorem qkeep_fns {s t : State} (h : t.fns = s.fns) (k : t.admins = s.admins) : QKeep s t := by
  intro q; unfold queueOf fnOf; rw [h, k]

theorem quiet_memSet (m : MemId) (x : Memory) (s : State) : Quiet s (memSet m x s) := by
  cases m <;> constructor <;> intros <;> rfl

theorem quiet_foldS {α : Type} {f : α → State → State} (hf : ∀ x t, Quiet t (f x t)) (l : List α) (s : State) :
    Quiet s (foldS f l s) := by
  induction l generalizing s with
  | nil => exact Quiet.rfl' s
  | cons x l ih => exact (hf x s).trans (ih _)

theorem qkeep_foldS {α : Type} {f : α → State → State} (hf : ∀ x t, QKeep t (f x t)) (l : List α) (s : State) :
    QKeep s (foldS f l s) := by
  induction l generalizing s with
  | nil => exact QKeep.rfl' s
  | cons x l ih => exact (hf x s).trans (ih _)

theorem quiet_memWrite (m : MemId) (a : Nat) (b : List Byte) (s : State) : Quiet s (memWrite m a b s) := by
  unfold memWrite
  refine Quiet.trans ?_ (quiet_memSet _ _ _)
  unfold repairBad
  split
  · exact Quiet.rfl' s
  · dsimp only
    generalize hu : foldS (fun k t => memSet m (mclear (memGet m t) (k - memCode m * 2 ^ 48) (granule m)) t) _ s = u
    have h : Quiet s u := by rw [← hu]; exact quiet_foldS (fun k t => quiet_memSet _ _ t) _ _
    exact h.trans (by constructor <;> intros <;> rfl)

theorem foldS_memSet_fns {α : Type} (m : MemId) (g : α → State → Memory) (l : List α) (s : State) :
    (foldS (fun k t => memSet m (g k t) t) l s).fns = s.fns ∧ (foldS (fun k t => memSet m (g k t) t) l s).admins = s.admins := by
  induction l generalizing s with
  | nil => exact ⟨rfl, rfl⟩
  | cons x l ih =>
    obtain ⟨h, k⟩ := ih (memSet m (g x s) s)
    exact ⟨h.trans (memSet_fns _ _ _), k.trans (memSet_admins _ _ _)⟩

theorem memWrite_fns (m : MemId) (a : Nat) (b : List Byte) (s : State) : (memWrite m a b s).fns = s.fns := by
  unfold memWrite
  simp only [memSet_fns]
  unfold repairBad
  split
  · rfl
  · exact (foldS_memSet_fns m _ _ _).1

theorem memWrite_admins (m : MemId) (a : Nat) (b : List Byte) (s : State) : (memWrite m a b s).admins = s.admins := by
  unfold memWrite
  simp only [memSet_admins]
  unfold repairBad
  split
  · rfl
  · exact (foldS_memSet_fns m _ _ _).2

/-! ## Records and events -/

theorem quiet_ringStore (ks : Nat) (r : OutRing) (c : Rec) (s : State) : Quiet s (ringStore ks r c s) := quiet_memWrite _ _ _ _

theorem ringStore_fns (ks : Nat) (r : OutRing) (c : Rec) (s : State) : (ringStore ks r c s).fns = s.fns := memWrite_fns _ _ _ _
theorem ringStore_admins (ks : Nat) (r : OutRing) (c : Rec) (s : State) : (ringStore ks r c s).admins = s.admins :=
  memWrite_admins _ _ _ _

theorem qkeep_ringStore (ks : Nat) (r : OutRing) (c : Rec) (s : State) : QKeep s (ringStore ks r c s) :=
  qkeep_fns (ringStore_fns _ _ _ _) (ringStore_admins _ _ _ _)

theorem quiet_msix (f v : Nat) (s : State) : Quiet s (msix f v s) := by
  unfold msix
  split
  · exact Quiet.rfl' s
  · split
    · constructor <;> intros <;> rfl
    · exact quiet_modFn _ _ _ rfl

theorem qkeep_msix (f v : Nat) (s : State) : QKeep s (msix f v s) := by
  unfold msix
  split
  · exact QKeep.rfl' s
  · split
    · exact qkeep_fns rfl rfl
    · exact qkeep_modFn _ _ _ rfl rfl

theorem quiet_modCq (f r : Nat) (g : OutRing → OutRing) (s : State) : Quiet s (modCq f r g s) := by
  unfold modCq setCq; exact quiet_modFn _ _ _ rfl
theorem qkeep_modCq (f r : Nat) (g : OutRing → OutRing) (s : State) : QKeep s (modCq f r g s) := by
  unfold modCq setCq; exact qkeep_modFn _ _ _ rfl rfl
theorem quiet_setCq (f r : Nat) (g : OutRing) (s : State) : Quiet s (setCq f r g s) := by
  unfold setCq; exact quiet_modFn _ _ _ rfl
theorem qkeep_setCq (f r : Nat) (g : OutRing) (s : State) : QKeep s (setCq f r g s) := by
  unfold setCq; exact qkeep_modFn _ _ _ rfl rfl

theorem quiet_cqWriteNow (f r : Nat) (c : Rec) (s : State) : Quiet s (cqWriteNow f r c s) := by
  unfold cqWriteNow
  have h := (quiet_ringStore 0 (cqOf s f r) c s).trans
    (quiet_setCq f r { (cqOf s f r).pushed with lastStatus := rf c 0 1 } (ringStore 0 (cqOf s f r) c s))
  dsimp only
  split
  · exact h.trans (quiet_msix _ _ _)
  · exact h

theorem qkeep_cqWriteNow (f r : Nat) (c : Rec) (s : State) : QKeep s (cqWriteNow f r c s) := by
  unfold cqWriteNow
  have h := (qkeep_ringStore 0 (cqOf s f r) c s).trans
    (qkeep_setCq f r { (cqOf s f r).pushed with lastStatus := rf c 0 1 } (ringStore 0 (cqOf s f r) c s))
  dsimp only
  split
  · exact h.trans (qkeep_msix _ _ _)
  · exact h

theorem quiet_eqWriteNow (f : Nat) (c : Rec) (s : State) : Quiet s (eqWriteNow f c s) := by
  unfold eqWriteNow
  have h := (quiet_ringStore 0 (fnOf s f).eq c s).trans
    (quiet_modFn f (fun x => { x with eq := (fnOf s f).eq.pushed }) (ringStore 0 (fnOf s f).eq c s) rfl)
  dsimp only
  split
  · exact h.trans (quiet_msix _ _ _)
  · exact h

theorem qkeep_eqWriteNow (f : Nat) (c : Rec) (s : State) : QKeep s (eqWriteNow f c s) := by
  unfold eqWriteNow
  have h := (qkeep_ringStore 0 (fnOf s f).eq c s).trans
    (qkeep_modFn f (fun x => { x with eq := (fnOf s f).eq.pushed }) (ringStore 0 (fnOf s f).eq c s) rfl rfl)
  dsimp only
  split
  · exact h.trans (qkeep_msix _ _ _)
  · exact h

theorem quiet_eqOverflow (f : Nat) (s : State) : Quiet s (eqOverflow f s) := by
  unfold eqOverflow
  split
  · exact (quiet_modFn f (fun x => { x with eventsDropped := 0 }) s rfl).trans (quiet_eqWriteNow _ _ _)
  · exact Quiet.rfl' s

theorem qkeep_eqOverflow (f : Nat) (s : State) : QKeep s (eqOverflow f s) := by
  unfold eqOverflow
  split
  · exact (qkeep_modFn f (fun x => { x with eventsDropped := 0 }) s rfl rfl).trans (qkeep_eqWriteNow _ _ _)
  · exact QKeep.rfl' s

theorem quiet_raiseOn (f a b : Nat) (m : W32) (c d e : Nat) (s : State) : Quiet s (raiseOn f a b m c d e s) := by
  unfold raiseOn
  refine (quiet_eqOverflow f s).trans ?_
  dsimp only
  split
  · exact quiet_eqWriteNow _ _ _
  · exact quiet_modFn _ _ _ rfl

theorem qkeep_raiseOn (f a b : Nat) (m : W32) (c d e : Nat) (s : State) : QKeep s (raiseOn f a b m c d e s) := by
  unfold raiseOn
  refine (qkeep_eqOverflow f s).trans ?_
  dsimp only
  split
  · exact qkeep_eqWriteNow _ _ _
  · exact qkeep_modFn _ _ _ rfl rfl

/-- An event changes nothing that `Quiet` names. -/
theorem quiet_raiseEvent (f a b : Nat) (m : W32) (c d e : Nat) (s : State) : Quiet s (raiseEvent f a b m c d e s) := by
  unfold raiseEvent; split <;> exact quiet_raiseOn _ _ _ _ _ _ _ _

theorem qkeep_raiseEvent (f a b : Nat) (m : W32) (c d e : Nat) (s : State) : QKeep s (raiseEvent f a b m c d e s) := by
  unfold raiseEvent; split <;> exact qkeep_raiseOn _ _ _ _ _ _ _ _

theorem quiet_cqFull (f r d q : Nat) (s : State) : Quiet s (cqFull f r d q s) := by
  unfold cqFull
  split
  · exact Quiet.rfl' s
  · exact (quiet_modCq _ _ _ _).trans (quiet_raiseEvent _ _ _ _ _ _ _ _)

theorem qkeep_cqFull (f r d q : Nat) (s : State) : QKeep s (cqFull f r d q s) := by
  unfold cqFull
  split
  · exact QKeep.rfl' s
  · exact (qkeep_modCq _ _ _ _).trans (qkeep_raiseEvent _ _ _ _ _ _ _ _)

theorem quiet_recWrite (q : QRef) (ring : Nat) (c : Rec) (s : State) : Quiet s (recWrite q ring c s) :=
  (quiet_modQueue q (fun x => { x with lastStatus := rf c 0 1 }) s).trans (quiet_cqWriteNow _ _ _ _)

/-- A completion record changes nothing that `Quiet` names. -/
theorem quiet_emitRec (q : QRef) (c : Rec) (s : State) : Quiet s (emitRec q c s) := by
  unfold emitRec
  dsimp only
  split
  · exact Quiet.rfl' s
  · split
    · split
      · exact (quiet_modCq _ _ _ _).trans (quiet_cqFull _ _ _ _ _)
      · exact quiet_modCq _ _ _ _
    · exact quiet_recWrite _ _ _ _

/-- A completion record leaves its queue as it was, but for the last status that it shows. -/
theorem queueOf_emitRec (q : QRef) (c : Rec) (s : State) :
    ∃ st, queueOf (emitRec q c s) q = { queueOf s q with lastStatus := st } := by
  unfold emitRec
  dsimp only
  split
  · exact ⟨_, rfl⟩
  · split
    · refine ⟨(queueOf s q).lastStatus, ?_⟩
      split
      · rw [qkeep_cqFull, qkeep_modCq]
      · rw [qkeep_modCq]
    · refine ⟨rf c 0 1, ?_⟩
      unfold recWrite
      rw [qkeep_cqWriteNow, queueOf_modQueue]

/-! ## Completion -/

theorem quiet_writeBatches (q : QRef) (n : Nat) (s : State) : Quiet s (writeBatches q n s) := by
  induction n generalizing s with
  | zero => exact Quiet.rfl' s
  | succ n ih =>
    unfold writeBatches
    dsimp only
    split
    · split
      · exact (quiet_modQueue _ _ _).trans ((quiet_emitRec _ _ _).trans (ih _))
      · exact Quiet.rfl' s
    · exact Quiet.rfl' s

/-- Writing the records that are due drops entries from the front and changes nothing else of the queue but its last status. -/
theorem queueOf_writeBatches (q : QRef) (n : Nat) (s : State) :
    ∃ k st, queueOf (writeBatches q n s) q = { queueOf s q with taken := (queueOf s q).taken.drop k, lastStatus := st } := by
  induction n generalizing s with
  | zero => exact ⟨0, (queueOf s q).lastStatus, by simp [writeBatches]⟩
  | succ n ih =>
    unfold writeBatches
    dsimp only
    split
    · split
      · rename_i k _ _ t _
        obtain ⟨j, st, h⟩ := ih (emitRec q (entryRec q t (t.status.getD 0) k)
          (modQueue q (fun x => { x with taken := x.taken.drop k }) s))
        obtain ⟨st', h'⟩ := queueOf_emitRec q (entryRec q t (t.status.getD 0) k)
          (modQueue q (fun x => { x with taken := x.taken.drop k }) s)
        refine ⟨k + j, st, ?_⟩
        rw [h, h']
        simp [List.drop_drop]
      · exact ⟨0, (queueOf s q).lastStatus, by simp⟩
    · exact ⟨0, (queueOf s q).lastStatus, by simp⟩

theorem quiet_writeEach (q : QRef) (s : State) : Quiet s (writeEach q s) := by
  unfold writeEach
  exact (quiet_modQueue _ _ _).trans (quiet_foldS (fun _ _ => quiet_emitRec _ _ _) _ _)

theorem quiet_settleQueue (q : QRef) (s : State) : Quiet s (settleQueue q s) := by
  unfold settleQueue
  dsimp only
  split
  · exact quiet_modQueue _ _ _
  · exact Quiet.rfl' s

theorem quiet_modPage (f g p : Nat) (h : Page → Page) (s : State) : Quiet s (modPage f g p h s) := quiet_modFn _ _ _ rfl
theorem qkeep_modPage (f g p : Nat) (h : Page → Page) (s : State) : QKeep s (modPage f g p h s) := qkeep_modFn _ _ _ rfl rfl

theorem quiet_holdPages (f a n : Nat) (up : Bool) (s : State) : Quiet s (holdPages f a n up s) := by
  unfold holdPages
  split
  · exact Quiet.rfl' s
  · split
    · split
      · exact quiet_foldS (fun _ _ => quiet_modPage _ _ _ _ _) _ _
      · exact Quiet.rfl' s
    · exact Quiet.rfl' s

theorem qkeep_holdPages (f a n : Nat) (up : Bool) (s : State) : QKeep s (holdPages f a n up s) := by
  unfold holdPages
  split
  · exact QKeep.rfl' s
  · split
    · split
      · exact qkeep_foldS (fun _ _ => qkeep_modPage _ _ _ _ _) _ _
      · exact QKeep.rfl' s
    · exact QKeep.rfl' s

theorem quiet_unhold (q : QRef) (t : Taken) (s : State) : Quiet s (unhold q t s) := by
  unfold unhold; split
  · exact quiet_holdPages _ _ _ _ _
  · exact Quiet.rfl' s

theorem qkeep_unhold (q : QRef) (t : Taken) (s : State) : QKeep s (unhold q t s) := by
  unfold unhold; split
  · exact qkeep_holdPages _ _ _ _ _
  · exact QKeep.rfl' s

theorem quiet_counterAdd (f c n : Nat) (s : State) : Quiet s (counterAdd f c n s) := by
  unfold counterAdd stampAdvance
  refine (quiet_modFn f _ s rfl).trans (quiet_foldS ?_ _ _)
  intro i t
  dsimp only
  split
  · split
    · constructor <;> intros <;> rfl
    · constructor <;> intros <;> rfl
  · exact Quiet.rfl' t

theorem qkeep_counterAdd (f c n : Nat) (s : State) : QKeep s (counterAdd f c n s) := by
  unfold counterAdd stampAdvance
  refine (qkeep_modFn f _ s rfl rfl).trans (qkeep_foldS ?_ _ _)
  intro i t
  dsimp only
  split
  · split <;> exact qkeep_fns rfl rfl
  · exact QKeep.rfl' t

theorem filter_live_drop {l : List Taken} {idx k : Nat}
    (h : l.filter (fun u => u.idx == idx && u.status.isNone) = []) :
    (l.drop k).filter (fun u => u.idx == idx && u.status.isNone) = [] := by
  rw [List.filter_eq_nil_iff] at h ⊢
  exact fun a ha => h a (List.mem_of_mem_drop ha)

theorem filter_live_done {l : List Taken} {idx : Nat} {t : Taken} (ht : t.status ≠ none) :
    (l.map (fun u => if u.idx = idx ∧ u.status.isNone = true then t else u)).filter
      (fun u => u.idx == idx && u.status.isNone) = [] := by
  rw [List.filter_eq_nil_iff]
  intro a ha
  obtain ⟨u, _, rfl⟩ := List.mem_map.mp ha
  split
  · cases h : t.status <;> simp_all
  · simp_all

/-- An entry ends well on a queue in service: it is in progress no more, its queue stays in service with its head where it is,
and nothing that `Quiet` names has changed. -/
theorem complete_ok {q : QRef} {idx st : Nat} {r : W64} {p : W32} {s : State} {t : Taken} (hst : st ≤ 2)
    (hf : isFatal s = false) (ht : takenAt? s q idx = some t) (ha : (queueOf s q).st = .active) (hc : (queueOf s q).closing = false) :
    Quiet s (complete q idx st r p s) ∧ takenAt? (complete q idx st r p s) q idx = none ∧
    (queueOf (complete q idx st r p s) q).head = (queueOf s q).head ∧
    (queueOf (complete q idx st r p s) q).phase = (queueOf s q).phase ∧
    (queueOf (complete q idx st r p s) q).st = .active := by
  simp only [complete, ht, completeWith, hf, isOkStatus, hst, decide_true, Bool.false_eq_true, if_false, if_true, true_and]
  generalize ht' : ({ t with status := some st, info := entryInfo t.entry, result := r, peer := p, cflags := 0 } : Taken) = t'
  have hs' : t'.status ≠ none := by rw [← ht']; simp
  generalize hu : unhold q t (modQueue q (fun x => { x with taken := x.taken.map (fun u =>
    if u.idx = idx ∧ u.status.isNone = true then t' else u) }) s) = u
  have q1 : Quiet s u := by rw [← hu]; exact (quiet_modQueue _ _ _).trans (quiet_unhold _ _ _)
  have e1 : queueOf u q = { queueOf s q with taken := (queueOf s q).taken.map (fun u =>
      if u.idx = idx ∧ u.status.isNone = true then t' else u) } := by
    rw [← hu, qkeep_unhold, queueOf_modQueue]
  generalize hv : (if q.kind ≠ QKind.admin ∧ bitOf (queueOf u q).size.toNat 28 = true then
      counterAdd (queueFn q) (fieldOf (queueOf u q).size.toNat 16 12) 1 u else u) = v
  have q2 : Quiet u v := by
    rw [← hv]; split
    · exact quiet_counterAdd _ _ _ _
    · exact Quiet.rfl' u
  have e2 : queueOf v q = queueOf u q := by
    rw [← hv]; split
    · exact qkeep_counterAdd _ _ _ _ q
    · rfl
  have hact : (queueOf u q).st = .active := by rw [e1]; exact ha
  have hne : ¬ (queueOf u q).st = .error := by rw [hact]; decide
  rw [if_neg hne]
  obtain ⟨k, l, e3⟩ := queueOf_writeBatches q ((queueOf u q).taken.length + 1) v
  have hcl : (queueOf (writeBatches q ((queueOf u q).taken.length + 1) v) q).closing = false := by
    rw [e3]; show (queueOf v q).closing = false; rw [e2, e1]; exact hc
  have hset : settleQueue q (writeBatches q ((queueOf u q).taken.length + 1) v) =
      writeBatches q ((queueOf u q).taken.length + 1) v := by
    unfold settleQueue; simp [hcl]
  rw [hset]
  refine ⟨(q1.trans q2).trans (quiet_writeBatches _ _ _), ?_, ?_, ?_, ?_⟩
  · unfold takenAt?
    rw [e3]
    show ((((queueOf v q).taken.drop k).filter _).head?) = none
    rw [e2, e1, filter_live_drop (filter_live_done hs')]
    rfl
  · rw [e3]; show (queueOf v q).head = _; rw [e2, e1]
  · rw [e3]; show (queueOf v q).phase = _; rw [e2, e1]
  · rw [e3]; show (queueOf v q).st = _; rw [e2]; exact hact

end Sys2Proof.Laws
end

