-- ==== Sys2Proof/Laws/Entries.lean ====
section
/-! SUPPORT. Entries: what taking one does to its queue, how a hold keeps one, and the messages that sending one queues. -/

namespace Sys2Proof.Laws
open Sys2Proof Sys2Proof.Machine

/-- The queue of an entry right after the entry has been taken. -/
theorem queueOf_advanceHead (e : Entry) (q : QRef) (s : State) : queueOf (advanceHead e q s) q =
    { queueOf s q with
      head := (ringNext (ringLog2 (queueOf s q).size) (queueOf s q).head (queueOf s q).phase).1
      phase := (ringNext (ringLog2 (queueOf s q).size) (queueOf s q).head (queueOf s q).phase).2
      hold := .none, heldEntry := none, headSince := none, tornCount := 0
      taken := (queueOf s q).taken ++ [{ idx := (queueOf s q).head, entry := e, takenAt := s.now, info := entryInfo e }] } := by
  simp [advanceHead]

theorem quiet_advanceHead (e : Entry) (q : QRef) (s : State) : Quiet s (advanceHead e q s) := quiet_modQueue _ _ _

/-- An entry that its own condition holds stays at the head, with the hold that names why. -/
theorem offer_holds {hold : State → QRef → Entry → Hold} {start : QRef → Nat → Entry → State → State} {q : QRef} {e : Entry}
    {s : State} (h1 : queueServed s q = true) (h2 : headIs s q e = true) (h3 : entryMalformed s q e = false)
    (h4 : roomToTake s q = true) (h5 : fenceBlocks s q e = false)
    (h8 : (q.kind != .admin && adminReady s) = false) (h6 : entryShaped s q e = true) (h7 : hold s q e ≠ .none) :
    offer hold start q e s = keepHead (hold s q e) e q s := by
  simp only [offer, h1, h2, h3, h4, h5, h6, h8]
  cases hh : hold s q e <;> simp_all

theorem keepHead_facts (h : Hold) (hn : h ≠ .none) (e : Entry) (q : QRef) (s : State) :
    (queueOf (keepHead h e q s) q).head = (queueOf s q).head ∧ (queueOf (keepHead h e q s) q).hold = h ∧
    (queueOf (keepHead h e q s) q).heldEntry = some e ∧ (queueOf (keepHead h e q s) q).taken = (queueOf s q).taken ∧
    (keepHead h e q s).enpin = s.enpin ∧ (keepHead h e q s).mems = s.mems := by
  simp [keepHead, hn]

/-! ## Messages -/

theorem chain_last (seg : Nat) (fuel start len : Nat) (hf : len < 32768 * seg * fuel) :
    ∃ a l, (chainOf seg fuel start len).getLast? = some (a, l) ∧ a + l = start + len ∧ l ≤ 32768 * seg := by
  induction fuel generalizing start len with
  | zero => omega
  | succ n ih =>
    unfold chainOf
    split
    · exact ⟨start, len, rfl, rfl, by omega⟩
    · obtain ⟨a, l, h, k, m⟩ := ih (start + 32768 * seg) (len - 32768 * seg) (by
        rw [Nat.mul_add] at hf; omega)
      refine ⟨a, l, ?_, by omega, m⟩
      rw [List.getLast?_cons, h]; rfl

theorem chain_fuel (seg len : Nat) (hs : 0 < seg) : len < 32768 * seg * (len / (32768 * seg) + 2) := by
  have h := Nat.lt_mul_div_succ len (show 0 < 32768 * seg by omega)
  exact Nat.lt_of_lt_of_le h (Nat.mul_le_mul_left _ (by omega))

theorem rangeFrom_getLast (a n : Nat) : (rangeFrom a (n + 1)).getLast? = some (a + n) := by
  induction n generalizing a with
  | zero => rfl
  | succ n ih =>
    rw [rangeFrom, List.getLast?_cons, ih]; simp; omega

theorem nthD_last {α : Type} (d x : α) (l : List α) (h : l.getLast? = some x) : nthD d l (l.length - 1) = x := by
  rw [List.getLast?_eq_getElem?] at h
  unfold nthD
  rw [h]; rfl

/-- The last message that `queueMsgs` adds: it ends where the bytes end, it is not chained, it alone carries the signal, and the
context's next identifier follows its own. -/
theorem queueMsgs_last (peer : W32) (proto : TxMsg) (len : Nat) (s : State) (k : Ctx) (hk : ctxOf s peer = some k)
    (hs : 0 < segmentSize s k.ethForm) : ∃ k' m, ctxOf (queueMsgs peer proto len s) peer = some k' ∧
      k'.msgs.getLast? = some m ∧ m.start + m.len = len ∧ m.chained = false ∧ m.sig = proto.sig ∧ m.owner = proto.owner ∧
      m.ptype = proto.ptype ∧ m.ext = proto.ext ∧ m.src = proto.src ∧ m.dstQp = proto.dstQp ∧ m.tc = proto.tc ∧
      m.secure = proto.secure ∧ m.msgId + 1 = k'.msgNext := by
  simp only [queueMsgs, hk]
  obtain ⟨a, l, hl, he, _⟩ := chain_last (segmentSize s k.ethForm) _ 0 len (chain_fuel _ len hs)
  generalize chainOf (segmentSize s k.ethForm) (len / (32768 * segmentSize s k.ethForm) + 2) 0 len = parts at hl ⊢
  have hn : parts ≠ [] := by intro h; rw [h] at hl; simp at hl
  obtain ⟨n, hn'⟩ : ∃ n, parts.length = n + 1 := ⟨parts.length - 1, by have := List.length_pos_iff.mpr hn; omega⟩
  have hlast : nthD (0, 0) parts n = (a, l) := by
    have := nthD_last (0, 0) (a, l) parts hl
    rwa [hn', Nat.add_sub_cancel] at this
  refine ⟨_, _, by rw [ctxOf_setCtx, if_pos rfl], by
    rw [hn']
    simp only [List.getLast?_append, List.getLast?_map, rangeFrom_getLast]
    simp only [Option.map_some, Option.some_or]; rfl, ?_⟩
  simp only [Nat.zero_add, hlast, hn', Nat.lt_irrefl, decide_false, if_true, true_and]
  exact ⟨by omega, by rw [BitVec.add_assoc, BitVec.ofNat_add]; rfl⟩

/-- A message that carries nothing is one packet, added at the end. -/
theorem queueMsgs_empty (peer : W32) (proto : TxMsg) (s : State) (k : Ctx) (hk : ctxOf s peer = some k) :
    queueMsgs peer proto 0 s = setCtx peer { k with
      msgs := k.msgs ++ [{ proto with msgId := k.msgNext, start := 0, len := 0, pktCount := 1, segment := segmentSize s k.ethForm,
                                      chained := false, solicit := proto.solicit }]
      msgNext := k.msgNext + 1 } (noteMiss peer k s) := by
  simp only [queueMsgs, hk]
  have : chainOf (segmentSize s k.ethForm) (0 / (32768 * segmentSize s k.ethForm) + 2) 0 0 = [(0, 0)] := by
    rw [Nat.zero_div]; unfold chainOf; rw [if_pos (Nat.zero_le _)]
  rw [this]
  have hp : packetsOf (segmentSize s k.ethForm) 0 = 1 := by
    unfold packetsOf cdiv
    cases segmentSize s k.ethForm with
    | zero => rfl
    | succ n =>
      have : (0 + (n + 1) - 1) / (n + 1) = 0 := Nat.div_eq_of_lt (by omega)
      rw [this]; rfl
  simp [rangeFrom, nthD, hp]

@[simp] theorem noteMiss_fns (p : W32) (c : Ctx) (s : State) : (noteMiss p c s).fns = s.fns := by
  unfold noteMiss; dsimp only; split <;> simp
@[simp] theorem noteMiss_admins (p : W32) (c : Ctx) (s : State) : (noteMiss p c s).admins = s.admins := by
  unfold noteMiss; dsimp only; split <;> simp
@[simp] theorem noteMiss_mems (p : W32) (c : Ctx) (s : State) : (noteMiss p c s).mems = s.mems := by
  unfold noteMiss; dsimp only; split <;> simp
@[simp] theorem noteMiss_keys (p : W32) (c : Ctx) (s : State) : (noteMiss p c s).keys = s.keys := by
  unfold noteMiss; dsimp only; split <;> simp
@[simp] theorem noteMiss_enpin (p : W32) (c : Ctx) (s : State) : (noteMiss p c s).enpin = s.enpin := by
  unfold noteMiss; dsimp only; split <;> simp

@[simp] theorem queueMsgs_fns (p : W32) (m : TxMsg) (n : Nat) (s : State) : (queueMsgs p m n s).fns = s.fns := by
  unfold queueMsgs; split
  · rfl
  · exact noteMiss_fns _ _ _
@[simp] theorem queueMsgs_admins (p : W32) (m : TxMsg) (n : Nat) (s : State) : (queueMsgs p m n s).admins = s.admins := by
  unfold queueMsgs; split
  · rfl
  · exact noteMiss_admins _ _ _
@[simp] theorem queueMsgs_mems (p : W32) (m : TxMsg) (n : Nat) (s : State) : (queueMsgs p m n s).mems = s.mems := by
  unfold queueMsgs; split
  · rfl
  · exact noteMiss_mems _ _ _
@[simp] theorem queueMsgs_keys (p : W32) (m : TxMsg) (n : Nat) (s : State) : (queueMsgs p m n s).keys = s.keys := by
  unfold queueMsgs; split
  · rfl
  · exact noteMiss_keys _ _ _

/-- Sending an entry to a module that has a context: its flag of waiting for one goes, and its messages are queued. -/
theorem sendEntry_known {q : QRef} {idx : Nat} {e : Entry} {s : State} {k : Ctx} (hd : destReady s (eDest e) = true)
    (hk : ctxOf s (eDest e) = some k) : sendEntry q idx e s =
      (let u := modQueue q (fun x => { x with taken := x.taken.map (fun t =>
        if t.idx = idx ∧ t.status.isNone = true then { t with waitsContext := false } else t) }) s
       let v := queueMsgs (eDest e) (entryProto u q idx e (entryPtype (eOp e)) (entryExt u q e)
         (.va (queueFn q) (BitVec.ofNat 64 (eLocal e)))) (entryPayload e) u
       if eOp e = 0x03 ∨ eOp e = 0x04 ∨ eOp e = 0x05 then
         modCtx (eDest e) (fun c => { c with reqs := c.reqs ++
           [{ msgId := nextMsgId u (eDest e), owner := .entry q idx, fn := queueFn q, localVa := BitVec.ofNat 64 (eLocal e),
              length := eLength e }] }) v
       else v) := by
  simp only [sendEntry, hd, Bool.not_true, Bool.false_eq_true, if_false, allocCtx, hk]

/-- The entries in progress keep their entries when only their flags change. -/
theorem takenAt_map {l : List Taken} {idx : Nat} {f : Taken → Taken} (h1 : ∀ t, (f t).idx = t.idx) (h2 : ∀ t, (f t).status = t.status) :
    ((l.map f).filter (fun t => t.idx == idx && t.status.isNone)).head? =
      ((l.filter (fun t => t.idx == idx && t.status.isNone)).head?).map f := by
  induction l with
  | nil => rfl
  | cons t l ih =>
    simp only [List.map_cons, List.filter_cons, h1, h2]
    split
    · rfl
    · exact ih

end Sys2Proof.Laws
end

