-- ==== Sys2Proof/Laws/Memory.lean ====
section
/-! SUPPORT. The byte memories: every operation keeps the canonical form, and reads answer what was written. -/

namespace Sys2Proof.Laws

open Sys2Proof Sys2Proof.Machine

/-- The canonical form as a proposition: what is listed is not zero, and addresses rise from `lo` on. -/
def Above (lo : Nat) (m : Memory) : Prop := ∀ c ∈ m, lo ≤ c.1

theorem mwf_tail {c : Host.Cell} {m : Memory} (h : mwf (c :: m) = true) : mwf m = true := by
  cases m with
  | nil => rfl
  | cons d m => simp only [mwf, Bool.and_eq_true] at h; exact h.2

theorem mwf_head_nonzero {c : Host.Cell} {m : Memory} (h : mwf (c :: m) = true) : c.2 ≠ 0 := by
  cases m with
  | nil => simpa [mwf] using h
  | cons d m => simp only [mwf, Bool.and_eq_true, bne_iff_ne, decide_eq_true_eq] at h; exact h.1.1

theorem mwf_above {c : Host.Cell} {m : Memory} (h : mwf (c :: m) = true) : Above (c.1 + 1) m := by
  induction m generalizing c with
  | nil => intro d hd; cases hd
  | cons d m ih =>
    have hd : c.1 < d.1 := by simp only [mwf, Bool.and_eq_true, decide_eq_true_eq] at h; exact h.1.2
    intro e he
    rcases List.mem_cons.mp he with rfl | he
    · exact hd
    · have := ih (mwf_tail h) e he; omega

theorem mwf_cons {c : Host.Cell} {m : Memory} (hc : c.2 ≠ 0) (hm : mwf m = true) (ha : Above (c.1 + 1) m) :
    mwf (c :: m) = true := by
  cases m with
  | nil => simpa [mwf] using hc
  | cons d m =>
    have := ha d (List.mem_cons_self ..)
    simp only [mwf, Bool.and_eq_true, bne_iff_ne, decide_eq_true_eq]
    exact ⟨⟨hc, by omega⟩, hm⟩

theorem above_mwrite {lo a : Nat} {b : Byte} {m : Memory} (h : Above lo m) (ha : lo ≤ a) : Above lo (mwrite m a b) := by
  induction m with
  | nil => intro c hc; simp only [mwrite] at hc; split at hc <;> simp at hc; subst hc; exact ha
  | cons d m ih =>
    have hd := h d (List.mem_cons_self ..)
    have hm : Above lo m := fun c hc => h c (List.mem_cons_of_mem _ hc)
    intro c hc
    simp only [mwrite] at hc
    split at hc
    · split at hc
      · exact h c hc
      · rcases List.mem_cons.mp hc with rfl | hc
        · exact ha
        · exact h c hc
    · split at hc
      · split at hc
        · exact hm c hc
        · rcases List.mem_cons.mp hc with rfl | hc
          · exact ha
          · exact hm c hc
      · rcases List.mem_cons.mp hc with rfl | hc
        · exact hd
        · exact ih hm c hc

/-- A write keeps the canonical form. -/
theorem mwf_mwrite {m : Memory} (a : Nat) (b : Byte) (h : mwf m = true) : mwf (mwrite m a b) = true := by
  induction m with
  | nil => simp only [mwrite]; split <;> simp_all [mwf]
  | cons d m ih =>
    simp only [mwrite]
    split
    · split
      · exact h
      · next hlt hb => exact mwf_cons hb h (fun c hc => by
          rcases List.mem_cons.mp hc with rfl | hc
          · exact hlt
          · have := mwf_above h c hc; omega)
    · split
      · next hlt he =>
        split
        · exact mwf_tail h
        · next hb => exact mwf_cons hb (mwf_tail h) (fun c hc => by
            have := mwf_above h c hc; simp only at *; omega)
      · next hlt he =>
        exact mwf_cons (mwf_head_nonzero h) (ih (mwf_tail h)) (above_mwrite (mwf_above h) (by omega))

theorem mwf_mwriteN (bs : List Byte) {m : Memory} (a : Nat) (h : mwf m = true) : mwf (mwriteN m a bs) = true := by
  induction bs generalizing m a with
  | nil => exact h
  | cons b bs ih => exact ih (a + 1) (mwf_mwrite a b h)

theorem mwf_filter (p : Host.Cell → Bool) {m : Memory} (h : mwf m = true) : mwf (m.filter p) = true := by
  induction m with
  | nil => rfl
  | cons c m ih =>
    simp only [List.filter_cons]
    split
    · exact mwf_cons (mwf_head_nonzero h) (ih (mwf_tail h)) (fun d hd => mwf_above h d (List.mem_filter.mp hd).1)
    · exact ih (mwf_tail h)

theorem mwf_mclear {m : Memory} (a n : Nat) (h : mwf m = true) : mwf (mclear m a n) = true := mwf_filter _ h

/-! ## Reads after writes -/

theorem mread_above {m : Memory} {a lo : Nat} (h : Above lo m) (ha : a < lo) : mread m a = 0 := by
  cases m with
  | nil => rfl
  | cons c m =>
    have := h c (List.mem_cons_self ..)
    simp only [mread]
    rw [if_neg (by omega), if_pos (by omega)]

/-- A read answers the byte written last, and other addresses read as before. -/
theorem mread_mwrite {m : Memory} (a : Nat) (b : Byte) (x : Nat) (h : mwf m = true) :
    mread (mwrite m a b) x = if x = a then b else mread m x := by
  induction m with
  | nil =>
    simp only [mwrite]
    split
    · next hb => simp [mread, hb]
    · simp only [mread]; split <;> simp_all
  | cons c m ih =>
    simp only [mwrite]
    have hab := mwf_above h
    split
    · next hlt =>
      split
      · next hb =>
        split
        · next hx => subst hx; subst hb; simp only [mread]; rw [if_neg (by omega), if_pos hlt]
        · rfl
      · simp only [mread]
        split
        · rfl
        · split
          · rw [if_neg (by omega), if_pos (by omega)]
          · rfl
    · split
      · next hlt he =>
        split
        · next hb =>
          split
          · next hx =>
            subst hx; subst hb; subst he; exact mread_above hab (by omega)
          · next hx =>
            simp only [mread]
            rw [if_neg (by omega)]
            split
            · exact mread_above hab (by omega)
            · rfl
        · simp only [mread]
          split
          · rfl
          · rw [if_neg (show ¬ x = c.1 by omega), he]
      · next hlt he =>
        simp only [mread]
        split
        · next hx => rw [if_neg (by omega)]
        · split
          · next hx => rw [if_neg (by omega)]
          · exact ih (mwf_tail h)

/-- Reading outside the bytes written gives what reading before gave. -/
theorem mread_mwriteN (bs : List Byte) {m : Memory} (a x : Nat) (h : mwf m = true) (hx : x < a ∨ a + bs.length ≤ x) :
    mread (mwriteN m a bs) x = mread m x := by
  induction bs generalizing m a with
  | nil => rfl
  | cons b bs ih =>
    simp only [List.length_cons] at hx
    simp only [mwriteN]
    rw [ih (a + 1) (mwf_mwrite a b h) (by omega), mread_mwrite a b x h, if_neg (by omega)]

/-- Reading inside gives the byte written there. -/
theorem mread_mwriteN_in (bs : List Byte) {m : Memory} (a i : Nat) (h : mwf m = true) (hi : i < bs.length) :
    mread (mwriteN m a bs) (a + i) = bs[i] := by
  induction bs generalizing m a i with
  | nil => cases hi
  | cons b bs ih =>
    simp only [mwriteN]
    cases i with
    | zero =>
      rw [mread_mwriteN bs (a + 1) (a + 0) (mwf_mwrite a b h) (Or.inl (by omega)), mread_mwrite a b _ h]
      simp
    | succ i =>
      have hi' : i < bs.length := by simpa using hi
      have := ih (a + 1) i (mwf_mwrite a b h) hi'
      rw [show a + (i + 1) = a + 1 + i by omega, this]
      simp

/-- A read of bytes just written gives them back. -/
theorem mreadN_mwriteN (bs : List Byte) {m : Memory} (a : Nat) (h : mwf m = true) :
    mreadN (mwriteN m a bs) a bs.length = bs := by
  induction bs generalizing m a with
  | nil => rfl
  | cons b bs ih =>
    simp only [mwriteN, List.length_cons, mreadN]
    rw [ih (a + 1) (mwf_mwrite a b h), mread_mwriteN bs (a + 1) a (mwf_mwrite a b h) (Or.inl (by omega)),
      mread_mwrite a b a h]
    simp

end Sys2Proof.Laws
end

