-- ==== Sys2Proof/Laws/Keeps.lean ====
section
/-! SUPPORT. What no operation of the machine touches: the queue of waiting commands, and the canonical form of the memories. One
lemma per operation, cited by its name (`<operation>_keeps`; `<operation>_eq` where the operation answers a value too). -/

namespace Sys2Proof.Laws
open Sys2Proof Sys2Proof.Machine

/-- The queue is `p`, and the memories are in canonical form. -/
def Kp (p q : List Instr) (m : Mems) : Prop := q = p ∧ memsOk m = true

theorem memGet_ok {m : MemId} {s : State} (h : memsOk s.mems = true) : mwf (memGet m s) = true := by
  simp only [memsOk, Bool.and_eq_true] at h
  cases m <;> simp only [memGet] <;> simp_all

theorem memSet_keeps {P : List Instr} {m : MemId} {x : Memory} {s : State} (hx : mwf x = true) (h : Kp P s.pending s.mems) :
    Kp P (memSet m x s).pending (memSet m x s).mems := by
  obtain ⟨h1, h2⟩ := h
  simp only [memsOk, Bool.and_eq_true] at h2
  cases m <;> exact ⟨h1, by simp only [memSet, memsOk, Bool.and_eq_true]; simp_all⟩

theorem foldS_keeps {P : List Instr} {α : Type} {f : α → State → State} (l : List α) (s : State)
    (hf : ∀ x t, Kp P t.pending t.mems → Kp P (f x t).pending (f x t).mems) (h : Kp P s.pending s.mems) :
    Kp P (foldS f l s).pending (foldS f l s).mems := by
  induction l generalizing s with
  | nil => exact h
  | cons x l ih => exact ih _ (hf x s h)

theorem kp_bad {P q : List Instr} {m : Mems} {b : List Nat} (h : Kp P q m) : Kp P q { m with bad := b } := h

theorem repairBad_keeps {P : List Instr} {m : MemId} {a n : Nat} {s : State} (h : Kp P s.pending s.mems) :
    Kp P (repairBad m a n s).pending (repairBad m a n s).mems := by
  unfold repairBad
  split
  · exact h
  · exact foldS_keeps _ _ (fun k t ht => memSet_keeps (mwf_mclear _ _ (memGet_ok ht.2)) ht) h

theorem memWrite_keeps {P : List Instr} {m : MemId} {a : Nat} {bs : List Byte} {s : State} (h : Kp P s.pending s.mems) :
    Kp P (memWrite m a bs s).pending (memWrite m a bs s).mems :=
  memSet_keeps (mwf_mwriteN _ _ (memGet_ok (repairBad_keeps h).2)) (repairBad_keeps h)

theorem memZero_keeps {P : List Instr} {m : MemId} {a n : Nat} {s : State} (h : Kp P s.pending s.mems) :
    Kp P (memZero m a n s).pending (memZero m a n s).mems :=
  memSet_keeps (mwf_mclear _ _ (memGet_ok (repairBad_keeps h).2)) (repairBad_keeps h)

theorem setFn_keeps {P : List Instr} {f : Nat} {x : Fn} {s : State} (hk : Kp P s.pending s.mems) :
    Kp P (setFn f x s).pending (setFn f x s).mems := by
  unfold setFn
  repeat' (first | with_reducible assumption | intro _ | dsimp only | split)

theorem modFn_keeps {P : List Instr} {f : Nat} {g : Fn → Fn} {s : State} (hk : Kp P s.pending s.mems) :
    Kp P (modFn f g s).pending (modFn f g s).mems := by
  unfold modFn
  repeat' (first | with_reducible assumption | intro _ | dsimp only | with_reducible refine setFn_keeps ?_ | split)

theorem setQueue_keeps {P : List Instr} {q : QRef} {x : Queue} {s : State} (hk : Kp P s.pending s.mems) :
    Kp P (setQueue q x s).pending (setQueue q x s).mems := by
  unfold setQueue
  repeat' (first | with_reducible assumption | intro _ | dsimp only | with_reducible refine modFn_keeps ?_ | split)

theorem modQueue_keeps {P : List Instr} {q : QRef} {g : Queue → Queue} {s : State} (hk : Kp P s.pending s.mems) :
    Kp P (modQueue q g s).pending (modQueue q g s).mems := by
  unfold modQueue
  repeat' (first | with_reducible assumption | intro _ | dsimp only | with_reducible refine setQueue_keeps ?_ | split)

theorem setCq_keeps {P : List Instr} {fn ring : Nat} {r : OutRing} {s : State} (hk : Kp P s.pending s.mems) :
    Kp P (setCq fn ring r s).pending (setCq fn ring r s).mems := by
  unfold setCq
  repeat' (first | with_reducible assumption | intro _ | dsimp only | with_reducible refine modFn_keeps ?_ | split)

theorem modCq_keeps {P : List Instr} {fn ring : Nat} {g : OutRing → OutRing} {s : State} (hk : Kp P s.pending s.mems) :
    Kp P (modCq fn ring g s).pending (modCq fn ring g s).mems := by
  unfold modCq
  repeat' (first | with_reducible assumption | intro _ | dsimp only | with_reducible refine setCq_keeps ?_ | split)

theorem setCore_keeps {P : List Instr} {c : Nat} {x : Core} {s : State} (hk : Kp P s.pending s.mems) :
    Kp P (setCore c x s).pending (setCore c x s).mems := by
  unfold setCore
  repeat' (first | with_reducible assumption | intro _ | dsimp only | split)

theorem modCore_keeps {P : List Instr} {c : Nat} {g : Core → Core} {s : State} (hk : Kp P s.pending s.mems) :
    Kp P (modCore c g s).pending (modCore c g s).mems := by
  unfold modCore
  repeat' (first | with_reducible assumption | intro _ | dsimp only | with_reducible refine setCore_keeps ?_ | split)

theorem setCtx_keeps {P : List Instr} {peer : W32} {c : Ctx} {s : State} (hk : Kp P s.pending s.mems) :
    Kp P (setCtx peer c s).pending (setCtx peer c s).mems := by
  unfold setCtx
  repeat' (first | with_reducible assumption | intro _ | dsimp only | split)

theorem modCtx_keeps {P : List Instr} {peer : W32} {g : Ctx → Ctx} {s : State} (hk : Kp P s.pending s.mems) :
    Kp P (modCtx peer g s).pending (modCtx peer g s).mems := by
  unfold modCtx
  repeat' (first | with_reducible assumption | intro _ | dsimp only | with_reducible refine setCtx_keeps ?_ | split)

theorem setLink_keeps {P : List Instr} {l : Nat} {x : Link} {s : State} (hk : Kp P s.pending s.mems) :
    Kp P (setLink l x s).pending (setLink l x s).mems := by
  unfold setLink
  repeat' (first | with_reducible assumption | intro _ | dsimp only | split)

theorem modLink_keeps {P : List Instr} {l : Nat} {g : Link → Link} {s : State} (hk : Kp P s.pending s.mems) :
    Kp P (modLink l g s).pending (modLink l g s).mems := by
  unfold modLink
  repeat' (first | with_reducible assumption | intro _ | dsimp only | with_reducible refine setLink_keeps ?_ | split)

theorem setPort_keeps {P : List Instr} {p : Nat} {x : Port} {s : State} (hk : Kp P s.pending s.mems) :
    Kp P (setPort p x s).pending (setPort p x s).mems := by
  unfold setPort
  repeat' (first | with_reducible assumption | intro _ | dsimp only | split)

theorem modPort_keeps {P : List Instr} {p : Nat} {g : Port → Port} {s : State} (hk : Kp P s.pending s.mems) :
    Kp P (modPort p g s).pending (modPort p g s).mems := by
  unfold modPort
  repeat' (first | with_reducible assumption | intro _ | dsimp only | with_reducible refine setPort_keeps ?_ | split)

theorem modDie_keeps {P : List Instr} {d : Nat} {g : Die → Die} {s : State} (hk : Kp P s.pending s.mems) :
    Kp P (modDie d g s).pending (modDie d g s).mems := by
  unfold modDie
  repeat' (first | with_reducible assumption | intro _ | dsimp only | split)

theorem setKey_keeps {P : List Instr} {i : Nat} {e : KeyEntry} {s : State} (hk : Kp P s.pending s.mems) :
    Kp P (setKey i e s).pending (setKey i e s).mems := by
  unfold setKey
  repeat' (first | with_reducible assumption | intro _ | dsimp only | split)

theorem modSeg_keeps {P : List Instr} {f g : Nat} {h : Segment → Segment} {s : State} (hk : Kp P s.pending s.mems) :
    Kp P (modSeg f g h s).pending (modSeg f g h s).mems := by
  unfold modSeg
  repeat' (first | with_reducible assumption | intro _ | dsimp only | with_reducible refine modFn_keeps ?_ | split)

theorem modPage_keeps {P : List Instr} {f g p : Nat} {h : Page → Page} {s : State} (hk : Kp P s.pending s.mems) :
    Kp P (modPage f g p h s).pending (modPage f g p h s).mems := by
  unfold modPage
  repeat' (first | with_reducible assumption | intro _ | dsimp only | with_reducible refine modFn_keeps ?_ | split)

theorem outEmit_keeps {P : List Instr} {o : Output} {s : State} (hk : Kp P s.pending s.mems) :
    Kp P (outEmit o s).pending (outEmit o s).mems := by
  unfold outEmit
  repeat' (first | with_reducible assumption | intro _ | dsimp only | split)

theorem advanceTo_keeps {P : List Instr} {t : Nat} {s : State} (hk : Kp P s.pending s.mems) :
    Kp P (advanceTo t s).pending (advanceTo t s).mems := by
  unfold advanceTo
  repeat' (first | with_reducible assumption | intro _ | dsimp only | split)

theorem drawn_keeps {P : List Instr} {s : State} (hk : Kp P s.pending s.mems) :
    Kp P (drawn s).pending (drawn s).mems := by
  unfold drawn
  repeat' (first | with_reducible assumption | intro _ | dsimp only | split)

theorem noteChange_keeps {P : List Instr} {index sub : Nat} {s : State} (hk : Kp P s.pending s.mems) :
    Kp P (noteChange index sub s).pending (noteChange index sub s).mems := by
  unfold noteChange
  split <;> exact hk

theorem ledPut_keeps {P : List Instr} {index sub : Nat} {v : Bytes} {s : State} (hk : Kp P s.pending s.mems) :
    Kp P (ledPut index sub v s).pending (ledPut index sub v s).mems := by
  unfold ledPut
  repeat' (first | with_reducible assumption | intro _ | dsimp only | split)

theorem ledCommit_keeps {P : List Instr} {index sub : Nat} {v : Bytes} {s : State} (hk : Kp P s.pending s.mems) :
    Kp P (ledCommit index sub v s).pending (ledCommit index sub v s).mems := by
  unfold ledCommit
  repeat' (first | with_reducible assumption | intro _ | dsimp only | with_reducible refine ledPut_keeps ?_ | split)

theorem bump_keeps {P : List Instr} {index sub : Nat} {n : Nat} {s : State} (hk : Kp P s.pending s.mems) :
    Kp P (bump index sub n s).pending (bump index sub n s).mems := by
  unfold bump
  repeat' (first | with_reducible assumption | intro _ | dsimp only | split)

theorem msix_keeps {P : List Instr} {fn vec : Nat} {s : State} (hk : Kp P s.pending s.mems) :
    Kp P (msix fn vec s).pending (msix fn vec s).mems := by
  unfold msix
  repeat' (first | with_reducible assumption | intro _ | dsimp only | with_reducible refine outEmit_keeps ?_ | with_reducible refine modFn_keeps ?_ | split)

theorem ringStore_keeps {P : List Instr} {ks : Nat} {r : OutRing} {c : Rec} {s : State} (hk : Kp P s.pending s.mems) :
    Kp P (ringStore ks r c s).pending (ringStore ks r c s).mems := by
  unfold ringStore
  repeat' (first | with_reducible assumption | intro _ | dsimp only | with_reducible refine memWrite_keeps ?_ | split)

theorem cqWriteNow_keeps {P : List Instr} {fn ring : Nat} {c : Rec} {s : State} (hk : Kp P s.pending s.mems) :
    Kp P (cqWriteNow fn ring c s).pending (cqWriteNow fn ring c s).mems := by
  unfold cqWriteNow
  repeat' (first | with_reducible assumption | intro _ | dsimp only | with_reducible refine ringStore_keeps ?_ | with_reducible refine setCq_keeps ?_ | with_reducible refine msix_keeps ?_ | split)

theorem eqWriteNow_keeps {P : List Instr} {fn : Nat} {c : Rec} {s : State} (hk : Kp P s.pending s.mems) :
    Kp P (eqWriteNow fn c s).pending (eqWriteNow fn c s).mems := by
  unfold eqWriteNow
  repeat' (first | with_reducible assumption | intro _ | dsimp only | with_reducible refine ringStore_keeps ?_ | with_reducible refine modFn_keeps ?_ | with_reducible refine msix_keeps ?_ | split)

theorem eqOverflow_keeps {P : List Instr} {fn : Nat} {s : State} (hk : Kp P s.pending s.mems) :
    Kp P (eqOverflow fn s).pending (eqOverflow fn s).mems := by
  unfold eqOverflow
  repeat' (first | with_reducible assumption | intro _ | dsimp only | with_reducible refine eqWriteNow_keeps ?_ | with_reducible refine modFn_keeps ?_ | split)

theorem raiseOn_keeps {P : List Instr} {fn code detail : Nat} {module : W32} {qp aux wher : Nat} {s : State} (hk : Kp P s.pending s.mems) :
    Kp P (raiseOn fn code detail module qp aux wher s).pending (raiseOn fn code detail module qp aux wher s).mems := by
  unfold raiseOn
  repeat' (first | with_reducible assumption | intro _ | dsimp only | with_reducible refine eqOverflow_keeps ?_ | with_reducible refine eqWriteNow_keeps ?_ | with_reducible refine modFn_keeps ?_ | split)

theorem raiseEvent_keeps {P : List Instr} {fn code detail : Nat} {module : W32} {qp aux wher : Nat} {s : State} (hk : Kp P s.pending s.mems) :
    Kp P (raiseEvent fn code detail module qp aux wher s).pending (raiseEvent fn code detail module qp aux wher s).mems := by
  unfold raiseEvent
  repeat' (first | with_reducible assumption | intro _ | dsimp only | with_reducible refine raiseOn_keeps ?_ | split)

theorem logFault_keeps {P : List Instr} {cls code unit detail : Nat} {s : State} (hk : Kp P s.pending s.mems) :
    Kp P (logFault cls code unit detail s).pending (logFault cls code unit detail s).mems := by
  unfold logFault
  repeat' (first | with_reducible assumption | intro _ | dsimp only | split)

theorem writePieces_keeps {P : List Instr} {v0 : List (MemId × Nat × Nat)} {v1 : List Byte} {s : State} (hk : Kp P s.pending s.mems) :
    Kp P (writePieces v0 v1 s).pending (writePieces v0 v1 s).mems := by
  induction v0 generalizing s v1 with
  | nil => unfold writePieces; repeat' (first | with_reducible assumption | intro _ | dsimp only | with_reducible refine memWrite_keeps ?_ | split)
  | cons x v0 ih => unfold writePieces; repeat' (first | with_reducible assumption | intro _ | dsimp only | with_reducible refine ih ?_ | with_reducible refine memWrite_keeps ?_ | split)

theorem segWrite_keeps {P : List Instr} {fn seg off : Nat} {bs : List Byte} {s : State} (hk : Kp P s.pending s.mems) :
    Kp P (segWrite fn seg off bs s).pending (segWrite fn seg off bs s).mems := by
  unfold segWrite
  repeat' (first | with_reducible assumption | intro _ | dsimp only | with_reducible refine writePieces_keeps ?_ | with_reducible refine foldS_keeps _ _ ?_ ?_ | with_reducible refine modPage_keeps ?_ | split)

theorem vwrite_keeps {P : List Instr} {fn va : Nat} {bs : List Byte} {s : State} (hk : Kp P s.pending s.mems) :
    Kp P (vwrite fn va bs s).pending (vwrite fn va bs s).mems := by
  unfold vwrite
  repeat' (first | with_reducible assumption | intro _ | dsimp only | with_reducible refine segWrite_keeps ?_ | split)

theorem touchPages_keeps {P : List Instr} {agent fn seg : Nat} {ps : List Nat} {s : State} (hk : Kp P s.pending s.mems) :
    Kp P (touchPages agent fn seg ps s).pending (touchPages agent fn seg ps s).mems := by
  unfold touchPages
  repeat' (first | with_reducible assumption | intro _ | dsimp only | with_reducible refine foldS_keeps _ _ ?_ ?_ | with_reducible refine bump_keeps ?_ | with_reducible refine modPage_keeps ?_ | split)

theorem touchSeg_keeps {P : List Instr} {agent fn seg off len : Nat} {s : State} (hk : Kp P s.pending s.mems) :
    Kp P (touchSeg agent fn seg off len s).pending (touchSeg agent fn seg off len s).mems := by
  unfold touchSeg
  repeat' (first | with_reducible assumption | intro _ | dsimp only | with_reducible refine touchPages_keeps ?_ | split)

theorem vtouch_keeps {P : List Instr} {agent fn va len : Nat} {s : State} (hk : Kp P s.pending s.mems) :
    Kp P (vtouch agent fn va len s).pending (vtouch agent fn va len s).mems := by
  unfold vtouch
  repeat' (first | with_reducible assumption | intro _ | dsimp only | with_reducible refine touchSeg_keeps ?_ | split)

theorem uncachePage_keeps {P : List Instr} {fn seg p : Nat} {s : State} (hk : Kp P s.pending s.mems) :
    Kp P (uncachePage fn seg p s).pending (uncachePage fn seg p s).mems := by
  unfold uncachePage
  repeat' (first | with_reducible assumption | intro _ | dsimp only | split)

theorem uncacheSeg_keeps {P : List Instr} {fn seg : Nat} {s : State} (hk : Kp P s.pending s.mems) :
    Kp P (uncacheSeg fn seg s).pending (uncacheSeg fn seg s).mems := by
  unfold uncacheSeg
  repeat' (first | with_reducible assumption | intro _ | dsimp only | split)

theorem setRecs_keeps {P : List Instr} {ks : Nat} {t : Table FaultRec} {s : State} (hk : Kp P s.pending s.mems) :
    Kp P (setRecs ks t s).pending (setRecs ks t s).mems := by
  unfold setRecs
  repeat' (first | with_reducible assumption | intro _ | dsimp only | split)

theorem setWalkers_keeps {P : List Instr} {ks : Nat} {t : Table Walker} {s : State} (hk : Kp P s.pending s.mems) :
    Kp P (setWalkers ks t s).pending (setWalkers ks t s).mems := by
  unfold setWalkers
  repeat' (first | with_reducible assumption | intro _ | dsimp only | split)

theorem askPages_keeps {P : List Instr} {ks source fn seg va : Nat} {pages : List Nat} {w : Waiter} {s : State} (hk : Kp P s.pending s.mems) :
    Kp P (askPages ks source fn seg va pages w s).pending (askPages ks source fn seg va pages w s).mems := by
  unfold askPages
  repeat' (first | with_reducible assumption | intro _ | dsimp only | with_reducible refine foldS_keeps _ _ ?_ ?_ | with_reducible refine bump_keeps ?_ | with_reducible refine setWalkers_keeps ?_ | split)

theorem forgetWaiter_keeps {P : List Instr} {w : Waiter} {s : State} (hk : Kp P s.pending s.mems) :
    Kp P (forgetWaiter w s).pending (forgetWaiter w s).mems := by
  unfold forgetWaiter
  repeat' (first | with_reducible assumption | intro _ | dsimp only | with_reducible refine foldS_keeps _ _ ?_ ?_ | with_reducible refine modPage_keeps ?_ | split)

theorem modCut_keeps {P : List Instr} {n : Nat} {g : CutRule → CutRule} {s : State} (hk : Kp P s.pending s.mems) :
    Kp P (modCut n g s).pending (modCut n g s).mems := by
  unfold modCut
  repeat' (first | with_reducible assumption | intro _ | dsimp only | split)

theorem stampAdvance_keeps {P : List Instr} {fn counter n : Nat} {s : State} (hk : Kp P s.pending s.mems) :
    Kp P (stampAdvance fn counter n s).pending (stampAdvance fn counter n s).mems := by
  unfold stampAdvance
  repeat' (first | with_reducible assumption | intro _ | dsimp only | with_reducible refine foldS_keeps _ _ ?_ ?_ | with_reducible refine modCut_keeps ?_ | with_reducible refine bump_keeps ?_ | split)

theorem counterAdd_keeps {P : List Instr} {fn counter n : Nat} {s : State} (hk : Kp P s.pending s.mems) :
    Kp P (counterAdd fn counter n s).pending (counterAdd fn counter n s).mems := by
  unfold counterAdd
  repeat' (first | with_reducible assumption | intro _ | dsimp only | with_reducible refine modFn_keeps ?_ | with_reducible refine stampAdvance_keeps ?_ | split)

theorem setSem_keeps {P : List Instr} {core sem v : Nat} {s : State} (hk : Kp P s.pending s.mems) :
    Kp P (setSem core sem v s).pending (setSem core sem v s).mems := by
  unfold setSem
  repeat' (first | with_reducible assumption | intro _ | dsimp only | with_reducible refine modCore_keeps ?_ | split)

theorem modLaunch_keeps {P : List Instr} {id : Nat} {g : Launch → Launch} {s : State} (hk : Kp P s.pending s.mems) :
    Kp P (modLaunch id g s).pending (modLaunch id g s).mems := by
  unfold modLaunch
  repeat' (first | with_reducible assumption | intro _ | dsimp only | split)

theorem askWake_keeps {P : List Instr} {die : Nat} {s : State} (hk : Kp P s.pending s.mems) :
    Kp P (askWake die s).pending (askWake die s).mems := by
  unfold askWake
  repeat' (first | with_reducible assumption | intro _ | dsimp only | with_reducible refine modDie_keeps ?_ | split)

theorem askUnit_keeps {P : List Instr} {u : PowerUnit} {s : State} (hk : Kp P s.pending s.mems) :
    Kp P (askUnit u s).pending (askUnit u s).mems := by
  unfold askUnit
  repeat' (first | with_reducible assumption | intro _ | dsimp only | split)

theorem wakeCore_keeps {P : List Instr} {core : Nat} {s : State} (hk : Kp P s.pending s.mems) :
    Kp P (wakeCore core s).pending (wakeCore core s).mems := by
  unfold wakeCore
  repeat' (first | with_reducible assumption | intro _ | dsimp only | with_reducible refine askWake_keeps ?_ | with_reducible refine askUnit_keeps ?_ | split)

theorem touchCore_keeps {P : List Instr} {core : Nat} {s : State} (hk : Kp P s.pending s.mems) :
    Kp P (touchCore core s).pending (touchCore core s).mems := by
  unfold touchCore
  repeat' (first | with_reducible assumption | intro _ | dsimp only | with_reducible refine modCore_keeps ?_ | split)

theorem semAdd_keeps {P : List Instr} {core sem n : Nat} {s : State} (hk : Kp P s.pending s.mems) :
    Kp P (semAdd core sem n s).pending (semAdd core sem n s).mems := by
  unfold semAdd
  repeat' (first | with_reducible assumption | intro _ | dsimp only | with_reducible refine wakeCore_keeps ?_ | with_reducible refine touchCore_keeps ?_ | with_reducible refine setSem_keeps ?_ | with_reducible refine bump_keeps ?_ | with_reducible refine raiseEvent_keeps ?_ | split)

theorem launchFault_keeps {P : List Instr} {id status : Nat} {result : W64} {peer : W32} {s : State} (hk : Kp P s.pending s.mems) :
    Kp P (launchFault id status result peer s).pending (launchFault id status result peer s).mems := by
  unfold launchFault
  repeat' (first | with_reducible assumption | intro _ | dsimp only | with_reducible refine bump_keeps ?_ | with_reducible refine modLaunch_keeps ?_ | split)

theorem haltCore_keeps {P : List Instr} {core cause status : Nat} {result : W64} {s : State} (hk : Kp P s.pending s.mems) :
    Kp P (haltCore core cause status result s).pending (haltCore core cause status result s).mems := by
  unfold haltCore
  repeat' (first | with_reducible assumption | intro _ | dsimp only | with_reducible refine modCore_keeps ?_ | with_reducible refine launchFault_keeps ?_ | split)

theorem endLaunch_keeps {P : List Instr} {id status : Nat} {s : State} (hk : Kp P s.pending s.mems) :
    Kp P (endLaunch id status s).pending (endLaunch id status s).mems := by
  unfold endLaunch
  repeat' (first | with_reducible assumption | intro _ | dsimp only | with_reducible refine foldS_keeps _ _ ?_ ?_ | with_reducible refine modCore_keeps ?_ | with_reducible refine modLaunch_keeps ?_ | split)

theorem applySignal_keeps {P : List Instr} {fn : Nat} {d : W64} {s : State} (hk : Kp P s.pending s.mems) :
    Kp P (applySignal fn d s).pending (applySignal fn d s).mems := by
  unfold applySignal
  repeat' (first | with_reducible assumption | intro _ | dsimp only | with_reducible refine semAdd_keeps ?_ | with_reducible refine counterAdd_keeps ?_ | split)

theorem touchTrackers_keeps {P : List Instr} {ts : List Tracker} {s : State} (hk : Kp P s.pending s.mems) :
    Kp P (touchTrackers ts s).pending (touchTrackers ts s).mems := by
  unfold touchTrackers
  repeat' (first | with_reducible assumption | intro _ | dsimp only | with_reducible refine foldS_keeps _ _ ?_ ?_ | with_reducible refine touchCore_keeps ?_ | split)

theorem modBinding_keeps {P : List Instr} {fn b : Nat} {g : Binding → Binding} {s : State} (hk : Kp P s.pending s.mems) :
    Kp P (modBinding fn b g s).pending (modBinding fn b g s).mems := by
  unfold modBinding
  repeat' (first | with_reducible assumption | intro _ | dsimp only | with_reducible refine modFn_keeps ?_ | split)

theorem streamEvent_keeps {P : List Instr} {detail : Nat} {t : Tracker} {s : State} (hk : Kp P s.pending s.mems) :
    Kp P (streamEvent detail t s).pending (streamEvent detail t s).mems := by
  unfold streamEvent
  repeat' (first | with_reducible assumption | intro _ | dsimp only | with_reducible refine bump_keeps ?_ | with_reducible refine raiseEvent_keeps ?_ | split)

theorem staleBindings_keeps {P : List Instr} {key : W32} {s : State} (hk : Kp P s.pending s.mems) :
    Kp P (staleBindings key s).pending (staleBindings key s).mems := by
  unfold staleBindings
  repeat' (first | with_reducible assumption | intro _ | dsimp only | with_reducible refine foldS_keeps _ _ ?_ ?_ | with_reducible refine modFn_keeps ?_ | split)

theorem wakeBank_keeps {P : List Instr} {core b : Nat} {s : State} (hk : Kp P s.pending s.mems) :
    Kp P (wakeBank core b s).pending (wakeBank core b s).mems := by
  unfold wakeBank
  repeat' (first | with_reducible assumption | intro _ | dsimp only | with_reducible refine wakeCore_keeps ?_ | with_reducible refine modCore_keeps ?_ | split)

theorem wakeRange_keeps {P : List Instr} {core off len : Nat} {s : State} (hk : Kp P s.pending s.mems) :
    Kp P (wakeRange core off len s).pending (wakeRange core off len s).mems := by
  unfold wakeRange
  repeat' (first | with_reducible assumption | intro _ | dsimp only | with_reducible refine foldS_keeps _ _ ?_ ?_ | with_reducible refine wakeBank_keeps ?_ | split)

theorem askBank_keeps {P : List Instr} {core b v : Nat} {s : State} (hk : Kp P s.pending s.mems) :
    Kp P (askBank core b v s).pending (askBank core b v s).mems := by
  unfold askBank
  repeat' (first | with_reducible assumption | intro _ | dsimp only | with_reducible refine modCore_keeps ?_ | with_reducible refine wakeBank_keeps ?_ | split)

theorem bankOn_keeps {P : List Instr} {core b : Nat} {s : State} (hk : Kp P s.pending s.mems) :
    Kp P (bankOn core b s).pending (bankOn core b s).mems := by
  unfold bankOn
  repeat' (first | with_reducible assumption | intro _ | dsimp only | with_reducible refine memZero_keeps ?_ | with_reducible refine modCore_keeps ?_ | split)

theorem wakePad_keeps {P : List Instr} {a len : Nat} {s : State} (hk : Kp P s.pending s.mems) :
    Kp P (wakePad a len s).pending (wakePad a len s).mems := by
  unfold wakePad
  repeat' (first | with_reducible assumption | intro _ | dsimp only | with_reducible refine wakeRange_keeps ?_ | split)

theorem spendCredit_keeps {P : List Instr} {link c n : Nat} {s : State} (hk : Kp P s.pending s.mems) :
    Kp P (spendCredit link c n s).pending (spendCredit link c n s).mems := by
  unfold spendCredit
  repeat' (first | with_reducible assumption | intro _ | dsimp only | with_reducible refine modLink_keeps ?_ | split)

theorem freeBuffers_keeps {P : List Instr} {link c n : Nat} {s : State} (hk : Kp P s.pending s.mems) :
    Kp P (freeBuffers link c n s).pending (freeBuffers link c n s).mems := by
  unfold freeBuffers
  repeat' (first | with_reducible assumption | intro _ | dsimp only | with_reducible refine modLink_keeps ?_ | split)

theorem markFrame_keeps {P : List Instr} {r : RFrame} {s : State} (hk : Kp P s.pending s.mems) :
    Kp P (markFrame r s).2.pending (markFrame r s).2.mems := by
  unfold markFrame
  repeat' (first | with_reducible assumption | intro _ | dsimp only | with_reducible refine bump_keeps ?_ | split)

theorem markFrame_eq {P : List Instr} {r : RFrame} {s u : State} {w} (he : markFrame r s = (w, u)) (hk : Kp P s.pending s.mems) :
    Kp P u.pending u.mems := by
  have := markFrame_keeps (r := r) hk; rw [he] at this; exact this

theorem pushFrame_keeps {P : List Instr} {r : RFrame} {s : State} (hk : Kp P s.pending s.mems) :
    Kp P (pushFrame r s).pending (pushFrame r s).mems := by
  unfold pushFrame
  repeat' (first | with_reducible assumption | intro _ | dsimp only | with_reducible refine markFrame_keeps ?_ | with_reducible refine markFrame_eq (by assumption) ?_ | split)

theorem pushHop_keeps {P : List Instr} {f : BondFrame} {link : Nat} {s : State} (hk : Kp P s.pending s.mems) :
    Kp P (pushHop f link s).pending (pushHop f link s).mems := by
  unfold pushHop
  repeat' (first | with_reducible assumption | intro _ | dsimp only | with_reducible refine pushFrame_keeps ?_ | split)

theorem queueBond_keeps {P : List Instr} {qp : Option Nat} {p : Packet} {s : State} (hk : Kp P s.pending s.mems) :
    Kp P (queueBond qp p s).pending (queueBond qp p s).mems := by
  unfold queueBond
  repeat' (first | with_reducible assumption | intro _ | dsimp only | with_reducible refine pushFrame_keeps ?_ | with_reducible refine bump_keeps ?_ | split)

theorem flood_keeps {P : List Instr} {a : Announce} {but : Option Nat} {s : State} (hk : Kp P s.pending s.mems) :
    Kp P (flood a but s).pending (flood a but s).mems := by
  unfold flood
  repeat' (first | with_reducible assumption | intro _ | dsimp only | with_reducible refine foldS_keeps _ _ ?_ ?_ | with_reducible refine pushHop_keeps ?_ | split)

theorem announceNow_keeps {P : List Instr} {s : State} (hk : Kp P s.pending s.mems) :
    Kp P (announceNow s).pending (announceNow s).mems := by
  unfold announceNow
  repeat' (first | with_reducible assumption | intro _ | dsimp only | with_reducible refine flood_keeps ?_ | split)

theorem portListMoved_keeps {P : List Instr} {before : List Nat} {s : State} (hk : Kp P s.pending s.mems) :
    Kp P (portListMoved before s).pending (portListMoved before s).mems := by
  unfold portListMoved
  repeat' (first | with_reducible assumption | intro _ | dsimp only | split)

theorem touchCtx_keeps {P : List Instr} {peer : W32} {s : State} (hk : Kp P s.pending s.mems) :
    Kp P (touchCtx peer s).pending (touchCtx peer s).mems := by
  unfold touchCtx
  repeat' (first | with_reducible assumption | intro _ | dsimp only | with_reducible refine modCtx_keeps ?_ | split)

theorem ccEcho_keeps {P : List Instr} {peer : W32} {s : State} (hk : Kp P s.pending s.mems) :
    Kp P (ccEcho peer s).pending (ccEcho peer s).mems := by
  unfold ccEcho
  repeat' (first | with_reducible assumption | intro _ | dsimp only | with_reducible refine setCtx_keeps ?_ | with_reducible refine bump_keeps ?_ | split)

theorem evictFor_keeps {P : List Instr} {ks : Nat} {s : State} (hk : Kp P s.pending s.mems) :
    Kp P (evictFor ks s).pending (evictFor ks s).mems := by
  unfold evictFor
  repeat' (first | with_reducible assumption | intro _ | dsimp only | with_reducible refine modCtx_keeps ?_ | split)

theorem openSelf_keeps {P : List Instr} {peer : W32} {s : State} (hk : Kp P s.pending s.mems) :
    Kp P (openSelf peer s).pending (openSelf peer s).mems := by
  unfold openSelf
  repeat' (first | with_reducible assumption | intro _ | dsimp only | with_reducible refine drawn_keeps ?_ | with_reducible refine setCtx_keeps ?_ | split)

theorem allocCtx_keeps {P : List Instr} {peer : W32} {s : State} (hk : Kp P s.pending s.mems) :
    Kp P (allocCtx peer s).2.pending (allocCtx peer s).2.mems := by
  unfold allocCtx
  repeat' (first | with_reducible assumption | intro _ | dsimp only | with_reducible refine evictFor_keeps ?_ | with_reducible refine setCtx_keeps ?_ | with_reducible refine openSelf_keeps ?_ | split)

theorem allocCtx_eq {P : List Instr} {peer : W32} {s u : State} {w} (he : allocCtx peer s = (w, u)) (hk : Kp P s.pending s.mems) :
    Kp P u.pending u.mems := by
  have := allocCtx_keeps (peer := peer) hk; rw [he] at this; exact this

theorem openLine_keeps {P : List Instr} {peer : W32} {s : State} (hk : Kp P s.pending s.mems) :
    Kp P (openLine peer s).pending (openLine peer s).mems := by
  unfold openLine
  repeat' (first | with_reducible assumption | intro _ | dsimp only | with_reducible refine drawn_keeps ?_ | with_reducible refine setCtx_keeps ?_ | split)

theorem ensureOpening_keeps {P : List Instr} {peer : W32} {s : State} (hk : Kp P s.pending s.mems) :
    Kp P (ensureOpening peer s).pending (ensureOpening peer s).mems := by
  unfold ensureOpening
  repeat' (first | with_reducible assumption | intro _ | dsimp only | with_reducible refine bump_keeps ?_ | with_reducible refine openSelf_keeps ?_ | with_reducible refine openLine_keeps ?_ | with_reducible refine drawn_keeps ?_ | with_reducible refine setCtx_keeps ?_ | split)

theorem noteMiss_keeps {P : List Instr} {peer : W32} {c : Ctx} {s : State} (hk : Kp P s.pending s.mems) :
    Kp P (noteMiss peer c s).pending (noteMiss peer c s).mems := by
  unfold noteMiss
  repeat' (first | with_reducible assumption | intro _ | dsimp only | with_reducible refine bump_keeps ?_ | split)

theorem queueMsgs_keeps {P : List Instr} {peer : W32} {proto : TxMsg} {len : Nat} {s : State} (hk : Kp P s.pending s.mems) :
    Kp P (queueMsgs peer proto len s).pending (queueMsgs peer proto len s).mems := by
  unfold queueMsgs
  repeat' (first | with_reducible assumption | intro _ | dsimp only | with_reducible refine noteMiss_keeps ?_ | with_reducible refine setCtx_keeps ?_ | split)

theorem abortMsg_keeps {P : List Instr} {peer : W32} {msgId : W32} {status : Nat} {s : State} (hk : Kp P s.pending s.mems) :
    Kp P (abortMsg peer msgId status s).pending (abortMsg peer msgId status s).mems := by
  unfold abortMsg
  repeat' (first | with_reducible assumption | intro _ | dsimp only | with_reducible refine setCtx_keeps ?_ | split)

theorem abortOwner_keeps {P : List Instr} {o : Owner} {status : Nat} {s : State} (hk : Kp P s.pending s.mems) :
    Kp P (abortOwner o status s).pending (abortOwner o status s).mems := by
  unfold abortOwner
  repeat' (first | with_reducible assumption | intro _ | dsimp only | with_reducible refine foldS_keeps _ _ ?_ ?_ | with_reducible refine abortMsg_keeps ?_ | with_reducible refine modCtx_keeps ?_ | split)

theorem memEvent_keeps {P : List Instr} {fn mem aux wher : Nat} {s : State} (hk : Kp P s.pending s.mems) :
    Kp P (memEvent fn mem aux wher s).pending (memEvent fn mem aux wher s).mems := by
  unfold memEvent
  repeat' (first | with_reducible assumption | intro _ | dsimp only | with_reducible refine raiseEvent_keeps ?_ | with_reducible refine bump_keeps ?_ | split)

theorem badEvent_keeps {P : List Instr} {fn va len : Nat} {s : State} (hk : Kp P s.pending s.mems) :
    Kp P (badEvent fn va len s).pending (badEvent fn va len s).mems := by
  unfold badEvent
  repeat' (first | with_reducible assumption | intro _ | dsimp only | with_reducible refine memEvent_keeps ?_ | split)

theorem holdPages_keeps {P : List Instr} {fn va len : Nat} {up : Bool} {s : State} (hk : Kp P s.pending s.mems) :
    Kp P (holdPages fn va len up s).pending (holdPages fn va len up s).mems := by
  unfold holdPages
  repeat' (first | with_reducible assumption | intro _ | dsimp only | with_reducible refine foldS_keeps _ _ ?_ ?_ | with_reducible refine modPage_keeps ?_ | split)

theorem modGroup_keeps {P : List Instr} {h : W32} {f : Group → Group} {s : State} (hk : Kp P s.pending s.mems) :
    Kp P (modGroup h f s).pending (modGroup h f s).mems := by
  unfold modGroup
  repeat' (first | with_reducible assumption | intro _ | dsimp only | split)

theorem modInst_keeps {P : List Instr} {h n : W32} {f : Inst → Inst} {s : State} (hk : Kp P s.pending s.mems) :
    Kp P (modInst h n f s).pending (modInst h n f s).mems := by
  unfold modInst
  repeat' (first | with_reducible assumption | intro _ | dsimp only | with_reducible refine modGroup_keeps ?_ | split)

theorem sendTree_keeps {P : List Instr} {dir c : Nat} {p : Packet} {s : State} (hk : Kp P s.pending s.mems) :
    Kp P (sendTree dir c p s).pending (sendTree dir c p s).mems := by
  unfold sendTree
  repeat' (first | with_reducible assumption | intro _ | dsimp only | with_reducible refine pushHop_keeps ?_ | split)

theorem sendCtl_keeps {P : List Instr} {h n : W32} {dir to_ member code status culprit chunk : Nat} {s : State} (hk : Kp P s.pending s.mems) :
    Kp P (sendCtl h n dir to_ member code status culprit chunk s).pending (sendCtl h n dir to_ member code status culprit chunk s).mems := by
  unfold sendCtl
  repeat' (first | with_reducible assumption | intro _ | dsimp only | with_reducible refine sendTree_keeps ?_ | split)

theorem answerCtl_keeps {P : List Instr} {h n : W32} {link from_ code chunk : Nat} {s : State} (hk : Kp P s.pending s.mems) :
    Kp P (answerCtl h n link from_ code chunk s).pending (answerCtl h n link from_ code chunk s).mems := by
  unfold answerCtl
  repeat' (first | with_reducible assumption | intro _ | dsimp only | with_reducible refine sendCtl_keeps ?_ | split)

theorem sendHop_keeps {P : List Instr} {h n : W32} {dir to_ chunk kind : Nat} {p : Packet} {s : State} (hk : Kp P s.pending s.mems) :
    Kp P (sendHop h n dir to_ chunk kind p s).pending (sendHop h n dir to_ chunk kind p s).mems := by
  unfold sendHop
  repeat' (first | with_reducible assumption | intro _ | dsimp only | with_reducible refine modInst_keeps ?_ | with_reducible refine sendTree_keeps ?_ | split)

theorem sendCtlEdges_keeps {P : List Instr} {h n : W32} {member code status culprit : Nat} {but : Option Nat} {s : State} (hk : Kp P s.pending s.mems) :
    Kp P (sendCtlEdges h n member code status culprit but s).pending (sendCtlEdges h n member code status culprit but s).mems := by
  unfold sendCtlEdges
  repeat' (first | with_reducible assumption | intro _ | dsimp only | with_reducible refine foldS_keeps _ _ ?_ ?_ | with_reducible refine sendHop_keeps ?_ | split)

theorem releaseSlots_keeps {P : List Instr} {h n : W32} {s : State} (hk : Kp P s.pending s.mems) :
    Kp P (releaseSlots h n s).pending (releaseSlots h n s).mems := by
  unfold releaseSlots
  repeat' (first | with_reducible assumption | intro _ | dsimp only | with_reducible refine modInst_keeps ?_ | split)

theorem sendRing_keeps {P : List Instr} {h n : W32} {to_ member : Nat} {down : Bool} {off : Nat} {payload : List Byte} {s : State} (hk : Kp P s.pending s.mems) :
    Kp P (sendRing h n to_ member down off payload s).pending (sendRing h n to_ member down off payload s).mems := by
  unfold sendRing
  repeat' (first | with_reducible assumption | intro _ | dsimp only | with_reducible refine allocCtx_keeps ?_ | with_reducible refine allocCtx_eq (by assumption) ?_ | with_reducible refine queueMsgs_keeps ?_ | split)

theorem sendAbort_keeps {P : List Instr} {h n : W32} {member status culprit : Nat} {but : Option Nat} {s : State} (hk : Kp P s.pending s.mems) :
    Kp P (sendAbort h n member status culprit but s).pending (sendAbort h n member status culprit but s).mems := by
  unfold sendAbort
  repeat' (first | with_reducible assumption | intro _ | dsimp only | with_reducible refine foldS_keeps _ _ ?_ ?_ | with_reducible refine sendRing_keeps ?_ | with_reducible refine sendCtlEdges_keeps ?_ | split)

theorem abortInst_keeps {P : List Instr} {h n : W32} {member status culprit : Nat} {but : Option Nat} {s : State} (hk : Kp P s.pending s.mems) :
    Kp P (abortInst h n member status culprit but s).pending (abortInst h n member status culprit but s).mems := by
  unfold abortInst
  repeat' (first | with_reducible assumption | intro _ | dsimp only | with_reducible refine releaseSlots_keeps ?_ | with_reducible refine modInst_keeps ?_ | with_reducible refine bump_keeps ?_ | with_reducible refine abortOwner_keeps ?_ | with_reducible refine sendAbort_keeps ?_ | split)

theorem cancelColl_keeps {P : List Instr} {q : QRef} {idx : Nat} {s : State} (hk : Kp P s.pending s.mems) :
    Kp P (cancelColl q idx s).pending (cancelColl q idx s).mems := by
  unfold cancelColl
  repeat' (first | with_reducible assumption | intro _ | dsimp only | with_reducible refine modInst_keeps ?_ | with_reducible refine abortInst_keeps ?_ | split)

theorem emergency_keeps {P : List Instr} {ecode edetail : Nat} {s : State} (hk : Kp P s.pending s.mems) :
    Kp P (emergency ecode edetail s).pending (emergency ecode edetail s).mems := by
  unfold emergency
  repeat' (first | with_reducible assumption | intro _ | dsimp only | with_reducible refine bump_keeps ?_ | with_reducible refine outEmit_keeps ?_ | split)

theorem stopLaunches_keeps {P : List Instr} {s : State} (hk : Kp P s.pending s.mems) :
    Kp P (stopLaunches s).pending (stopLaunches s).mems := by
  unfold stopLaunches
  repeat' (first | with_reducible assumption | intro _ | dsimp only | split)

theorem goFatal_keeps {P : List Instr} {code unit detail : Nat} {s : State} (hk : Kp P s.pending s.mems) :
    Kp P (goFatal code unit detail s).pending (goFatal code unit detail s).mems := by
  unfold goFatal
  repeat' (first | with_reducible assumption | intro _ | dsimp only | with_reducible refine raiseOn_keeps ?_ | with_reducible refine logFault_keeps ?_ | with_reducible refine emergency_keeps ?_ | with_reducible refine stopLaunches_keeps ?_ | split)

theorem cqFull_keeps {P : List Instr} {fn ring detail qp : Nat} {s : State} (hk : Kp P s.pending s.mems) :
    Kp P (cqFull fn ring detail qp s).pending (cqFull fn ring detail qp s).mems := by
  unfold cqFull
  repeat' (first | with_reducible assumption | intro _ | dsimp only | with_reducible refine raiseEvent_keeps ?_ | with_reducible refine modCq_keeps ?_ | split)

theorem recWrite_keeps {P : List Instr} {q : QRef} {ring : Nat} {c : Rec} {s : State} (hk : Kp P s.pending s.mems) :
    Kp P (recWrite q ring c s).pending (recWrite q ring c s).mems := by
  unfold recWrite
  repeat' (first | with_reducible assumption | intro _ | dsimp only | with_reducible refine cqWriteNow_keeps ?_ | with_reducible refine modQueue_keeps ?_ | split)

theorem emitRec_keeps {P : List Instr} {q : QRef} {c : Rec} {s : State} (hk : Kp P s.pending s.mems) :
    Kp P (emitRec q c s).pending (emitRec q c s).mems := by
  unfold emitRec
  repeat' (first | with_reducible assumption | intro _ | dsimp only | with_reducible refine modCq_keeps ?_ | with_reducible refine cqFull_keeps ?_ | with_reducible refine recWrite_keeps ?_ | split)

theorem releaseHeld_keeps {P : List Instr} {fn ring : Nat} {v0 : Nat} {s : State} (hk : Kp P s.pending s.mems) :
    Kp P (releaseHeld fn ring v0 s).pending (releaseHeld fn ring v0 s).mems := by
  induction v0 generalizing s with
  | zero => unfold releaseHeld; repeat' (first | with_reducible assumption | intro _ | dsimp only | with_reducible refine recWrite_keeps ?_ | with_reducible refine setCq_keeps ?_ | split)
  | succ v0 ih => unfold releaseHeld; repeat' (first | with_reducible assumption | intro _ | dsimp only | with_reducible refine ih ?_ | with_reducible refine recWrite_keeps ?_ | with_reducible refine setCq_keeps ?_ | split)

theorem writeBatches_keeps {P : List Instr} {q : QRef} {v0 : Nat} {s : State} (hk : Kp P s.pending s.mems) :
    Kp P (writeBatches q v0 s).pending (writeBatches q v0 s).mems := by
  induction v0 generalizing s with
  | zero => unfold writeBatches; repeat' (first | with_reducible assumption | intro _ | dsimp only | with_reducible refine modQueue_keeps ?_ | with_reducible refine emitRec_keeps ?_ | split)
  | succ v0 ih => unfold writeBatches; repeat' (first | with_reducible assumption | intro _ | dsimp only | with_reducible refine ih ?_ | with_reducible refine modQueue_keeps ?_ | with_reducible refine emitRec_keeps ?_ | split)

theorem writeRun_keeps {P : List Instr} {q : QRef} {s : State} (hk : Kp P s.pending s.mems) :
    Kp P (writeRun q s).pending (writeRun q s).mems := by
  unfold writeRun
  repeat' (first | with_reducible assumption | intro _ | dsimp only | with_reducible refine emitRec_keeps ?_ | with_reducible refine modQueue_keeps ?_ | split)

theorem writeEach_keeps {P : List Instr} {q : QRef} {s : State} (hk : Kp P s.pending s.mems) :
    Kp P (writeEach q s).pending (writeEach q s).mems := by
  unfold writeEach
  repeat' (first | with_reducible assumption | intro _ | dsimp only | with_reducible refine modQueue_keeps ?_ | with_reducible refine foldS_keeps _ _ ?_ ?_ | with_reducible refine emitRec_keeps ?_ | split)

theorem settleQueue_keeps {P : List Instr} {q : QRef} {s : State} (hk : Kp P s.pending s.mems) :
    Kp P (settleQueue q s).pending (settleQueue q s).mems := by
  unfold settleQueue
  repeat' (first | with_reducible assumption | intro _ | dsimp only | with_reducible refine modQueue_keeps ?_ | split)

theorem dropWaits_keeps {P : List Instr} {q : QRef} {idx : Nat} {s : State} (hk : Kp P s.pending s.mems) :
    Kp P (dropWaits q idx s).pending (dropWaits q idx s).mems := by
  unfold dropWaits
  repeat' (first | with_reducible assumption | intro _ | dsimp only | with_reducible refine forgetWaiter_keeps ?_ | split)

theorem disown_keeps {P : List Instr} {q : QRef} {t : Taken} {status : Nat} {s : State} (hk : Kp P s.pending s.mems) :
    Kp P (disown q t status s).pending (disown q t status s).mems := by
  unfold disown
  repeat' (first | with_reducible assumption | intro _ | dsimp only | with_reducible refine abortOwner_keeps ?_ | with_reducible refine dropWaits_keeps ?_ | with_reducible refine cancelColl_keeps ?_ | with_reducible refine foldS_keeps _ _ ?_ ?_ | with_reducible refine endLaunch_keeps ?_ | with_reducible refine modLaunch_keeps ?_ | split)

theorem abandon_keeps {P : List Instr} {q : QRef} {t : Taken} {status : Nat} {s : State} (hk : Kp P s.pending s.mems) :
    Kp P (abandon q t status s).pending (abandon q t status s).mems := by
  unfold abandon
  repeat' (first | with_reducible assumption | intro _ | dsimp only | with_reducible refine disown_keeps ?_ | with_reducible refine foldS_keeps _ _ ?_ ?_ | with_reducible refine endLaunch_keeps ?_ | split)

theorem unhold_keeps {P : List Instr} {q : QRef} {t : Taken} {s : State} (hk : Kp P s.pending s.mems) :
    Kp P (unhold q t s).pending (unhold q t s).mems := by
  unfold unhold
  repeat' (first | with_reducible assumption | intro _ | dsimp only | with_reducible refine holdPages_keeps ?_ | split)

theorem flushHead_keeps {P : List Instr} {q : QRef} {e : Entry} {s : State} (hk : Kp P s.pending s.mems) :
    Kp P (flushHead q e s).pending (flushHead q e s).mems := by
  unfold flushHead
  repeat' (first | with_reducible assumption | intro _ | dsimp only | with_reducible refine modQueue_keeps ?_ | with_reducible refine emitRec_keeps ?_ | split)

theorem flushOwned_keeps {P : List Instr} {q : QRef} {v0 : Nat} {s : State} (hk : Kp P s.pending s.mems) :
    Kp P (flushOwned q v0 s).pending (flushOwned q v0 s).mems := by
  induction v0 generalizing s with
  | zero => unfold flushOwned; exact hk
  | succ v0 ih => unfold flushOwned; repeat' (first | with_reducible assumption | intro _ | dsimp only | with_reducible refine ih ?_ | with_reducible refine flushHead_keeps ?_ | with_reducible refine modQueue_keeps ?_ | split)

theorem flushBehind_keeps {P : List Instr} {q : QRef} {s : State} (hk : Kp P s.pending s.mems) :
    Kp P (flushBehind q s).pending (flushBehind q s).mems := by
  unfold flushBehind
  repeat' (first | with_reducible assumption | intro _ | dsimp only | with_reducible refine flushOwned_keeps ?_ | split)

theorem failEntry_keeps {P : List Instr} {q : QRef} {t : Taken} {s : State} (hk : Kp P s.pending s.mems) :
    Kp P (failEntry q t s).pending (failEntry q t s).mems := by
  unfold failEntry
  repeat' (first | with_reducible assumption | intro _ | dsimp only | with_reducible refine settleQueue_keeps ?_ | with_reducible refine writeEach_keeps ?_ | with_reducible refine writeBatches_keeps ?_ | with_reducible refine writeRun_keeps ?_ | with_reducible refine modQueue_keeps ?_ | with_reducible refine emitRec_keeps ?_ | with_reducible refine foldS_keeps _ _ ?_ ?_ | with_reducible refine unhold_keeps ?_ | with_reducible refine disown_keeps ?_ | with_reducible refine flushBehind_keeps ?_ | split)

theorem completeWith_keeps {P : List Instr} {q : QRef} {idx status : Nat} {info : W32} {result : W64} {peer : W32} {cflags : Nat} {s : State} (hk : Kp P s.pending s.mems) :
    Kp P (completeWith q idx status info result peer cflags s).pending (completeWith q idx status info result peer cflags s).mems := by
  unfold completeWith
  repeat' (first | with_reducible assumption | intro _ | dsimp only | with_reducible refine modQueue_keeps ?_ | with_reducible refine unhold_keeps ?_ | with_reducible refine counterAdd_keeps ?_ | with_reducible refine settleQueue_keeps ?_ | with_reducible refine writeEach_keeps ?_ | with_reducible refine writeBatches_keeps ?_ | with_reducible refine failEntry_keeps ?_ | with_reducible refine abandon_keeps ?_ | split)

theorem complete_keeps {P : List Instr} {q : QRef} {idx status : Nat} {result : W64} {peer : W32} {s : State} (hk : Kp P s.pending s.mems) :
    Kp P (complete q idx status result peer s).pending (complete q idx status result peer s).mems := by
  unfold complete
  repeat' (first | with_reducible assumption | intro _ | dsimp only | with_reducible refine completeWith_keeps ?_ | split)

theorem completeOk_keeps {P : List Instr} {q : QRef} {idx : Nat} {s : State} (hk : Kp P s.pending s.mems) :
    Kp P (completeOk q idx s).pending (completeOk q idx s).mems := by
  unfold completeOk
  repeat' (first | with_reducible assumption | intro _ | dsimp only | with_reducible refine complete_keeps ?_ | split)

theorem completeAside_keeps {P : List Instr} {q : QRef} {idx status : Nat} {s : State} (hk : Kp P s.pending s.mems) :
    Kp P (completeAside q idx status s).pending (completeAside q idx status s).mems := by
  unfold completeAside
  repeat' (first | with_reducible assumption | intro _ | dsimp only | with_reducible refine modQueue_keeps ?_ | with_reducible refine unhold_keeps ?_ | with_reducible refine abandon_keeps ?_ | with_reducible refine settleQueue_keeps ?_ | with_reducible refine emitRec_keeps ?_ | split)

theorem endQueue_keeps {P : List Instr} {status : Nat} {q : QRef} {s : State} (hk : Kp P s.pending s.mems) :
    Kp P (endQueue status q s).pending (endQueue status q s).mems := by
  unfold endQueue
  repeat' (first | with_reducible assumption | intro _ | dsimp only | with_reducible refine writeRun_keeps ?_ | with_reducible refine modQueue_keeps ?_ | with_reducible refine foldS_keeps _ _ ?_ ?_ | with_reducible refine unhold_keeps ?_ | with_reducible refine abandon_keeps ?_ | with_reducible refine writeEach_keeps ?_ | with_reducible refine emitRec_keeps ?_ | split)

theorem endQueues_keeps {P : List Instr} {fn status : Nat} {s : State} (hk : Kp P s.pending s.mems) :
    Kp P (endQueues fn status s).pending (endQueues fn status s).mems := by
  unfold endQueues
  repeat' (first | with_reducible assumption | intro _ | dsimp only | with_reducible refine foldS_keeps _ _ ?_ ?_ | with_reducible refine endQueue_keeps ?_ | split)

theorem endLaunches_keeps {P : List Instr} {fn status : Nat} {s : State} (hk : Kp P s.pending s.mems) :
    Kp P (endLaunches fn status s).pending (endLaunches fn status s).mems := by
  unfold endLaunches
  repeat' (first | with_reducible assumption | intro _ | dsimp only | with_reducible refine foldS_keeps _ _ ?_ ?_ | with_reducible refine endLaunch_keeps ?_ | split)

theorem haltVdev_keeps {P : List Instr} {q : QRef} {status : Nat} {s : State} (hk : Kp P s.pending s.mems) :
    Kp P (haltVdev q status s).pending (haltVdev q status s).mems := by
  unfold haltVdev
  repeat' (first | with_reducible assumption | intro _ | dsimp only | with_reducible refine endLaunches_keeps ?_ | with_reducible refine endQueues_keeps ?_ | with_reducible refine modFn_keeps ?_ | with_reducible refine raiseOn_keeps ?_ | split)

theorem malformed_keeps {P : List Instr} {q : QRef} {e : Entry} {s : State} (hk : Kp P s.pending s.mems) :
    Kp P (malformed q e s).pending (malformed q e s).mems := by
  unfold malformed
  repeat' (first | with_reducible assumption | intro _ | dsimp only | with_reducible refine writeRun_keeps ?_ | with_reducible refine emitRec_keeps ?_ | with_reducible refine goFatal_keeps ?_ | with_reducible refine haltVdev_keeps ?_ | split)

theorem modShaper_keeps {P : List Instr} {ks fn cls : Nat} {g : Shaper → Shaper} {s : State} (hk : Kp P s.pending s.mems) :
    Kp P (modShaper ks fn cls g s).pending (modShaper ks fn cls g s).mems := by
  unfold modShaper
  repeat' (first | with_reducible assumption | intro _ | dsimp only | split)

theorem shaperCharge_keeps {P : List Instr} {ks fn cls len : Nat} {s : State} (hk : Kp P s.pending s.mems) :
    Kp P (shaperCharge ks fn cls len s).pending (shaperCharge ks fn cls len s).mems := by
  unfold shaperCharge
  repeat' (first | with_reducible assumption | intro _ | dsimp only | with_reducible refine modShaper_keeps ?_ | split)

theorem shaperWaits_keeps {P : List Instr} {ks fn cls : Nat} {s : State} (hk : Kp P s.pending s.mems) :
    Kp P (shaperWaits ks fn cls s).pending (shaperWaits ks fn cls s).mems := by
  unfold shaperWaits
  repeat' (first | with_reducible assumption | intro _ | dsimp only | with_reducible refine modShaper_keeps ?_ | split)

theorem keepHead_keeps {P : List Instr} {h : Hold} {e : Entry} {q : QRef} {s : State} (hk : Kp P s.pending s.mems) :
    Kp P (keepHead h e q s).pending (keepHead h e q s).mems := by
  unfold keepHead
  repeat' (first | with_reducible assumption | intro _ | dsimp only | with_reducible refine modQueue_keeps ?_ | split)

theorem advanceHead_keeps {P : List Instr} {e : Entry} {q : QRef} {s : State} (hk : Kp P s.pending s.mems) :
    Kp P (advanceHead e q s).pending (advanceHead e q s).mems := by
  unfold advanceHead
  repeat' (first | with_reducible assumption | intro _ | dsimp only | with_reducible refine modQueue_keeps ?_ | split)

theorem offer_keeps {P : List Instr} {hold : State → QRef → Entry → Hold} {start : QRef → Nat → Entry → State → State} {q : QRef} {e : Entry} (Hstart : ∀ y0 y1 y2 t, Kp P t.pending t.mems → Kp P (start y0 y1 y2 t).pending (start y0 y1 y2 t).mems) {s : State} (hk : Kp P s.pending s.mems) :
    Kp P (offer hold start q e s).pending (offer hold start q e s).mems := by
  unfold offer
  repeat' (first | with_reducible assumption | intro _ | dsimp only | with_reducible refine Hstart _ _ _ _ ?_ | with_reducible refine malformed_keeps ?_ | with_reducible refine modQueue_keeps ?_ | with_reducible refine keepHead_keeps ?_ | with_reducible refine shaperWaits_keeps ?_ | with_reducible refine advanceHead_keeps ?_ | split)

theorem sendEntry_keeps {P : List Instr} {q : QRef} {idx : Nat} {e : Entry} {s : State} (hk : Kp P s.pending s.mems) :
    Kp P (sendEntry q idx e s).pending (sendEntry q idx e s).mems := by
  unfold sendEntry
  repeat' (first | with_reducible assumption | intro _ | dsimp only | with_reducible refine complete_keeps ?_ | with_reducible refine allocCtx_keeps ?_ | with_reducible refine allocCtx_eq (by assumption) ?_ | with_reducible refine modQueue_keeps ?_ | with_reducible refine queueMsgs_keeps ?_ | with_reducible refine modCtx_keeps ?_ | split)

theorem startWrite_keeps {P : List Instr} {q : QRef} {idx : Nat} {e : Entry} {s : State} (hk : Kp P s.pending s.mems) :
    Kp P (startWrite q idx e s).pending (startWrite q idx e s).mems := by
  unfold startWrite
  repeat' (first | with_reducible assumption | intro _ | dsimp only | with_reducible refine complete_keeps ?_ | with_reducible refine sendEntry_keeps ?_ | split)

theorem execWrite_keeps {P : List Instr} {q : QRef} {e : Entry} {s sNext : State} (hx : execWrite q e s = .next sNext) (hk : Kp P s.pending s.mems) :
    Kp P sNext.pending sNext.mems := by
  unfold execWrite at hx
  injection hx with hx
  subst hx
  repeat' (first | with_reducible assumption | intro _ | dsimp only | with_reducible refine offer_keeps ?_ ?_ | with_reducible refine startWrite_keeps ?_ | split)

theorem execWriteSignal_keeps {P : List Instr} {q : QRef} {e : Entry} {s sNext : State} (hx : execWriteSignal q e s = .next sNext) (hk : Kp P s.pending s.mems) :
    Kp P sNext.pending sNext.mems := by
  unfold execWriteSignal at hx
  injection hx with hx
  subst hx
  repeat' (first | with_reducible assumption | intro _ | dsimp only | with_reducible refine offer_keeps ?_ ?_ | with_reducible refine startWrite_keeps ?_ | split)

theorem execSend_keeps {P : List Instr} {q : QRef} {e : Entry} {s sNext : State} (hx : execSend q e s = .next sNext) (hk : Kp P s.pending s.mems) :
    Kp P sNext.pending sNext.mems := by
  unfold execSend at hx
  injection hx with hx
  subst hx
  repeat' (first | with_reducible assumption | intro _ | dsimp only | with_reducible refine offer_keeps ?_ ?_ | with_reducible refine startWrite_keeps ?_ | split)

theorem execSignalOnly_keeps {P : List Instr} {q : QRef} {e : Entry} {s sNext : State} (hx : execSignalOnly q e s = .next sNext) (hk : Kp P s.pending s.mems) :
    Kp P sNext.pending sNext.mems := by
  unfold execSignalOnly at hx
  injection hx with hx
  subst hx
  repeat' (first | with_reducible assumption | intro _ | dsimp only | with_reducible refine offer_keeps ?_ ?_ | with_reducible refine sendEntry_keeps ?_ | split)

theorem startRead_keeps {P : List Instr} {q : QRef} {idx : Nat} {e : Entry} {s : State} (hk : Kp P s.pending s.mems) :
    Kp P (startRead q idx e s).pending (startRead q idx e s).mems := by
  unfold startRead
  repeat' (first | with_reducible assumption | intro _ | dsimp only | with_reducible refine complete_keeps ?_ | with_reducible refine askPages_keeps ?_ | with_reducible refine vtouch_keeps ?_ | with_reducible refine holdPages_keeps ?_ | with_reducible refine modQueue_keeps ?_ | with_reducible refine sendEntry_keeps ?_ | split)

theorem execRead_keeps {P : List Instr} {q : QRef} {e : Entry} {s sNext : State} (hx : execRead q e s = .next sNext) (hk : Kp P s.pending s.mems) :
    Kp P sNext.pending sNext.mems := by
  unfold execRead at hx
  injection hx with hx
  subst hx
  repeat' (first | with_reducible assumption | intro _ | dsimp only | with_reducible refine offer_keeps ?_ ?_ | with_reducible refine startRead_keeps ?_ | split)

theorem execFetchAdd_keeps {P : List Instr} {q : QRef} {e : Entry} {s sNext : State} (hx : execFetchAdd q e s = .next sNext) (hk : Kp P s.pending s.mems) :
    Kp P sNext.pending sNext.mems := by
  unfold execFetchAdd at hx
  injection hx with hx
  subst hx
  repeat' (first | with_reducible assumption | intro _ | dsimp only | with_reducible refine offer_keeps ?_ ?_ | with_reducible refine startRead_keeps ?_ | split)

theorem execCompareSwap_keeps {P : List Instr} {q : QRef} {e : Entry} {s sNext : State} (hx : execCompareSwap q e s = .next sNext) (hk : Kp P s.pending s.mems) :
    Kp P sNext.pending sNext.mems := by
  unfold execCompareSwap at hx
  injection hx with hx
  subst hx
  repeat' (first | with_reducible assumption | intro _ | dsimp only | with_reducible refine offer_keeps ?_ ?_ | with_reducible refine startRead_keeps ?_ | split)

theorem startDone_keeps {P : List Instr} {q : QRef} {idx : Nat} {x2 : Entry} {s : State} (hk : Kp P s.pending s.mems) :
    Kp P (startDone q idx x2 s).pending (startDone q idx x2 s).mems := by
  unfold startDone
  repeat' (first | with_reducible assumption | intro _ | dsimp only | with_reducible refine completeOk_keeps ?_ | split)

theorem execWaitCount_keeps {P : List Instr} {q : QRef} {e : Entry} {s sNext : State} (hx : execWaitCount q e s = .next sNext) (hk : Kp P s.pending s.mems) :
    Kp P sNext.pending sNext.mems := by
  unfold execWaitCount at hx
  injection hx with hx
  subst hx
  repeat' (first | with_reducible assumption | intro _ | dsimp only | with_reducible refine offer_keeps ?_ ?_ | with_reducible refine startDone_keeps ?_ | split)

theorem execFence_keeps {P : List Instr} {q : QRef} {e : Entry} {s sNext : State} (hx : execFence q e s = .next sNext) (hk : Kp P s.pending s.mems) :
    Kp P sNext.pending sNext.mems := by
  unfold execFence at hx
  injection hx with hx
  subst hx
  repeat' (first | with_reducible assumption | intro _ | dsimp only | with_reducible refine offer_keeps ?_ ?_ | with_reducible refine startDone_keeps ?_ | split)

theorem setCopied_keeps {P : List Instr} {q : QRef} {idx n : Nat} {s : State} (hk : Kp P s.pending s.mems) :
    Kp P (setCopied q idx n s).pending (setCopied q idx n s).mems := by
  unfold setCopied
  repeat' (first | with_reducible assumption | intro _ | dsimp only | with_reducible refine modQueue_keeps ?_ | split)

theorem copyOn_keeps {P : List Instr} {q : QRef} {idx : Nat} {e : Entry} {v0 : Nat} {s : State} (hk : Kp P s.pending s.mems) :
    Kp P (copyOn q idx e v0 s).pending (copyOn q idx e v0 s).mems := by
  induction v0 generalizing s with
  | zero => unfold copyOn; repeat' (first | with_reducible assumption | intro _ | dsimp only | with_reducible refine completeOk_keeps ?_ | with_reducible refine complete_keeps ?_ | with_reducible refine askPages_keeps ?_ | with_reducible refine vtouch_keeps ?_ | with_reducible refine setCopied_keeps ?_ | with_reducible refine vwrite_keeps ?_ | with_reducible refine badEvent_keeps ?_ | split)
  | succ v0 ih => unfold copyOn; repeat' (first | with_reducible assumption | intro _ | dsimp only | with_reducible refine ih ?_ | with_reducible refine completeOk_keeps ?_ | with_reducible refine complete_keeps ?_ | with_reducible refine askPages_keeps ?_ | with_reducible refine vtouch_keeps ?_ | with_reducible refine setCopied_keeps ?_ | with_reducible refine vwrite_keeps ?_ | with_reducible refine badEvent_keeps ?_ | split)

theorem startCopy_keeps {P : List Instr} {q : QRef} {idx : Nat} {e : Entry} {s : State} (hk : Kp P s.pending s.mems) :
    Kp P (startCopy q idx e s).pending (startCopy q idx e s).mems := by
  unfold startCopy
  repeat' (first | with_reducible assumption | intro _ | dsimp only | with_reducible refine complete_keeps ?_ | with_reducible refine copyOn_keeps ?_ | split)

theorem execLocalCopy_keeps {P : List Instr} {q : QRef} {e : Entry} {s sNext : State} (hx : execLocalCopy q e s = .next sNext) (hk : Kp P s.pending s.mems) :
    Kp P sNext.pending sNext.mems := by
  unfold execLocalCopy at hx
  injection hx with hx
  subst hx
  repeat' (first | with_reducible assumption | intro _ | dsimp only | with_reducible refine offer_keeps ?_ ?_ | with_reducible refine startCopy_keeps ?_ | split)

theorem foldl_mwrite_wf (b a : Nat) (cs : List (Nat × Byte)) (m : Memory) (h : mwf m = true) :
    mwf (cs.foldl (fun m c => mwrite m (b + (c.1 - a)) c.2) m) = true := by
  induction cs generalizing m with
  | nil => exact h
  | cons c cs ih => exact ih _ (mwf_mwrite _ _ h)

theorem memCopy_keeps {P : List Instr} {src : MemId} {a : Nat} {dst : MemId} {b n : Nat} {s : State}
    (hk : Kp P s.pending s.mems) : Kp P (memCopy src a dst b n s).pending (memCopy src a dst b n s).mems :=
  memSet_keeps (foldl_mwrite_wf _ _ _ _ (memGet_ok (memZero_keeps hk).2)) (memZero_keeps hk)

theorem writeBack_keeps {P : List Instr} {fn seg p : Nat} {s : State} (hk : Kp P s.pending s.mems) :
    Kp P (writeBack fn seg p s).pending (writeBack fn seg p s).mems := by
  unfold writeBack
  repeat' (first | with_reducible assumption | intro _ | dsimp only | with_reducible refine bump_keeps ?_ | with_reducible refine memCopy_keeps ?_ | with_reducible refine modPage_keeps ?_ | with_reducible refine foldS_keeps _ _ ?_ ?_ | with_reducible refine memEvent_keeps ?_ | with_reducible refine memZero_keeps ?_ | split)

theorem dropPage_keeps {P : List Instr} {fn seg p : Nat} {s : State} (hk : Kp P s.pending s.mems) :
    Kp P (dropPage fn seg p s).pending (dropPage fn seg p s).mems := by
  unfold dropPage
  repeat' (first | with_reducible assumption | intro _ | dsimp only | with_reducible refine modPage_keeps ?_ | with_reducible refine uncachePage_keeps ?_ | split)

theorem evictPage_keeps {P : List Instr} {fn seg p : Nat} {s : State} (hk : Kp P s.pending s.mems) :
    Kp P (evictPage fn seg p s).pending (evictPage fn seg p s).mems := by
  unfold evictPage
  repeat' (first | with_reducible assumption | intro _ | dsimp only | with_reducible refine bump_keeps ?_ | with_reducible refine uncachePage_keeps ?_ | with_reducible refine dropPage_keeps ?_ | with_reducible refine writeBack_keeps ?_ | split)

theorem loadPage_keeps {P : List Instr} {fn seg p frame : Nat} {s : State} (hk : Kp P s.pending s.mems) :
    Kp P (loadPage fn seg p frame s).pending (loadPage fn seg p frame s).mems := by
  unfold loadPage
  repeat' (first | with_reducible assumption | intro _ | dsimp only | with_reducible refine memCopy_keeps ?_ | with_reducible refine modPage_keeps ?_ | split)

theorem movePage_keeps {P : List Instr} {fn seg p frame : Nat} {s : State} (hk : Kp P s.pending s.mems) :
    Kp P (movePage fn seg p frame s).pending (movePage fn seg p frame s).mems := by
  unfold movePage
  repeat' (first | with_reducible assumption | intro _ | dsimp only | with_reducible refine uncachePage_keeps ?_ | with_reducible refine memCopy_keeps ?_ | with_reducible refine modPage_keeps ?_ | split)

theorem allocKey_eq {P : List Instr} {window : Bool} {i : Nat} {s u : State} (he : allocKey window s = some (i, u))
    (hk : Kp P s.pending s.mems) : Kp P u.pending u.mems := by
  unfold allocKey at he
  dsimp only at he
  repeat' split at he
  all_goals first | cases he | skip
  all_goals exact hk

theorem freeKey_keeps {P : List Instr} {i : Nat} {s : State} (hk : Kp P s.pending s.mems) :
    Kp P (freeKey i s).pending (freeKey i s).mems := by
  unfold freeKey
  repeat' (first | with_reducible assumption | intro _ | dsimp only | split)

theorem pinRun_eq {P : List Instr} {fn seg : Nat} {ps : List Nat} {fuel a : Nat} {s u : State}
    (he : pinRun fn seg ps fuel s = some (a, u)) (hk : Kp P s.pending s.mems) : Kp P u.pending u.mems := by
  induction fuel generalizing s with
  | zero => cases he
  | succ fuel ih =>
    unfold pinRun at he
    dsimp only at he
    have pins (s : State) (h : Kp P s.pending s.mems) := foldS_keeps
      (f := fun p t => modPage fn seg p (fun x => { x with pins := x.pins + 1 }) t) ps s
      (fun _ _ h => modPage_keeps h) h
    split at he
    · cases he; exact pins _ hk
    · split at he
      · split at he
        · cases he
          refine pins _ (foldS_keeps _ _ ?_ hk)
          intro p t h
          split
          · exact movePage_keeps h
          · exact loadPage_keeps h
        · split at he
          · exact ih he (evictPage_keeps hk)
          · cases he
      · split at he
        · exact ih he (evictPage_keeps hk)
        · cases he

theorem installKey_keeps {P : List Instr} {q : QRef} {idx : Nat} {e : Entry} {window : Bool} {tier base : Nat} {pinned : Option (Nat × Nat × Nat)} {s : State} (hk : Kp P s.pending s.mems) :
    Kp P (installKey q idx e window tier base pinned s).pending (installKey q idx e window tier base pinned s).mems := by
  unfold installKey
  repeat' (first | with_reducible assumption | intro _ | dsimp only | with_reducible refine allocKey_eq (by assumption) ?_ | with_reducible refine complete_keeps ?_ | with_reducible refine setKey_keeps ?_ | with_reducible refine vwrite_keeps ?_ | with_reducible refine completeOk_keeps ?_ | split)

theorem startKey_keeps {P : List Instr} {window : Bool} {q : QRef} {idx : Nat} {e : Entry} {s : State} (hk : Kp P s.pending s.mems) :
    Kp P (startKey window q idx e s).pending (startKey window q idx e s).mems := by
  unfold startKey
  repeat' (first | with_reducible assumption | intro _ | dsimp only | with_reducible refine complete_keeps ?_ | with_reducible refine askPages_keeps ?_ | with_reducible refine vtouch_keeps ?_ | with_reducible refine installKey_keeps ?_ | with_reducible refine holdPages_keeps ?_ | with_reducible refine pinRun_eq (by assumption) ?_ | split)

theorem execRegionRegister_keeps {P : List Instr} {q : QRef} {e : Entry} {s sNext : State} (hx : execRegionRegister q e s = .next sNext) (hk : Kp P s.pending s.mems) :
    Kp P sNext.pending sNext.mems := by
  unfold execRegionRegister at hx
  injection hx with hx
  subst hx
  repeat' (first | with_reducible assumption | intro _ | dsimp only | with_reducible refine offer_keeps ?_ ?_ | with_reducible refine startKey_keeps ?_ | split)

theorem execWindowOpen_keeps {P : List Instr} {q : QRef} {e : Entry} {s sNext : State} (hx : execWindowOpen q e s = .next sNext) (hk : Kp P s.pending s.mems) :
    Kp P sNext.pending sNext.mems := by
  unfold execWindowOpen at hx
  injection hx with hx
  subst hx
  repeat' (first | with_reducible assumption | intro _ | dsimp only | with_reducible refine offer_keeps ?_ ?_ | with_reducible refine startKey_keeps ?_ | split)

theorem revokeKey_keeps {P : List Instr} {i : Nat} {s : State} (hk : Kp P s.pending s.mems) :
    Kp P (revokeKey i s).pending (revokeKey i s).mems := by
  unfold revokeKey
  repeat' (first | with_reducible assumption | intro _ | dsimp only | with_reducible refine staleBindings_keeps ?_ | with_reducible refine setKey_keeps ?_ | split)

theorem unpinKey_keeps {P : List Instr} {e : KeyEntry} {s : State} (hk : Kp P s.pending s.mems) :
    Kp P (unpinKey e s).pending (unpinKey e s).mems := by
  unfold unpinKey
  repeat' (first | with_reducible assumption | intro _ | dsimp only | with_reducible refine foldS_keeps _ _ ?_ ?_ | with_reducible refine modPage_keeps ?_ | split)

theorem endDrain_keeps {P : List Instr} {i : Nat} {s : State} (hk : Kp P s.pending s.mems) :
    Kp P (endDrain i s).pending (endDrain i s).mems := by
  unfold endDrain
  repeat' (first | with_reducible assumption | intro _ | dsimp only | with_reducible refine unpinKey_keeps ?_ | with_reducible refine setKey_keeps ?_ | with_reducible refine freeKey_keeps ?_ | with_reducible refine foldS_keeps _ _ ?_ ?_ | with_reducible refine completeOk_keeps ?_ | split)

theorem startRevoke_keeps {P : List Instr} {window : Bool} {q : QRef} {idx : Nat} {e : Entry} {s : State} (hk : Kp P s.pending s.mems) :
    Kp P (startRevoke window q idx e s).pending (startRevoke window q idx e s).mems := by
  unfold startRevoke
  repeat' (first | with_reducible assumption | intro _ | dsimp only | with_reducible refine complete_keeps ?_ | with_reducible refine revokeKey_keeps ?_ | with_reducible refine completeOk_keeps ?_ | split)

theorem execRegionDeregister_keeps {P : List Instr} {q : QRef} {e : Entry} {s sNext : State} (hx : execRegionDeregister q e s = .next sNext) (hk : Kp P s.pending s.mems) :
    Kp P sNext.pending sNext.mems := by
  unfold execRegionDeregister at hx
  injection hx with hx
  subst hx
  repeat' (first | with_reducible assumption | intro _ | dsimp only | with_reducible refine offer_keeps ?_ ?_ | with_reducible refine startRevoke_keeps ?_ | split)

theorem execWindowRevoke_keeps {P : List Instr} {q : QRef} {e : Entry} {s sNext : State} (hx : execWindowRevoke q e s = .next sNext) (hk : Kp P s.pending s.mems) :
    Kp P sNext.pending sNext.mems := by
  unfold execWindowRevoke at hx
  injection hx with hx
  subst hx
  repeat' (first | with_reducible assumption | intro _ | dsimp only | with_reducible refine offer_keeps ?_ ?_ | with_reducible refine startRevoke_keeps ?_ | split)

theorem execKeyDrainEnd_keeps {P : List Instr} {index : Nat} {s sNext : State} (hx : execKeyDrainEnd index s = .next sNext) (hk : Kp P s.pending s.mems) :
    Kp P sNext.pending sNext.mems := by
  unfold execKeyDrainEnd at hx
  injection hx with hx
  subst hx
  repeat' (first | with_reducible assumption | intro _ | dsimp only | with_reducible refine endDrain_keeps ?_ | split)

theorem startSettle_keeps {P : List Instr} {q : QRef} {idx : Nat} {x2 : Entry} {s : State} (hk : Kp P s.pending s.mems) :
    Kp P (startSettle q idx x2 s).pending (startSettle q idx x2 s).mems := by
  unfold startSettle
  repeat' (first | with_reducible assumption | intro _ | dsimp only | split)

theorem execSettle_keeps {P : List Instr} {q : QRef} {e : Entry} {s sNext : State} (hx : execSettle q e s = .next sNext) (hk : Kp P s.pending s.mems) :
    Kp P sNext.pending sNext.mems := by
  unfold execSettle at hx
  injection hx with hx
  subst hx
  repeat' (first | with_reducible assumption | intro _ | dsimp only | with_reducible refine offer_keeps ?_ ?_ | with_reducible refine startSettle_keeps ?_ | split)

theorem execSettleComplete_keeps {P : List Instr} {q : QRef} {idx : Nat} {s sNext : State} (hx : execSettleComplete q idx s = .next sNext) (hk : Kp P s.pending s.mems) :
    Kp P sNext.pending sNext.mems := by
  unfold execSettleComplete at hx
  injection hx with hx
  subst hx
  repeat' (first | with_reducible assumption | intro _ | dsimp only | with_reducible refine completeOk_keeps ?_ | split)

theorem recvReturn_keeps {P : List Instr} {fn v : Nat} {s : State} (hk : Kp P s.pending s.mems) :
    Kp P (recvReturn fn v s).pending (recvReturn fn v s).mems := by
  unfold recvReturn
  repeat' (first | with_reducible assumption | intro _ | dsimp only | with_reducible refine modQueue_keeps ?_ | split)

theorem execRecvReturn_keeps {P : List Instr} {fn : Nat} {value : W32} {s sNext : State} (hx : execRecvReturn fn value s = .next sNext) (hk : Kp P s.pending s.mems) :
    Kp P sNext.pending sNext.mems := by
  unfold execRecvReturn at hx
  injection hx with hx
  subst hx
  repeat' (first | with_reducible assumption | intro _ | dsimp only | with_reducible refine recvReturn_keeps ?_ | split)

theorem pushClass_keeps {P : List Instr} {port cls : Nat} {f : TxFrame} {s : State} (hk : Kp P s.pending s.mems) :
    Kp P (pushClass port cls f s).pending (pushClass port cls f s).mems := by
  unfold pushClass
  repeat' (first | with_reducible assumption | intro _ | dsimp only | with_reducible refine modPort_keeps ?_ | split)

theorem queueEth_keeps {P : List Instr} {ctxIndex path : Nat} {p : Packet} {s : State} (hk : Kp P s.pending s.mems) :
    Kp P (queueEth ctxIndex path p s).pending (queueEth ctxIndex path p s).mems := by
  unfold queueEth
  repeat' (first | with_reducible assumption | intro _ | dsimp only | with_reducible refine bump_keeps ?_ | with_reducible refine pushClass_keeps ?_ | split)

theorem sendPause_keeps {P : List Instr} {port prio quanta : Nat} {s : State} (hk : Kp P s.pending s.mems) :
    Kp P (sendPause port prio quanta s).pending (sendPause port prio quanta s).mems := by
  unfold sendPause
  repeat' (first | with_reducible assumption | intro _ | dsimp only | with_reducible refine bump_keeps ?_ | with_reducible refine outEmit_keeps ?_ | split)

theorem flowOne_keeps {P : List Instr} {port prio : Nat} {s : State} (hk : Kp P s.pending s.mems) :
    Kp P (flowOne port prio s).pending (flowOne port prio s).mems := by
  unfold flowOne
  repeat' (first | with_reducible assumption | intro _ | dsimp only | with_reducible refine sendPause_keeps ?_ | with_reducible refine modPort_keeps ?_ | split)

theorem flowCheck_keeps {P : List Instr} {port : Nat} {s : State} (hk : Kp P s.pending s.mems) :
    Kp P (flowCheck port s).pending (flowCheck port s).mems := by
  unfold flowCheck
  repeat' (first | with_reducible assumption | intro _ | dsimp only | with_reducible refine flowOne_keeps ?_ | with_reducible refine foldS_keeps _ _ ?_ ?_ | split)

theorem freeHeld_keeps {P : List Instr} {port : Nat} {p : Packet} {s : State} (hk : Kp P s.pending s.mems) :
    Kp P (freeHeld port p s).pending (freeHeld port p s).mems := by
  unfold freeHeld
  repeat' (first | with_reducible assumption | intro _ | dsimp only | with_reducible refine flowCheck_keeps ?_ | with_reducible refine modPort_keeps ?_ | split)

theorem sendAnswer_keeps {P : List Instr} {peer : W32} {p : Packet} {s : State} (hk : Kp P s.pending s.mems) :
    Kp P (sendAnswer peer p s).pending (sendAnswer peer p s).mems := by
  unfold sendAnswer
  repeat' (first | with_reducible assumption | intro _ | dsimp only | with_reducible refine queueEth_keeps ?_ | with_reducible refine drawn_keeps ?_ | with_reducible refine queueBond_keeps ?_ | split)

theorem takeEcho_keeps {P : List Instr} {peer : W32} {s : State} (hk : Kp P s.pending s.mems) :
    Kp P (takeEcho peer s).2.pending (takeEcho peer s).2.mems := by
  unfold takeEcho
  repeat' (first | with_reducible assumption | intro _ | dsimp only | with_reducible refine setCtx_keeps ?_ | split)

theorem takeEcho_eq {P : List Instr} {peer : W32} {s u : State} {w} (he : takeEcho peer s = (w, u)) (hk : Kp P s.pending s.mems) :
    Kp P u.pending u.mems := by
  have := takeEcho_keeps (peer := peer) hk; rw [he] at this; exact this

theorem sendNack_keeps {P : List Instr} {peer : W32} {p : Packet} {status cur : Nat} {s : State} (hk : Kp P s.pending s.mems) :
    Kp P (sendNack peer p status cur s).pending (sendNack peer p status cur s).mems := by
  unfold sendNack
  repeat' (first | with_reducible assumption | intro _ | dsimp only | with_reducible refine takeEcho_keeps ?_ | with_reducible refine takeEcho_eq (by assumption) ?_ | with_reducible refine sendAnswer_keeps ?_ | split)

theorem sendRnr_keeps {P : List Instr} {peer : W32} {p : Packet} {cause hint : Nat} {s : State} (hk : Kp P s.pending s.mems) :
    Kp P (sendRnr peer p cause hint s).pending (sendRnr peer p cause hint s).mems := by
  unfold sendRnr
  repeat' (first | with_reducible assumption | intro _ | dsimp only | with_reducible refine bump_keeps ?_ | with_reducible refine sendAnswer_keeps ?_ | split)

theorem ackNow_keeps {P : List Instr} {peer : W32} {s : State} (hk : Kp P s.pending s.mems) :
    Kp P (ackNow peer s).pending (ackNow peer s).mems := by
  unfold ackNow
  repeat' (first | with_reducible assumption | intro _ | dsimp only | with_reducible refine setCtx_keeps ?_ | with_reducible refine foldS_keeps _ _ ?_ ?_ | with_reducible refine takeEcho_keeps ?_ | with_reducible refine takeEcho_eq (by assumption) ?_ | with_reducible refine sendAnswer_keeps ?_ | split)

theorem doorFail_keeps {P : List Instr} {core status : Nat} {result : W64} {peer : W32} {s : State} (hk : Kp P s.pending s.mems) :
    Kp P (doorFail core status result peer s).pending (doorFail core status result peer s).mems := by
  unfold doorFail
  repeat' (first | with_reducible assumption | intro _ | dsimp only | with_reducible refine haltCore_keeps ?_ | with_reducible refine launchFault_keeps ?_ | with_reducible refine foldS_keeps _ _ ?_ ?_ | with_reducible refine abortOwner_keeps ?_ | with_reducible refine modCore_keeps ?_ | split)

theorem sendDoor_keeps {P : List Instr} {core n : Nat} {s : State} (hk : Kp P s.pending s.mems) :
    Kp P (sendDoor core n s).pending (sendDoor core n s).mems := by
  unfold sendDoor
  repeat' (first | with_reducible assumption | intro _ | dsimp only | with_reducible refine doorFail_keeps ?_ | with_reducible refine modCore_keeps ?_ | with_reducible refine allocCtx_keeps ?_ | with_reducible refine allocCtx_eq (by assumption) ?_ | with_reducible refine queueMsgs_keeps ?_ | split)

theorem releaseDoor_keeps {P : List Instr} {core : Nat} {s : State} (hk : Kp P s.pending s.mems) :
    Kp P (releaseDoor core s).pending (releaseDoor core s).mems := by
  unfold releaseDoor
  repeat' (first | with_reducible assumption | intro _ | dsimp only | with_reducible refine foldS_keeps _ _ ?_ ?_ | with_reducible refine sendDoor_keeps ?_ | split)

theorem doorDone_keeps {P : List Instr} {core n status : Nat} {result : W64} {peer : W32} {s : State} (hk : Kp P s.pending s.mems) :
    Kp P (doorDone core n status result peer s).pending (doorDone core n status result peer s).mems := by
  unfold doorDone
  repeat' (first | with_reducible assumption | intro _ | dsimp only | with_reducible refine touchCore_keeps ?_ | with_reducible refine modCore_keeps ?_ | with_reducible refine releaseDoor_keeps ?_ | with_reducible refine semAdd_keeps ?_ | with_reducible refine doorFail_keeps ?_ | split)

theorem clearDelivered_keeps {P : List Instr} {q : QRef} {idx pos : Nat} {s : State} (hk : Kp P s.pending s.mems) :
    Kp P (clearDelivered q idx pos s).pending (clearDelivered q idx pos s).mems := by
  unfold clearDelivered
  repeat' (first | with_reducible assumption | intro _ | dsimp only | with_reducible refine modQueue_keeps ?_ | split)

theorem setResult_keeps {P : List Instr} {q : QRef} {idx : Nat} {v : W64} {s : State} (hk : Kp P s.pending s.mems) :
    Kp P (setResult q idx v s).pending (setResult q idx v s).mems := by
  unfold setResult
  repeat' (first | with_reducible assumption | intro _ | dsimp only | with_reducible refine modQueue_keeps ?_ | split)

theorem entryFinished_keeps {P : List Instr} {q : QRef} {idx : Nat} {s : State} (hk : Kp P s.pending s.mems) :
    Kp P (entryFinished q idx s).pending (entryFinished q idx s).mems := by
  unfold entryFinished
  repeat' (first | with_reducible assumption | intro _ | dsimp only | with_reducible refine complete_keeps ?_ | with_reducible refine completeWith_keeps ?_ | split)

theorem dropResponse_keeps {P : List Instr} {req : W32} {num : W32} {s : State} (hk : Kp P s.pending s.mems) :
    Kp P (dropResponse req num s).pending (dropResponse req num s).mems := by
  unfold dropResponse
  repeat' (first | with_reducible assumption | intro _ | dsimp only | split)

theorem ownerFinished_keeps {P : List Instr} {o : Owner} {s : State} (hk : Kp P s.pending s.mems) :
    Kp P (ownerFinished o s).pending (ownerFinished o s).mems := by
  unfold ownerFinished
  repeat' (first | with_reducible assumption | intro _ | dsimp only | with_reducible refine entryFinished_keeps ?_ | with_reducible refine doorDone_keeps ?_ | with_reducible refine dropResponse_keeps ?_ | split)

theorem endMember_keeps {P : List Instr} {h n : W32} {status : Nat} {peer : W32} {s : State} (hk : Kp P s.pending s.mems) :
    Kp P (endMember h n status peer s).pending (endMember h n status peer s).mems := by
  unfold endMember
  repeat' (first | with_reducible assumption | intro _ | dsimp only | with_reducible refine complete_keeps ?_ | with_reducible refine modInst_keeps ?_ | split)

theorem failOwner_keeps {P : List Instr} {o : Owner} {status : Nat} {result : W64} {peer : W32} {s : State} (hk : Kp P s.pending s.mems) :
    Kp P (failOwner o status result peer s).pending (failOwner o status result peer s).mems := by
  unfold failOwner
  repeat' (first | with_reducible assumption | intro _ | dsimp only | with_reducible refine complete_keeps ?_ | with_reducible refine doorDone_keeps ?_ | with_reducible refine abortOwner_keeps ?_ | with_reducible refine dropResponse_keeps ?_ | with_reducible refine endMember_keeps ?_ | with_reducible refine abortInst_keeps ?_ | split)

theorem srcTouch_keeps {P : List Instr} {ks : Nat} {m : TxMsg} {off len : Nat} {s : State} (hk : Kp P s.pending s.mems) :
    Kp P (srcTouch ks m off len s).pending (srcTouch ks m off len s).mems := by
  unfold srcTouch
  repeat' (first | with_reducible assumption | intro _ | dsimp only | with_reducible refine vtouch_keeps ?_ | split)

theorem sealPacket_keeps {P : List Instr} {fn : Nat} {p : Packet} {s : State} (hk : Kp P s.pending s.mems) :
    Kp P (sealPacket fn p s).2.pending (sealPacket fn p s).2.mems := by
  unfold sealPacket
  repeat' (first | with_reducible assumption | intro _ | dsimp only | with_reducible refine modFn_keeps ?_ | split)

theorem sealPacket_eq {P : List Instr} {fn : Nat} {p : Packet} {s u : State} {w} (he : sealPacket fn p s = (w, u)) (hk : Kp P s.pending s.mems) :
    Kp P u.pending u.mems := by
  have := sealPacket_keeps (fn := fn) (p := p) hk; rw [he] at this; exact this

theorem queueLine_keeps {P : List Instr} {axis : Nat} {bitmap : W32} {p : Packet} {s : State} (hk : Kp P s.pending s.mems) :
    Kp P (queueLine axis bitmap p s).pending (queueLine axis bitmap p s).mems := by
  unfold queueLine
  repeat' (first | with_reducible assumption | intro _ | dsimp only | with_reducible refine pushFrame_keeps ?_ | split)

theorem launchPacket_keeps {P : List Instr} {peer : W32} {c : Ctx} {path : Nat} {qp : Option Nat} {p : Packet} {s : State} (hk : Kp P s.pending s.mems) :
    Kp P (launchPacket peer c path qp p s).pending (launchPacket peer c path qp p s).mems := by
  unfold launchPacket
  repeat' (first | with_reducible assumption | intro _ | dsimp only | with_reducible refine queueLine_keeps ?_ | with_reducible refine queueEth_keeps ?_ | with_reducible refine queueBond_keeps ?_ | split)

theorem markSent_keeps {P : List Instr} {o : Owner} {s : State} (hk : Kp P s.pending s.mems) :
    Kp P (markSent o s).pending (markSent o s).mems := by
  unfold markSent
  repeat' (first | with_reducible assumption | intro _ | dsimp only | with_reducible refine modQueue_keeps ?_ | split)

theorem sourceFailed_keeps {P : List Instr} {ks : Nat} {peer : W32} {m : TxMsg} {off len : Nat} {g : Got} {s : State} (hk : Kp P s.pending s.mems) :
    Kp P (sourceFailed ks peer m off len g s).pending (sourceFailed ks peer m off len g s).mems := by
  unfold sourceFailed
  repeat' (first | with_reducible assumption | intro _ | dsimp only | with_reducible refine askPages_keeps ?_ | with_reducible refine memEvent_keeps ?_ | with_reducible refine dropResponse_keeps ?_ | with_reducible refine abortOwner_keeps ?_ | with_reducible refine badEvent_keeps ?_ | with_reducible refine failOwner_keeps ?_ | split)

theorem endOutstanding_keeps {P : List Instr} {peer : W32} {status : Nat} {who : W32} {give : Bool} {s : State} (hk : Kp P s.pending s.mems) :
    Kp P (endOutstanding peer status who give s).pending (endOutstanding peer status who give s).mems := by
  unfold endOutstanding
  repeat' (first | with_reducible assumption | intro _ | dsimp only | with_reducible refine setCtx_keeps ?_ | with_reducible refine foldS_keeps _ _ ?_ ?_ | with_reducible refine bump_keeps ?_ | with_reducible refine failOwner_keeps ?_ | split)

theorem renewSelf_keeps {P : List Instr} {peer : W32} {s : State} (hk : Kp P s.pending s.mems) :
    Kp P (renewSelf peer s).pending (renewSelf peer s).mems := by
  unfold renewSelf
  repeat' (first | with_reducible assumption | intro _ | dsimp only | with_reducible refine endOutstanding_keeps ?_ | split)

theorem transmitFirst_keeps {P : List Instr} {peer : W32} {path : Nat} {s : State} (hk : Kp P s.pending s.mems) :
    Kp P (transmitFirst peer path s).pending (transmitFirst peer path s).mems := by
  unfold transmitFirst
  repeat' (first | with_reducible assumption | intro _ | dsimp only | with_reducible refine ensureOpening_keeps ?_ | with_reducible refine renewSelf_keeps ?_ | with_reducible refine wakePad_keeps ?_ | with_reducible refine shaperWaits_keeps ?_ | with_reducible refine sealPacket_keeps ?_ | with_reducible refine sealPacket_eq (by assumption) ?_ | with_reducible refine srcTouch_keeps ?_ | with_reducible refine failOwner_keeps ?_ | with_reducible refine shaperCharge_keeps ?_ | with_reducible refine foldS_keeps _ _ ?_ ?_ | with_reducible refine clearDelivered_keeps ?_ | with_reducible refine launchPacket_keeps ?_ | with_reducible refine markSent_keeps ?_ | with_reducible refine setCtx_keeps ?_ | with_reducible refine sourceFailed_keeps ?_ | split)

theorem transmitAgain_keeps {P : List Instr} {peer : W32} {seq : W32} {path : Nat} {s : State} (hk : Kp P s.pending s.mems) :
    Kp P (transmitAgain peer seq path s).pending (transmitAgain peer seq path s).mems := by
  unfold transmitAgain
  repeat' (first | with_reducible assumption | intro _ | dsimp only | with_reducible refine sealPacket_keeps ?_ | with_reducible refine sealPacket_eq (by assumption) ?_ | with_reducible refine failOwner_keeps ?_ | with_reducible refine launchPacket_keeps ?_ | with_reducible refine setCtx_keeps ?_ | with_reducible refine wakePad_keeps ?_ | with_reducible refine srcTouch_keeps ?_ | with_reducible refine sourceFailed_keeps ?_ | split)

theorem resendNow_keeps {P : List Instr} {peer : W32} {seqs : List W32} {s : State} (hk : Kp P s.pending s.mems) :
    Kp P (resendNow peer seqs s).pending (resendNow peer seqs s).mems := by
  unfold resendNow
  repeat' (first | with_reducible assumption | intro _ | dsimp only | with_reducible refine foldS_keeps _ _ ?_ ?_ | with_reducible refine touchCtx_keeps ?_ | with_reducible refine transmitAgain_keeps ?_ | with_reducible refine drawn_keeps ?_ | split)

theorem execPacketTransmit_keeps {P : List Instr} {peer : W32} {path : Nat} {s sNext : State} (hx : execPacketTransmit peer path s = .next sNext) (hk : Kp P s.pending s.mems) :
    Kp P sNext.pending sNext.mems := by
  unfold execPacketTransmit at hx
  injection hx with hx
  subst hx
  repeat' (first | with_reducible assumption | intro _ | dsimp only | with_reducible refine foldS_keeps _ _ ?_ ?_ | with_reducible refine releaseDoor_keeps ?_ | with_reducible refine touchCtx_keeps ?_ | with_reducible refine transmitAgain_keeps ?_ | with_reducible refine transmitFirst_keeps ?_ | split)

theorem takeIn_keeps {P : List Instr} {rx : RxInfo} {p : Packet} {s : State} (hk : Kp P s.pending s.mems) :
    Kp P (takeIn rx p s).pending (takeIn rx p s).mems := by
  unfold takeIn
  repeat' (first | with_reducible assumption | intro _ | dsimp only | with_reducible refine freeHeld_keeps ?_ | split)

theorem arrive_keeps {P : List Instr} {rx : RxInfo} {p : Packet} {f : State → State} (Hf : ∀ t, Kp P t.pending t.mems → Kp P (f t).pending (f t).mems) {s : State} (hk : Kp P s.pending s.mems) :
    Kp P (arrive rx p f s).pending (arrive rx p f s).mems := by
  unfold arrive
  repeat' (first | with_reducible assumption | intro _ | dsimp only | with_reducible refine Hf _ ?_ | with_reducible refine takeIn_keeps ?_ | with_reducible refine bump_keeps ?_ | split)

theorem takeOuts_keeps {P : List Instr} {peer : W32} {who : Nat} {pred : OutPkt → Bool} {s : State} (hk : Kp P s.pending s.mems) :
    Kp P (takeOuts peer who pred s).2.pending (takeOuts peer who pred s).2.mems := by
  unfold takeOuts
  repeat' (first | with_reducible assumption | intro _ | dsimp only | with_reducible refine setCtx_keeps ?_ | split)

theorem takeOuts_eq {P : List Instr} {peer : W32} {who : Nat} {pred : OutPkt → Bool} {s u : State} {w} (he : takeOuts peer who pred s = (w, u)) (hk : Kp P s.pending s.mems) :
    Kp P u.pending u.mems := by
  have := takeOuts_keeps (peer := peer) (who := who) (pred := pred) hk; rw [he] at this; exact this

theorem flagResend_keeps {P : List Instr} {peer : W32} {seqs : List W32} {s : State} (hk : Kp P s.pending s.mems) :
    Kp P (flagResend peer seqs s).pending (flagResend peer seqs s).mems := by
  unfold flagResend
  repeat' (first | with_reducible assumption | intro _ | dsimp only | with_reducible refine modCtx_keeps ?_ | split)

theorem ackMessage_keeps {P : List Instr} {peer : W32} {o : OutPkt} {s : State} (hk : Kp P s.pending s.mems) :
    Kp P (ackMessage peer o s).pending (ackMessage peer o s).mems := by
  unfold ackMessage
  repeat' (first | with_reducible assumption | intro _ | dsimp only | with_reducible refine setCtx_keeps ?_ | with_reducible refine ownerFinished_keeps ?_ | split)

theorem settleAcks_keeps {P : List Instr} {peer : W32} {newly : List OutPkt} {e : Nat} {s : State} (hk : Kp P s.pending s.mems) :
    Kp P (settleAcks peer newly e s).pending (settleAcks peer newly e s).mems := by
  unfold settleAcks
  repeat' (first | with_reducible assumption | intro _ | dsimp only | with_reducible refine modCtx_keeps ?_ | with_reducible refine ccEcho_keeps ?_ | with_reducible refine foldS_keeps _ _ ?_ ?_ | with_reducible refine bump_keeps ?_ | with_reducible refine flagResend_keeps ?_ | with_reducible refine ackMessage_keeps ?_ | with_reducible refine resendNow_keeps ?_ | split)

theorem piggyback_keeps {P : List Instr} {peer : W32} {a : W32} {s : State} (hk : Kp P s.pending s.mems) :
    Kp P (piggyback peer a s).pending (piggyback peer a s).mems := by
  unfold piggyback
  repeat' (first | with_reducible assumption | intro _ | dsimp only | with_reducible refine takeOuts_keeps ?_ | with_reducible refine takeOuts_eq (by assumption) ?_ | with_reducible refine settleAcks_keeps ?_ | split)

theorem refuseOut_keeps {P : List Instr} {peer : W32} {who status : Nat} {off : W64} {src : W32} {o : OutPkt} {s : State} (hk : Kp P s.pending s.mems) :
    Kp P (refuseOut peer who status off src o s).pending (refuseOut peer who status off src o s).mems := by
  unfold refuseOut
  repeat' (first | with_reducible assumption | intro _ | dsimp only | with_reducible refine clearDelivered_keeps ?_ | with_reducible refine failOwner_keeps ?_ | split)

theorem rnrArrived_keeps {P : List Instr} {peer : W32} {hint : Nat} {q : W32} {s : State} (hk : Kp P s.pending s.mems) :
    Kp P (rnrArrived peer hint q s).pending (rnrArrived peer hint q s).mems := by
  unfold rnrArrived
  repeat' (first | with_reducible assumption | intro _ | dsimp only | with_reducible refine setCtx_keeps ?_ | split)

theorem answerIn_keeps {P : List Instr} {peer : W32} {p : Packet} {s : State} (hk : Kp P s.pending s.mems) :
    Kp P (answerIn peer p s).pending (answerIn peer p s).mems := by
  unfold answerIn
  repeat' (first | with_reducible assumption | intro _ | dsimp only | with_reducible refine touchCtx_keeps ?_ | with_reducible refine modCtx_keeps ?_ | with_reducible refine takeOuts_keeps ?_ | with_reducible refine takeOuts_eq (by assumption) ?_ | with_reducible refine settleAcks_keeps ?_ | with_reducible refine foldS_keeps _ _ ?_ ?_ | with_reducible refine refuseOut_keeps ?_ | with_reducible refine rnrArrived_keeps ?_ | split)

theorem endLine_keeps {P : List Instr} {peer : W32} {s : State} (hk : Kp P s.pending s.mems) :
    Kp P (endLine peer s).pending (endLine peer s).mems := by
  unfold endLine
  repeat' (first | with_reducible assumption | intro _ | dsimp only | with_reducible refine setCtx_keeps ?_ | with_reducible refine foldS_keeps _ _ ?_ ?_ | with_reducible refine completeWith_keeps ?_ | split)

theorem answerEpoch_keeps {P : List Instr} {peer : W32} {p : Packet} {s : State} (hk : Kp P s.pending s.mems) :
    Kp P (answerEpoch peer p s).pending (answerEpoch peer p s).mems := by
  unfold answerEpoch
  repeat' (first | with_reducible assumption | intro _ | dsimp only | with_reducible refine takeOuts_keeps ?_ | with_reducible refine takeOuts_eq (by assumption) ?_ | with_reducible refine endLine_keeps ?_ | with_reducible refine modCtx_keeps ?_ | with_reducible refine foldS_keeps _ _ ?_ ?_ | with_reducible refine refuseOut_keeps ?_ | with_reducible refine answerIn_keeps ?_ | with_reducible refine bump_keeps ?_ | with_reducible refine touchCtx_keeps ?_ | with_reducible refine endOutstanding_keeps ?_ | with_reducible refine settleAcks_keeps ?_ | split)

theorem execAckReceive_keeps {P : List Instr} {rx : RxInfo} {p : Packet} {s sNext : State} (hx : execAckReceive rx p s = .next sNext) (hk : Kp P s.pending s.mems) :
    Kp P sNext.pending sNext.mems := by
  unfold execAckReceive at hx
  injection hx with hx
  subst hx
  repeat' (first | with_reducible assumption | intro _ | dsimp only | with_reducible refine arrive_keeps ?_ ?_ | with_reducible refine answerEpoch_keeps ?_ | split)

theorem execNackReceive_keeps {P : List Instr} {rx : RxInfo} {p : Packet} {s sNext : State} (hx : execNackReceive rx p s = .next sNext) (hk : Kp P s.pending s.mems) :
    Kp P sNext.pending sNext.mems := by
  unfold execNackReceive at hx
  injection hx with hx
  subst hx
  repeat' (first | with_reducible assumption | intro _ | dsimp only | with_reducible refine arrive_keeps ?_ ?_ | with_reducible refine answerEpoch_keeps ?_ | split)

theorem execRnrReceive_keeps {P : List Instr} {rx : RxInfo} {p : Packet} {s sNext : State} (hx : execRnrReceive rx p s = .next sNext) (hk : Kp P s.pending s.mems) :
    Kp P sNext.pending sNext.mems := by
  unfold execRnrReceive at hx
  injection hx with hx
  subst hx
  repeat' (first | with_reducible assumption | intro _ | dsimp only | with_reducible refine arrive_keeps ?_ ?_ | with_reducible refine answerEpoch_keeps ?_ | with_reducible refine bump_keeps ?_ | split)

theorem execRetransmitTimeout_keeps {P : List Instr} {peer : W32} {seq : W32} {s sNext : State} (hx : execRetransmitTimeout peer seq s = .next sNext) (hk : Kp P s.pending s.mems) :
    Kp P sNext.pending sNext.mems := by
  unfold execRetransmitTimeout at hx
  injection hx with hx
  subst hx
  repeat' (first | with_reducible assumption | intro _ | dsimp only | with_reducible refine bump_keeps ?_ | with_reducible refine advanceTo_keeps ?_ | with_reducible refine ccEcho_keeps ?_ | with_reducible refine touchCtx_keeps ?_ | with_reducible refine modCtx_keeps ?_ | with_reducible refine resendNow_keeps ?_ | split)

theorem execRnrBackoffExpiry_keeps {P : List Instr} {peer : W32} {s sNext : State} (hx : execRnrBackoffExpiry peer s = .next sNext) (hk : Kp P s.pending s.mems) :
    Kp P sNext.pending sNext.mems := by
  unfold execRnrBackoffExpiry at hx
  injection hx with hx
  subst hx
  repeat' (first | with_reducible assumption | intro _ | dsimp only | with_reducible refine advanceTo_keeps ?_ | with_reducible refine modCtx_keeps ?_ | with_reducible refine resendNow_keeps ?_ | with_reducible refine flagResend_keeps ?_ | split)

theorem dropMembers_keeps {P : List Instr} {peer : W32} {gone : W32} {s : State} (hk : Kp P s.pending s.mems) :
    Kp P (dropMembers peer gone s).pending (dropMembers peer gone s).mems := by
  unfold dropMembers
  repeat' (first | with_reducible assumption | intro _ | dsimp only | with_reducible refine foldS_keeps _ _ ?_ ?_ | with_reducible refine clearDelivered_keeps ?_ | with_reducible refine modCtx_keeps ?_ | with_reducible refine takeOuts_keeps ?_ | with_reducible refine takeOuts_eq (by assumption) ?_ | with_reducible refine settleAcks_keeps ?_ | with_reducible refine endLine_keeps ?_ | split)

theorem execGiveUpExpiry_keeps {P : List Instr} {peer : W32} {seq : W32} {s sNext : State} (hx : execGiveUpExpiry peer seq s = .next sNext) (hk : Kp P s.pending s.mems) :
    Kp P sNext.pending sNext.mems := by
  unfold execGiveUpExpiry at hx
  injection hx with hx
  subst hx
  repeat' (first | with_reducible assumption | intro _ | dsimp only | with_reducible refine advanceTo_keeps ?_ | with_reducible refine dropMembers_keeps ?_ | with_reducible refine failOwner_keeps ?_ | with_reducible refine bump_keeps ?_ | split)

theorem execResponseGiveUp_keeps {P : List Instr} {peer : W32} {msgId : W32} {s sNext : State} (hx : execResponseGiveUp peer msgId s = .next sNext) (hk : Kp P s.pending s.mems) :
    Kp P sNext.pending sNext.mems := by
  unfold execResponseGiveUp at hx
  injection hx with hx
  subst hx
  repeat' (first | with_reducible assumption | intro _ | dsimp only | with_reducible refine failOwner_keeps ?_ | with_reducible refine bump_keeps ?_ | with_reducible refine advanceTo_keeps ?_ | split)

theorem execOpeningGiveUp_keeps {P : List Instr} {peer : W32} {s sNext : State} (hx : execOpeningGiveUp peer s = .next sNext) (hk : Kp P s.pending s.mems) :
    Kp P sNext.pending sNext.mems := by
  unfold execOpeningGiveUp at hx
  injection hx with hx
  subst hx
  repeat' (first | with_reducible assumption | intro _ | dsimp only | with_reducible refine advanceTo_keeps ?_ | with_reducible refine modCtx_keeps ?_ | with_reducible refine endLine_keeps ?_ | with_reducible refine failOwner_keeps ?_ | with_reducible refine bump_keeps ?_ | split)

theorem execAbortGiveUp_keeps {P : List Instr} {peer : W32} {seq : W32} {s sNext : State} (hx : execAbortGiveUp peer seq s = .next sNext) (hk : Kp P s.pending s.mems) :
    Kp P sNext.pending sNext.mems := by
  unfold execAbortGiveUp at hx
  injection hx with hx
  subst hx
  repeat' (first | with_reducible assumption | intro _ | dsimp only | with_reducible refine bump_keeps ?_ | with_reducible refine advanceTo_keeps ?_ | with_reducible refine modCtx_keeps ?_ | with_reducible refine endOutstanding_keeps ?_ | split)

theorem execContextPeriodicTouch_keeps {P : List Instr} {peer : W32} {s sNext : State} (hx : execContextPeriodicTouch peer s = .next sNext) (hk : Kp P s.pending s.mems) :
    Kp P sNext.pending sNext.mems := by
  unfold execContextPeriodicTouch at hx
  injection hx with hx
  subst hx
  repeat' (first | with_reducible assumption | intro _ | dsimp only | with_reducible refine modCtx_keeps ?_ | split)

theorem execPacingTouch_keeps {P : List Instr} {peer : W32} {s sNext : State} (hx : execPacingTouch peer s = .next sNext) (hk : Kp P s.pending s.mems) :
    Kp P sNext.pending sNext.mems := by
  unfold execPacingTouch at hx
  injection hx with hx
  subst hx
  repeat' (first | with_reducible assumption | intro _ | dsimp only | with_reducible refine modCtx_keeps ?_ | split)

theorem sweepTrackers_keeps {P : List Instr} {peer : W32} {s : State} (hk : Kp P s.pending s.mems) :
    Kp P (sweepTrackers peer s).pending (sweepTrackers peer s).mems := by
  unfold sweepTrackers
  repeat' (first | with_reducible assumption | intro _ | dsimp only | split)

theorem packetDone_keeps {P : List Instr} {peer seq : W32} {ackReq : Bool} {s : State} (hk : Kp P s.pending s.mems) :
    Kp P (packetDone peer seq ackReq s).pending (packetDone peer seq ackReq s).mems := by
  unfold packetDone
  repeat' (first | with_reducible assumption | intro _ | dsimp only | with_reducible refine sweepTrackers_keeps ?_ | with_reducible refine setCtx_keeps ?_ | with_reducible refine ackNow_keeps ?_ | split)

theorem execAckDelayExpiry_keeps {P : List Instr} {peer : W32} {s sNext : State} (hx : execAckDelayExpiry peer s = .next sNext) (hk : Kp P s.pending s.mems) :
    Kp P sNext.pending sNext.mems := by
  unfold execAckDelayExpiry at hx
  injection hx with hx
  subst hx
  repeat' (first | with_reducible assumption | intro _ | dsimp only | with_reducible refine ackNow_keeps ?_ | with_reducible refine advanceTo_keeps ?_ | split)

theorem emitReserved_keeps {P : List Instr} {q : QRef} {ring : Nat} {c : Rec} {s : State} (hk : Kp P s.pending s.mems) :
    Kp P (emitReserved q ring c s).pending (emitReserved q ring c s).mems := by
  unfold emitReserved
  repeat' (first | with_reducible assumption | intro _ | dsimp only | with_reducible refine modCq_keeps ?_ | with_reducible refine recWrite_keeps ?_ | split)

theorem recvFlush_keeps {P : List Instr} {q : QRef} {v0 : Nat} {s : State} (hk : Kp P s.pending s.mems) :
    Kp P (recvFlush q v0 s).pending (recvFlush q v0 s).mems := by
  induction v0 generalizing s with
  | zero => unfold recvFlush; repeat' (first | with_reducible assumption | intro _ | dsimp only | with_reducible refine emitReserved_keeps ?_ | with_reducible refine modQueue_keeps ?_ | split)
  | succ v0 ih => unfold recvFlush; repeat' (first | with_reducible assumption | intro _ | dsimp only | with_reducible refine ih ?_ | with_reducible refine emitReserved_keeps ?_ | with_reducible refine modQueue_keeps ?_ | split)

theorem recvFlushPast_keeps {P : List Instr} {q : QRef} {v0 : Nat} {s : State} (hk : Kp P s.pending s.mems) :
    Kp P (recvFlushPast q v0 s).pending (recvFlushPast q v0 s).mems := by
  induction v0 generalizing s with
  | zero => unfold recvFlushPast; repeat' (first | with_reducible assumption | intro _ | dsimp only | with_reducible refine emitReserved_keeps ?_ | with_reducible refine modQueue_keeps ?_ | split)
  | succ v0 ih => unfold recvFlushPast; repeat' (first | with_reducible assumption | intro _ | dsimp only | with_reducible refine ih ?_ | with_reducible refine emitReserved_keeps ?_ | with_reducible refine modQueue_keeps ?_ | split)

theorem slotDone_keeps {P : List Instr} {t : Tracker} {src : W32} {status : Nat} {s : State} (hk : Kp P s.pending s.mems) :
    Kp P (slotDone t src status s).pending (slotDone t src status s).mems := by
  unfold slotDone
  repeat' (first | with_reducible assumption | intro _ | dsimp only | with_reducible refine modQueue_keeps ?_ | with_reducible refine recvFlush_keeps ?_ | with_reducible refine recvFlushPast_keeps ?_ | split)

theorem modTracker_keeps {P : List Instr} {peer msgId : W32} {f : Tracker → Tracker} {s : State} (hk : Kp P s.pending s.mems) :
    Kp P (modTracker peer msgId f s).pending (modTracker peer msgId f s).mems := by
  unfold modTracker
  repeat' (first | with_reducible assumption | intro _ | dsimp only | split)

theorem addTracker_keeps {P : List Instr} {t : Tracker} {s : State} (hk : Kp P s.pending s.mems) :
    Kp P (addTracker t s).pending (addTracker t s).mems := by
  unfold addTracker
  repeat' (first | with_reducible assumption | intro _ | dsimp only | split)

theorem freeTracker_keeps {P : List Instr} {peer msgId : W32} {s : State} (hk : Kp P s.pending s.mems) :
    Kp P (freeTracker peer msgId s).pending (freeTracker peer msgId s).mems := by
  unfold freeTracker
  repeat' (first | with_reducible assumption | intro _ | dsimp only | with_reducible refine touchTrackers_keeps ?_ | split)

theorem releaseHeldAcks_keeps {P : List Instr} {peer msgId : W32} {s : State} (hk : Kp P s.pending s.mems) :
    Kp P (releaseHeldAcks peer msgId s).pending (releaseHeldAcks peer msgId s).mems := by
  unfold releaseHeldAcks
  repeat' (first | with_reducible assumption | intro _ | dsimp only | with_reducible refine setCtx_keeps ?_ | with_reducible refine foldS_keeps _ _ ?_ ?_ | with_reducible refine packetDone_keeps ?_ | split)

theorem endSignalHold_keeps {P : List Instr} {peer msgId : W32} {s : State} (hk : Kp P s.pending s.mems) :
    Kp P (endSignalHold peer msgId s).pending (endSignalHold peer msgId s).mems := by
  unfold endSignalHold
  repeat' (first | with_reducible assumption | intro _ | dsimp only | split)

theorem completeMessage_keeps {P : List Instr} {peer : W32} {v0 : Nat} {v1 : W32} {s : State} (hk : Kp P s.pending s.mems) :
    Kp P (completeMessage peer v0 v1 s).pending (completeMessage peer v0 v1 s).mems := by
  induction v0 generalizing s v1 with
  | zero => unfold completeMessage; repeat' (first | with_reducible assumption | intro _ | dsimp only | with_reducible refine applySignal_keeps ?_ | with_reducible refine freeTracker_keeps ?_ | with_reducible refine endSignalHold_keeps ?_ | with_reducible refine slotDone_keeps ?_ | with_reducible refine raiseEvent_keeps ?_ | with_reducible refine streamEvent_keeps ?_ | with_reducible refine releaseHeldAcks_keeps ?_ | split)
  | succ v0 ih => unfold completeMessage; repeat' (first | with_reducible assumption | intro _ | dsimp only | with_reducible refine ih ?_ | with_reducible refine applySignal_keeps ?_ | with_reducible refine freeTracker_keeps ?_ | with_reducible refine endSignalHold_keeps ?_ | with_reducible refine slotDone_keeps ?_ | with_reducible refine raiseEvent_keeps ?_ | with_reducible refine streamEvent_keeps ?_ | with_reducible refine releaseHeldAcks_keeps ?_ | split)

theorem countWritten_keeps {P : List Instr} {peer msgId : W32} {s : State} (hk : Kp P s.pending s.mems) :
    Kp P (countWritten peer msgId s).pending (countWritten peer msgId s).mems := by
  unfold countWritten
  repeat' (first | with_reducible assumption | intro _ | dsimp only | with_reducible refine completeMessage_keeps ?_ | with_reducible refine modTracker_keeps ?_ | split)

theorem closeMessage_keeps {P : List Instr} {t : Tracker} {st : TrackerState} {lastSeq : W32} {s : State} (hk : Kp P s.pending s.mems) :
    Kp P (closeMessage t st lastSeq s).pending (closeMessage t st lastSeq s).mems := by
  unfold closeMessage
  repeat' (first | with_reducible assumption | intro _ | dsimp only | with_reducible refine touchTrackers_keeps ?_ | with_reducible refine modTracker_keeps ?_ | with_reducible refine endSignalHold_keeps ?_ | with_reducible refine slotDone_keeps ?_ | with_reducible refine streamEvent_keeps ?_ | with_reducible refine releaseHeldAcks_keeps ?_ | split)

theorem abortTrackers_keeps {P : List Instr} {peer : W32} {s : State} (hk : Kp P s.pending s.mems) :
    Kp P (abortTrackers peer s).pending (abortTrackers peer s).mems := by
  unfold abortTrackers
  repeat' (first | with_reducible assumption | intro _ | dsimp only | with_reducible refine foldS_keeps _ _ ?_ ?_ | with_reducible refine closeMessage_keeps ?_ | split)

theorem setBanker_keeps {P : List Instr} {ks : Nat} {l : List Parked} {s : State} (hk : Kp P s.pending s.mems) :
    Kp P (setBanker ks l s).pending (setBanker ks l s).mems := by
  unfold setBanker
  repeat' (first | with_reducible assumption | intro _ | dsimp only | split)

theorem bankerRnr_keeps {P : List Instr} {ks : Nat} {p : Packet} {s : State} (hk : Kp P s.pending s.mems) :
    Kp P (bankerRnr ks p s).pending (bankerRnr ks p s).mems := by
  unfold bankerRnr
  repeat' (first | with_reducible assumption | intro _ | dsimp only | with_reducible refine sendRnr_keeps ?_ | split)

theorem parkPacket_keeps {P : List Instr} {rx : RxInfo} {p : Packet} {tally : Bool} {qp : Option Nat} {s : State} (hk : Kp P s.pending s.mems) :
    Kp P (parkPacket rx p tally qp s).pending (parkPacket rx p tally qp s).mems := by
  unfold parkPacket
  repeat' (first | with_reducible assumption | intro _ | dsimp only | with_reducible refine bankerRnr_keeps ?_ | with_reducible refine bump_keeps ?_ | with_reducible refine setBanker_keeps ?_ | split)

theorem refusePacket_keeps {P : List Instr} {peer : W32} {p : Packet} {a : Access} {status : Nat} {s : State} (hk : Kp P s.pending s.mems) :
    Kp P (refusePacket peer p a status s).2.pending (refusePacket peer p a status s).2.mems := by
  unfold refusePacket
  repeat' (first | with_reducible assumption | intro _ | dsimp only | with_reducible refine raiseEvent_keeps ?_ | with_reducible refine closeMessage_keeps ?_ | with_reducible refine addTracker_keeps ?_ | split)

theorem refusePacket_eq {P : List Instr} {peer : W32} {p : Packet} {a : Access} {status : Nat} {s u : State} {w} (he : refusePacket peer p a status s = (w, u)) (hk : Kp P s.pending s.mems) :
    Kp P u.pending u.mems := by
  have := refusePacket_keeps (peer := peer) (p := p) (a := a) (status := status) hk; rw [he] at this; exact this

theorem slotRefused_keeps {P : List Instr} {qp : Nat} {s : State} (hk : Kp P s.pending s.mems) :
    Kp P (slotRefused qp s).pending (slotRefused qp s).mems := by
  unfold slotRefused
  repeat' (first | with_reducible assumption | intro _ | dsimp only | with_reducible refine cqFull_keeps ?_ | split)

theorem admitAccess_keeps {P : List Instr} {rx : RxInfo} {p : Packet} {s : State} (hk : Kp P s.pending s.mems) :
    Kp P (admitAccess rx p s).2.pending (admitAccess rx p s).2.mems := by
  unfold admitAccess
  repeat' (first | with_reducible assumption | intro _ | dsimp only | with_reducible refine bankerRnr_keeps ?_ | with_reducible refine bump_keeps ?_ | with_reducible refine parkPacket_keeps ?_ | with_reducible refine foldS_keeps _ _ ?_ ?_ | with_reducible refine askWake_keeps ?_ | with_reducible refine refusePacket_keeps ?_ | with_reducible refine refusePacket_eq (by assumption) ?_ | with_reducible refine slotRefused_keeps ?_ | split)

theorem admitAccess_eq {P : List Instr} {rx : RxInfo} {p : Packet} {s u : State} {w} (he : admitAccess rx p s = (w, u)) (hk : Kp P s.pending s.mems) :
    Kp P u.pending u.mems := by
  have := admitAccess_keeps (rx := rx) (p := p) hk; rw [he] at this; exact this

theorem takeSlot_keeps {P : List Instr} {peer : W32} {p : Packet} {s : State} (hk : Kp P s.pending s.mems) :
    Kp P (takeSlot peer p s).2.pending (takeSlot peer p s).2.mems := by
  unfold takeSlot
  repeat' (first | with_reducible assumption | intro _ | dsimp only | with_reducible refine modQueue_keeps ?_ | with_reducible refine modCq_keeps ?_ | split)

theorem takeSlot_eq {P : List Instr} {peer : W32} {p : Packet} {s u : State} {w} (he : takeSlot peer p s = (w, u)) (hk : Kp P s.pending s.mems) :
    Kp P u.pending u.mems := by
  have := takeSlot_keeps (peer := peer) (p := p) hk; rw [he] at this; exact this

theorem noteTracker_keeps {P : List Instr} {peer : W32} {p : Packet} {a : Access} {s : State} (hk : Kp P s.pending s.mems) :
    Kp P (noteTracker peer p a s).pending (noteTracker peer p a s).mems := by
  unfold noteTracker
  repeat' (first | with_reducible assumption | intro _ | dsimp only | with_reducible refine takeSlot_keeps ?_ | with_reducible refine takeSlot_eq (by assumption) ?_ | with_reducible refine addTracker_keeps ?_ | with_reducible refine modTracker_keeps ?_ | split)

theorem addAdm_keeps {P : List Instr} {a : Adm} {s : State} (hk : Kp P s.pending s.mems) :
    Kp P (addAdm a s).pending (addAdm a s).mems := by
  unfold addAdm
  repeat' (first | with_reducible assumption | intro _ | dsimp only | split)

theorem packetWritten_keeps {P : List Instr} {a : Adm} {s : State} (hk : Kp P s.pending s.mems) :
    Kp P (packetWritten a s).pending (packetWritten a s).mems := by
  unfold packetWritten
  repeat' (first | with_reducible assumption | intro _ | dsimp only | with_reducible refine packetDone_keeps ?_ | with_reducible refine modQueue_keeps ?_ | with_reducible refine modCtx_keeps ?_ | with_reducible refine countWritten_keeps ?_ | split)

theorem execWrittenNotice_keeps {P : List Instr} {peer : W32} {seq : W32} {s sNext : State} (hx : execWrittenNotice peer seq s = .next sNext) (hk : Kp P s.pending s.mems) :
    Kp P sNext.pending sNext.mems := by
  unfold execWrittenNotice at hx
  injection hx with hx
  subst hx
  repeat' (first | with_reducible assumption | intro _ | dsimp only | with_reducible refine countWritten_keeps ?_ | split)

theorem responseWritten_keeps {P : List Instr} {a : Adm} {s : State} (hk : Kp P s.pending s.mems) :
    Kp P (responseWritten a s).pending (responseWritten a s).mems := by
  unfold responseWritten
  repeat' (first | with_reducible assumption | intro _ | dsimp only | with_reducible refine modCtx_keeps ?_ | with_reducible refine ownerFinished_keeps ?_ | split)

theorem storeData_keeps {P : List Instr} {a : Adm} {s : State} (hk : Kp P s.pending s.mems) :
    Kp P (storeData a s).pending (storeData a s).mems := by
  unfold storeData
  repeat' (first | with_reducible assumption | intro _ | dsimp only | with_reducible refine memWrite_keeps ?_ | with_reducible refine vwrite_keeps ?_ | split)

theorem execPacketWriteDone_keeps {P : List Instr} {peer : W32} {seq : W32} {s sNext : State} (hx : execPacketWriteDone peer seq s = .next sNext) (hk : Kp P s.pending s.mems) :
    Kp P sNext.pending sNext.mems := by
  unfold execPacketWriteDone at hx
  injection hx with hx
  subst hx
  repeat' (first | with_reducible assumption | intro _ | dsimp only | with_reducible refine wakePad_keeps ?_ | with_reducible refine storeData_keeps ?_ | with_reducible refine packetWritten_keeps ?_ | with_reducible refine responseWritten_keeps ?_ | split)

theorem execDataGo_keeps {P : List Instr} {rx : RxInfo} {p : Packet} {a : Access} {peer : W32} {x : Tracker} {s : State}
    (hk : Kp P s.pending s.mems) :
    Kp P (execData.go rx p a peer x s).pending (execData.go rx p a peer x s).mems := by
  unfold execData.go
  dsimp only
  split
  · exact packetWritten_keeps (addAdm_keeps (noteTracker_keeps hk))
  · exact addAdm_keeps (noteTracker_keeps hk)

theorem execData_keeps {P : List Instr} {rx : RxInfo} {p : Packet} {s : State} (hk : Kp P s.pending s.mems) :
    Kp P (execData rx p s).pending (execData rx p s).mems := by
  unfold execData
  repeat' (first | with_reducible assumption | intro _ | dsimp only | exact execDataGo_keeps hk | with_reducible refine packetDone_keeps ?_ | with_reducible refine noteTracker_keeps ?_ | with_reducible refine addAdm_keeps ?_ | with_reducible refine packetWritten_keeps ?_ | split)

theorem execReadReq_keeps {P : List Instr} {rx : RxInfo} {p : Packet} {s : State} (hk : Kp P s.pending s.mems) :
    Kp P (execReadReq rx p s).pending (execReadReq rx p s).mems := by
  unfold execReadReq
  repeat' (first | with_reducible assumption | intro _ | dsimp only | with_reducible refine packetDone_keeps ?_ | with_reducible refine addAdm_keeps ?_ | with_reducible refine queueMsgs_keeps ?_ | split)

theorem execAtomic_keeps {P : List Instr} {p : Packet} {s : State} (hk : Kp P s.pending s.mems) :
    Kp P (execAtomic p s).pending (execAtomic p s).mems := by
  unfold execAtomic
  repeat' (first | with_reducible assumption | intro _ | dsimp only | with_reducible refine packetDone_keeps ?_ | with_reducible refine memEvent_keeps ?_ | with_reducible refine abortOwner_keeps ?_ | with_reducible refine queueMsgs_keeps ?_ | with_reducible refine memWrite_keeps ?_ | split)

theorem admitResp_keeps {P : List Instr} {p : Packet} {s : State} (hk : Kp P s.pending s.mems) :
    Kp P (admitResp p s).2.pending (admitResp p s).2.mems := by
  unfold admitResp
  repeat' (first | with_reducible assumption | intro _ | dsimp only | split)

theorem admitResp_eq {P : List Instr} {p : Packet} {s u : State} {w} (he : admitResp p s = (w, u)) (hk : Kp P s.pending s.mems) :
    Kp P u.pending u.mems := by
  have := admitResp_keeps (p := p) hk; rw [he] at this; exact this

theorem respTracker_keeps {P : List Instr} {peer : W32} {p : Packet} {s : State} (hk : Kp P s.pending s.mems) :
    Kp P (respTracker peer p s).pending (respTracker peer p s).mems := by
  unfold respTracker
  repeat' (first | with_reducible assumption | intro _ | dsimp only | with_reducible refine addTracker_keeps ?_ | split)

theorem execReadResp_keeps {P : List Instr} {rx : RxInfo} {p : Packet} {s : State} (hk : Kp P s.pending s.mems) :
    Kp P (execReadResp rx p s).pending (execReadResp rx p s).mems := by
  unfold execReadResp
  repeat' (first | with_reducible assumption | intro _ | dsimp only | with_reducible refine packetWritten_keeps ?_ | with_reducible refine addAdm_keeps ?_ | with_reducible refine packetDone_keeps ?_ | with_reducible refine modCtx_keeps ?_ | with_reducible refine respTracker_keeps ?_ | split)

theorem execAtomicResp_keeps {P : List Instr} {p : Packet} {s : State} (hk : Kp P s.pending s.mems) :
    Kp P (execAtomicResp p s).pending (execAtomicResp p s).mems := by
  unfold execAtomicResp
  repeat' (first | with_reducible assumption | intro _ | dsimp only | with_reducible refine packetDone_keeps ?_ | with_reducible refine vwrite_keeps ?_ | with_reducible refine setResult_keeps ?_ | with_reducible refine modCtx_keeps ?_ | with_reducible refine ownerFinished_keeps ?_ | split)

theorem admitAbort_keeps {P : List Instr} {p : Packet} {s : State} (hk : Kp P s.pending s.mems) :
    Kp P (admitAbort p s).2.pending (admitAbort p s).2.mems := by
  unfold admitAbort
  repeat' (first | with_reducible assumption | intro _ | dsimp only | split)

theorem admitAbort_eq {P : List Instr} {p : Packet} {s u : State} {w} (he : admitAbort p s = (w, u)) (hk : Kp P s.pending s.mems) :
    Kp P u.pending u.mems := by
  have := admitAbort_keeps (p := p) hk; rw [he] at this; exact this

theorem markAborted_keeps {P : List Instr} {p : Packet} {s : State} (hk : Kp P s.pending s.mems) :
    Kp P (markAborted p s).pending (markAborted p s).mems := by
  unfold markAborted
  repeat' (first | with_reducible assumption | intro _ | dsimp only | with_reducible refine failOwner_keeps ?_ | with_reducible refine closeMessage_keeps ?_ | with_reducible refine modTracker_keeps ?_ | with_reducible refine addTracker_keeps ?_ | split)

theorem execAbort_keeps {P : List Instr} {p : Packet} {s : State} (hk : Kp P s.pending s.mems) :
    Kp P (execAbort p s).pending (execAbort p s).mems := by
  unfold execAbort
  repeat' (first | with_reducible assumption | intro _ | dsimp only | with_reducible refine packetDone_keeps ?_ | with_reducible refine markAborted_keeps ?_ | split)

theorem writeAny_keeps {P : List Instr} {fn va : Nat} {bs : List Byte} {s : State} (hk : Kp P s.pending s.mems) :
    Kp P (writeAny fn va bs s).pending (writeAny fn va bs s).mems := by
  unfold writeAny
  repeat' (first | with_reducible assumption | intro _ | dsimp only | with_reducible refine writePieces_keeps ?_ | with_reducible refine foldS_keeps _ _ ?_ ?_ | with_reducible refine modPage_keeps ?_ | split)

theorem withRange_keeps {P : List Instr} {q : QRef} {idx va len : Nat} {wr : Bool} {k : State → State} (Hk : ∀ t, Kp P t.pending t.mems → Kp P (k t).pending (k t).mems) {s : State} (hk : Kp P s.pending s.mems) :
    Kp P (withRange q idx va len wr k s).pending (withRange q idx va len wr k s).mems := by
  unfold withRange
  repeat' (first | with_reducible assumption | intro _ | dsimp only | with_reducible refine Hk _ ?_ | with_reducible refine complete_keeps ?_ | with_reducible refine askPages_keeps ?_ | with_reducible refine vtouch_keeps ?_ | split)

theorem putResult_keeps {P : List Instr} {q : QRef} {idx : Nat} {va : W64} {bs : List Byte} {s : State} (hk : Kp P s.pending s.mems) :
    Kp P (putResult q idx va bs s).pending (putResult q idx va bs s).mems := by
  unfold putResult
  repeat' (first | with_reducible assumption | intro _ | dsimp only | with_reducible refine completeOk_keeps ?_ | with_reducible refine writeAny_keeps ?_ | with_reducible refine complete_keeps ?_ | split)

theorem dropParked_keeps {P : List Instr} {peer : W32} {s : State} (hk : Kp P s.pending s.mems) :
    Kp P (dropParked peer s).pending (dropParked peer s).mems := by
  unfold dropParked
  repeat' (first | with_reducible assumption | intro _ | dsimp only | split)

theorem abandonOpening_keeps {P : List Instr} {peer : W32} {s : State} (hk : Kp P s.pending s.mems) :
    Kp P (abandonOpening peer s).pending (abandonOpening peer s).mems := by
  unfold abandonOpening
  repeat' (first | with_reducible assumption | intro _ | dsimp only | with_reducible refine modCtx_keeps ?_ | split)

theorem openingIn_keeps {P : List Instr} {rx : RxInfo} {p : Packet} {s : State} (hk : Kp P s.pending s.mems) :
    Kp P (openingIn rx p s).2.pending (openingIn rx p s).2.mems := by
  unfold openingIn
  repeat' (first | with_reducible assumption | intro _ | dsimp only | with_reducible refine modCtx_keeps ?_ | with_reducible refine drawn_keeps ?_ | with_reducible refine bump_keeps ?_ | with_reducible refine abortTrackers_keeps ?_ | with_reducible refine endOutstanding_keeps ?_ | with_reducible refine dropParked_keeps ?_ | with_reducible refine allocCtx_keeps ?_ | with_reducible refine allocCtx_eq (by assumption) ?_ | with_reducible refine parkPacket_keeps ?_ | with_reducible refine abandonOpening_keeps ?_ | split)

theorem openingIn_eq {P : List Instr} {rx : RxInfo} {p : Packet} {s u : State} {w} (he : openingIn rx p s = (w, u)) (hk : Kp P s.pending s.mems) :
    Kp P u.pending u.mems := by
  have := openingIn_keeps (rx := rx) (p := p) hk; rw [he] at this; exact this

theorem countMark_keeps {P : List Instr} {rx : RxInfo} {peer : W32} {s : State} (hk : Kp P s.pending s.mems) :
    Kp P (countMark rx peer s).pending (countMark rx peer s).mems := by
  unfold countMark
  repeat' (first | with_reducible assumption | intro _ | dsimp only | with_reducible refine modCtx_keeps ?_ | with_reducible refine bump_keeps ?_ | split)

theorem ackWhenDone_keeps {P : List Instr} {peer : W32} {seq : W32} {c : Ctx} {s : State} (hk : Kp P s.pending s.mems) :
    Kp P (ackWhenDone peer seq c s).pending (ackWhenDone peer seq c s).mems := by
  unfold ackWhenDone
  repeat' (first | with_reducible assumption | intro _ | dsimp only | with_reducible refine ackNow_keeps ?_ | with_reducible refine modCtx_keeps ?_ | split)

theorem decideWindow_keeps {P : List Instr} {ops : RxOps} {rx : RxInfo} {p : Packet} (Hadm : ∀ r p t v u, ops.judge r p t = (v, u) → Kp P t.pending t.mems → Kp P u.pending u.mems) (Hexe : ∀ r p t, Kp P t.pending t.mems → Kp P (ops.exec r p t).pending (ops.exec r p t).mems) {s : State} (hk : Kp P s.pending s.mems) :
    Kp P (decideWindow ops rx p s).pending (decideWindow ops rx p s).mems := by
  unfold decideWindow
  repeat' (first | with_reducible assumption | intro _ | dsimp only | with_reducible refine Hadm _ _ _ _ _ (by assumption) ?_ | with_reducible refine Hexe _ _ _ ?_ | with_reducible refine countMark_keeps ?_ | with_reducible refine sweepTrackers_keeps ?_ | with_reducible refine modCtx_keeps ?_ | with_reducible refine sendNack_keeps ?_ | with_reducible refine ackNow_keeps ?_ | with_reducible refine bump_keeps ?_ | with_reducible refine markAborted_keeps ?_ | with_reducible refine packetDone_keeps ?_ | with_reducible refine ackWhenDone_keeps ?_ | with_reducible refine sendRnr_keeps ?_ | split)

theorem enterWindow_keeps {P : List Instr} {ops : RxOps} {rx : RxInfo} {p : Packet} (Hadm : ∀ r p t v u, ops.judge r p t = (v, u) → Kp P t.pending t.mems → Kp P u.pending u.mems) (Hexe : ∀ r p t, Kp P t.pending t.mems → Kp P (ops.exec r p t).pending (ops.exec r p t).mems) {s : State} (hk : Kp P s.pending s.mems) :
    Kp P (enterWindow ops rx p s).pending (enterWindow ops rx p s).mems := by
  unfold enterWindow
  repeat' (first | with_reducible assumption | intro _ | dsimp only | with_reducible refine Hadm _ _ _ _ _ (by assumption) ?_ | with_reducible refine Hexe _ _ _ ?_ | with_reducible refine bump_keeps ?_ | with_reducible refine modCtx_keeps ?_ | with_reducible refine touchCtx_keeps ?_ | with_reducible refine piggyback_keeps ?_ | with_reducible refine decideWindow_keeps ?_ ?_ ?_ | split)

theorem epochIn_keeps {P : List Instr} {ops : RxOps} {rx : RxInfo} {p : Packet} (Hadm : ∀ r p t v u, ops.judge r p t = (v, u) → Kp P t.pending t.mems → Kp P u.pending u.mems) (Hexe : ∀ r p t, Kp P t.pending t.mems → Kp P (ops.exec r p t).pending (ops.exec r p t).mems) {s : State} (hk : Kp P s.pending s.mems) :
    Kp P (epochIn ops rx p s).pending (epochIn ops rx p s).mems := by
  unfold epochIn
  repeat' (first | with_reducible assumption | intro _ | dsimp only | with_reducible refine Hadm _ _ _ _ _ (by assumption) ?_ | with_reducible refine Hexe _ _ _ ?_ | with_reducible refine sendNack_keeps ?_ | with_reducible refine openingIn_keeps ?_ | with_reducible refine openingIn_eq (by assumption) ?_ | with_reducible refine enterWindow_keeps ?_ ?_ ?_ | with_reducible refine parkPacket_keeps ?_ | split)

theorem receiveSeq_keeps {P : List Instr} {ops : RxOps} {rx : RxInfo} {p : Packet} (Hadm : ∀ r p t v u, ops.judge r p t = (v, u) → Kp P t.pending t.mems → Kp P u.pending u.mems) (Hexe : ∀ r p t, Kp P t.pending t.mems → Kp P (ops.exec r p t).pending (ops.exec r p t).mems) {s : State} (hk : Kp P s.pending s.mems) :
    Kp P (receiveSeq ops rx p s).pending (receiveSeq ops rx p s).mems := by
  unfold receiveSeq
  repeat' (first | with_reducible assumption | intro _ | dsimp only | with_reducible refine Hadm _ _ _ _ _ (by assumption) ?_ | with_reducible refine Hexe _ _ _ ?_ | with_reducible refine arrive_keeps ?_ ?_ | with_reducible refine epochIn_keeps ?_ ?_ ?_ | with_reducible refine bump_keeps ?_ | split)

theorem takeParked_keeps {P : List Instr} {test : Parked → Bool} {s : State} (hk : Kp P s.pending s.mems) :
    Kp P (takeParked test s).2.pending (takeParked test s).2.mems := by
  unfold takeParked
  repeat' (first | with_reducible assumption | intro _ | dsimp only | split)

theorem takeParked_eq {P : List Instr} {test : Parked → Bool} {s u : State} {w} (he : takeParked test s = (w, u)) (hk : Kp P s.pending s.mems) :
    Kp P u.pending u.mems := by
  have := takeParked_keeps (test := test) hk; rw [he] at this; exact this

theorem unpark_keeps {P : List Instr} {ops : RxOps} {test : Parked → Bool} (Hadm : ∀ r p t v u, ops.judge r p t = (v, u) → Kp P t.pending t.mems → Kp P u.pending u.mems) (Hexe : ∀ r p t, Kp P t.pending t.mems → Kp P (ops.exec r p t).pending (ops.exec r p t).mems) {s : State} (hk : Kp P s.pending s.mems) :
    Kp P (unpark ops test s).pending (unpark ops test s).mems := by
  unfold unpark
  repeat' (first | with_reducible assumption | intro _ | dsimp only | with_reducible refine Hadm _ _ _ _ _ (by assumption) ?_ | with_reducible refine Hexe _ _ _ ?_ | with_reducible refine takeParked_keeps ?_ | with_reducible refine takeParked_eq (by assumption) ?_ | with_reducible refine foldS_keeps _ _ ?_ ?_ | with_reducible refine epochIn_keeps ?_ ?_ ?_ | split)

theorem loseCtx_keeps {P : List Instr} {peer : W32} {s : State} (hk : Kp P s.pending s.mems) :
    Kp P (loseCtx peer s).pending (loseCtx peer s).mems := by
  unfold loseCtx
  repeat' (first | with_reducible assumption | intro _ | dsimp only | with_reducible refine raiseOn_keeps ?_ | with_reducible refine bump_keeps ?_ | with_reducible refine abortTrackers_keeps ?_ | with_reducible refine endOutstanding_keeps ?_ | with_reducible refine modCtx_keeps ?_ | with_reducible refine allocCtx_keeps ?_ | with_reducible refine allocCtx_eq (by assumption) ?_ | split)

theorem cacheQp_keeps {P : List Instr} {qp : Nat} {s : State} (hk : Kp P s.pending s.mems) :
    Kp P (cacheQp qp s).pending (cacheQp qp s).mems := by
  unfold cacheQp
  repeat' (first | with_reducible assumption | intro _ | dsimp only | split)

theorem dropForHost_keeps {P : List Instr} {test : Parked → Bool} {s : State} (hk : Kp P s.pending s.mems) :
    Kp P (dropForHost test s).pending (dropForHost test s).mems := by
  unfold dropForHost
  repeat' (first | with_reducible assumption | intro _ | dsimp only | with_reducible refine takeParked_keeps ?_ | with_reducible refine takeParked_eq (by assumption) ?_ | with_reducible refine foldS_keeps _ _ ?_ ?_ | with_reducible refine bankerRnr_keeps ?_ | with_reducible refine bump_keeps ?_ | split)

theorem fetchDone_keeps {P : List Instr} {ops : RxOps} {x1 : Nat} {peer : W32} {qp : Option Nat} {result : ScrubResult} (Hadm : ∀ r p t v u, ops.judge r p t = (v, u) → Kp P t.pending t.mems → Kp P u.pending u.mems) (Hexe : ∀ r p t, Kp P t.pending t.mems → Kp P (ops.exec r p t).pending (ops.exec r p t).mems) {s : State} (hk : Kp P s.pending s.mems) :
    Kp P (fetchDone ops x1 peer qp result s).pending (fetchDone ops x1 peer qp result s).mems := by
  unfold fetchDone
  repeat' (first | with_reducible assumption | intro _ | dsimp only | with_reducible refine Hadm _ _ _ _ _ (by assumption) ?_ | with_reducible refine Hexe _ _ _ ?_ | with_reducible refine dropForHost_keeps ?_ | with_reducible refine unpark_keeps ?_ ?_ ?_ | with_reducible refine cacheQp_keeps ?_ | with_reducible refine loseCtx_keeps ?_ | with_reducible refine touchCtx_keeps ?_ | with_reducible refine modCtx_keeps ?_ | with_reducible refine evictFor_keeps ?_ | split)

theorem execBankerWaitExpiry_keeps {P : List Instr} {ks : Nat} {peer : W32} {seq : W32} {s sNext : State} (hx : execBankerWaitExpiry ks peer seq s = .next sNext) (hk : Kp P s.pending s.mems) :
    Kp P sNext.pending sNext.mems := by
  unfold execBankerWaitExpiry at hx
  injection hx with hx
  subst hx
  repeat' (first | with_reducible assumption | intro _ | dsimp only | with_reducible refine advanceTo_keeps ?_ | with_reducible refine bankerRnr_keeps ?_ | with_reducible refine bump_keeps ?_ | with_reducible refine setBanker_keeps ?_ | split)

theorem dataAdmit_keeps {P : List Instr} {rx : RxInfo} {p : Packet} {s : State} (hk : Kp P s.pending s.mems) :
    Kp P (dataAdmit rx p s).2.pending (dataAdmit rx p s).2.mems := by
  unfold dataAdmit
  repeat' (first | with_reducible assumption | intro _ | dsimp only | with_reducible refine admitAbort_keeps ?_ | with_reducible refine admitAbort_eq (by assumption) ?_ | with_reducible refine admitResp_keeps ?_ | with_reducible refine admitResp_eq (by assumption) ?_ | with_reducible refine admitAccess_keeps ?_ | with_reducible refine admitAccess_eq (by assumption) ?_ | split)

theorem dataAdmit_eq {P : List Instr} {rx : RxInfo} {p : Packet} {s u : State} {w} (he : dataAdmit rx p s = (w, u)) (hk : Kp P s.pending s.mems) :
    Kp P u.pending u.mems := by
  have := dataAdmit_keeps (rx := rx) (p := p) hk; rw [he] at this; exact this

theorem dataExec_keeps {P : List Instr} {rx : RxInfo} {p : Packet} {s : State} (hk : Kp P s.pending s.mems) :
    Kp P (dataExec rx p s).pending (dataExec rx p s).mems := by
  unfold dataExec
  repeat' (first | with_reducible assumption | intro _ | dsimp only | with_reducible refine execAbort_keeps ?_ | with_reducible refine execReadResp_keeps ?_ | with_reducible refine execAtomicResp_keeps ?_ | with_reducible refine execReadReq_keeps ?_ | with_reducible refine execAtomic_keeps ?_ | with_reducible refine execData_keeps ?_ | with_reducible refine packetDone_keeps ?_ | split)

theorem collLocal_keeps {P : List Instr} {h n : W32} {status : Nat} {result : W64} {s : State} (hk : Kp P s.pending s.mems) :
    Kp P (collLocal h n status result s).pending (collLocal h n status result s).mems := by
  unfold collLocal
  repeat' (first | with_reducible assumption | intro _ | dsimp only | with_reducible refine abortInst_keeps ?_ | with_reducible refine complete_keeps ?_ | with_reducible refine modInst_keeps ?_ | split)

theorem dropUnit_keeps {P : List Instr} {h n : W32} {status : Nat} {s : State} (hk : Kp P s.pending s.mems) :
    Kp P (dropUnit h n status s).pending (dropUnit h n status s).mems := by
  unfold dropUnit
  repeat' (first | with_reducible assumption | intro _ | dsimp only | with_reducible refine modInst_keeps ?_ | with_reducible refine releaseSlots_keeps ?_ | split)

theorem collAbort_keeps {P : List Instr} {h n : W32} {member status culprit : Nat} {peer : W32} {but : Option Nat} {s : State} (hk : Kp P s.pending s.mems) :
    Kp P (collAbort h n member status culprit peer but s).pending (collAbort h n member status culprit peer but s).mems := by
  unfold collAbort
  repeat' (first | with_reducible assumption | intro _ | dsimp only | with_reducible refine dropUnit_keeps ?_ | with_reducible refine endMember_keeps ?_ | with_reducible refine abortInst_keeps ?_ | split)

theorem unitAbort_keeps {P : List Instr} {h n : W32} {member status culprit : Nat} {peer : W32} {s : State} (hk : Kp P s.pending s.mems) :
    Kp P (unitAbort h n member status culprit peer s).pending (unitAbort h n member status culprit peer s).mems := by
  unfold unitAbort
  repeat' (first | with_reducible assumption | intro _ | dsimp only | with_reducible refine sendAbort_keeps ?_ | with_reducible refine bump_keeps ?_ | with_reducible refine dropUnit_keeps ?_ | with_reducible refine collAbort_keeps ?_ | split)

theorem finishMember_keeps {P : List Instr} {h n : W32} {s : State} (hk : Kp P s.pending s.mems) :
    Kp P (finishMember h n s).pending (finishMember h n s).mems := by
  unfold finishMember
  repeat' (first | with_reducible assumption | intro _ | dsimp only | with_reducible refine endMember_keeps ?_ | with_reducible refine bump_keeps ?_ | with_reducible refine modInst_keeps ?_ | split)

theorem writeSpans_keeps {P : List Instr} {q : QRef} {idx : Nat} {h n : W32} {fn : Nat} {spans : List (Nat × List Byte)} {s : State} (hk : Kp P s.pending s.mems) :
    Kp P (writeSpans q idx h n fn spans s).2.pending (writeSpans q idx h n fn spans s).2.mems := by
  unfold writeSpans
  repeat' (first | with_reducible assumption | intro _ | dsimp only | with_reducible refine collLocal_keeps ?_ | with_reducible refine askPages_keeps ?_ | with_reducible refine foldS_keeps _ _ ?_ ?_ | with_reducible refine vwrite_keeps ?_ | with_reducible refine vtouch_keeps ?_ | split)

theorem writeSpans_eq {P : List Instr} {q : QRef} {idx : Nat} {h n : W32} {fn : Nat} {spans : List (Nat × List Byte)} {s u : State} {w} (he : writeSpans q idx h n fn spans s = (w, u)) (hk : Kp P s.pending s.mems) :
    Kp P u.pending u.mems := by
  have := writeSpans_keeps (q := q) (idx := idx) (h := h) (n := n) (fn := fn) (spans := spans) hk; rw [he] at this; exact this

theorem modChunk_keeps {P : List Instr} {h n : W32} {c : Nat} {f : Chunk → Chunk} {s : State} (hk : Kp P s.pending s.mems) :
    Kp P (modChunk h n c f s).pending (modChunk h n c f s).mems := by
  unfold modChunk
  repeat' (first | with_reducible assumption | intro _ | dsimp only | with_reducible refine modInst_keeps ?_ | split)

theorem deliverChunk_keeps {P : List Instr} {h n : W32} {c : Nat} {s : State} (hk : Kp P s.pending s.mems) :
    Kp P (deliverChunk h n c s).pending (deliverChunk h n c s).mems := by
  unfold deliverChunk
  repeat' (first | with_reducible assumption | intro _ | dsimp only | with_reducible refine writeSpans_keeps ?_ | with_reducible refine writeSpans_eq (by assumption) ?_ | with_reducible refine modChunk_keeps ?_ | with_reducible refine finishMember_keeps ?_ | split)

theorem endUnit_keeps {P : List Instr} {h n : W32} {s : State} (hk : Kp P s.pending s.mems) :
    Kp P (endUnit h n s).pending (endUnit h n s).mems := by
  unfold endUnit
  repeat' (first | with_reducible assumption | intro _ | dsimp only | with_reducible refine releaseSlots_keeps ?_ | split)

theorem endChunk_keeps {P : List Instr} {h n : W32} {c : Nat} {s : State} (hk : Kp P s.pending s.mems) :
    Kp P (endChunk h n c s).pending (endChunk h n c s).mems := by
  unfold endChunk
  repeat' (first | with_reducible assumption | intro _ | dsimp only | with_reducible refine endUnit_keeps ?_ | with_reducible refine modChunk_keeps ?_ | split)

theorem sendTie_keeps {P : List Instr} {dir : Nat} {p : Packet} {s : State} (hk : Kp P s.pending s.mems) :
    Kp P (sendTie dir p s).pending (sendTie dir p s).mems := by
  unfold sendTie
  repeat' (first | with_reducible assumption | intro _ | dsimp only | with_reducible refine pushHop_keeps ?_ | split)

theorem sendChunk_keeps {P : List Instr} {h n : W32} {x : Sig} {dir to_ member c : Nat} {down : Bool} {payload : List Byte} {s : State} (hk : Kp P s.pending s.mems) :
    Kp P (sendChunk h n x dir to_ member c down payload s).pending (sendChunk h n x dir to_ member c down payload s).mems := by
  unfold sendChunk
  repeat' (first | with_reducible assumption | intro _ | dsimp only | with_reducible refine sendTie_keeps ?_ | with_reducible refine sendHop_keeps ?_ | split)

theorem sendDown_keeps {P : List Instr} {h n : W32} {x : Sig} {c : Nat} {payload : List Byte} {s : State} (hk : Kp P s.pending s.mems) :
    Kp P (sendDown h n x c payload s).pending (sendDown h n x c payload s).mems := by
  unfold sendDown
  repeat' (first | with_reducible assumption | intro _ | dsimp only | with_reducible refine modChunk_keeps ?_ | with_reducible refine foldS_keeps _ _ ?_ ?_ | with_reducible refine sendChunk_keeps ?_ | with_reducible refine deliverChunk_keeps ?_ | with_reducible refine endChunk_keeps ?_ | split)

theorem forwardChunk_keeps {P : List Instr} {h n : W32} {x : Sig} {c : Nat} {s : State} (hk : Kp P s.pending s.mems) :
    Kp P (forwardChunk h n x c s).pending (forwardChunk h n x c s).mems := by
  unfold forwardChunk
  repeat' (first | with_reducible assumption | intro _ | dsimp only | with_reducible refine modChunk_keeps ?_ | with_reducible refine sendChunk_keeps ?_ | with_reducible refine sendDown_keeps ?_ | split)

theorem admitUnit_keeps {P : List Instr} {h n : W32} {x : Sig} {s : State} (hk : Kp P s.pending s.mems) :
    Kp P (admitUnit h n x s).2.pending (admitUnit h n x s).2.mems := by
  unfold admitUnit
  repeat' (first | with_reducible assumption | intro _ | dsimp only | with_reducible refine modInst_keeps ?_ | split)

theorem admitUnit_eq {P : List Instr} {h n : W32} {x : Sig} {s u : State} {w} (he : admitUnit h n x s = (w, u)) (hk : Kp P s.pending s.mems) :
    Kp P u.pending u.mems := by
  have := admitUnit_keeps (h := h) (n := n) (x := x) hk; rw [he] at this; exact this

theorem fallBack_keeps {P : List Instr} {h n : W32} {but : Option Nat} {s : State} (hk : Kp P s.pending s.mems) :
    Kp P (fallBack h n but s).pending (fallBack h n but s).mems := by
  unfold fallBack
  repeat' (first | with_reducible assumption | intro _ | dsimp only | with_reducible refine releaseSlots_keeps ?_ | with_reducible refine modInst_keeps ?_ | with_reducible refine sendCtlEdges_keeps ?_ | split)

theorem residueCheck_keeps {P : List Instr} {s : State} (hk : Kp P s.pending s.mems) :
    Kp P (residueCheck s).2.pending (residueCheck s).2.mems := by
  unfold residueCheck
  repeat' (first | with_reducible assumption | intro _ | dsimp only | with_reducible refine bump_keeps ?_ | split)

theorem residueCheck_eq {P : List Instr} {s u : State} {w} (he : residueCheck s = (w, u)) (hk : Kp P s.pending s.mems) :
    Kp P u.pending u.mems := by
  have := residueCheck_keeps  hk; rw [he] at this; exact this

theorem combineChecked_keeps {P : List Instr} {combined : Bool} {s : State} (hk : Kp P s.pending s.mems) :
    Kp P (combineChecked combined s).2.pending (combineChecked combined s).2.mems := by
  unfold combineChecked
  repeat' (first | with_reducible assumption | intro _ | dsimp only | with_reducible refine residueCheck_keeps ?_ | with_reducible refine residueCheck_eq (by assumption) ?_ | split)

theorem combineChecked_eq {P : List Instr} {combined : Bool} {s u : State} {w} (he : combineChecked combined s = (w, u)) (hk : Kp P s.pending s.mems) :
    Kp P u.pending u.mems := by
  have := combineChecked_keeps (combined := combined) hk; rw [he] at this; exact this

theorem residueGuard_eq {P : List Instr} {b : Bool} {s u : State} {w}
    (he : (if b = true then residueCheck s else (true, s)) = (w, u)) (hk : Kp P s.pending s.mems) : Kp P u.pending u.mems := by
  split at he
  · exact residueCheck_eq he hk
  · cases he; exact hk

theorem residueAbort_keeps {P : List Instr} {h n : W32} {s : State} (hk : Kp P s.pending s.mems) :
    Kp P (residueAbort h n s).pending (residueAbort h n s).mems := by
  unfold residueAbort
  repeat' (first | with_reducible assumption | intro _ | dsimp only | with_reducible refine unitAbort_keeps ?_ | split)

theorem takeUp_keeps {P : List Instr} {h n : W32} {sender member : Nat} {x : Sig} {c : Nat} {acc : List W32} {bytes : List Byte} {data : Bool} {s : State} (hk : Kp P s.pending s.mems) :
    Kp P (takeUp h n sender member x c acc bytes data s).2.pending (takeUp h n sender member x c acc bytes data s).2.mems := by
  unfold takeUp
  repeat' (first | with_reducible assumption | intro _ | dsimp only | with_reducible refine admitUnit_keeps ?_ | with_reducible refine admitUnit_eq (by assumption) ?_ | with_reducible refine fallBack_keeps ?_ | with_reducible refine unitAbort_keeps ?_ | with_reducible refine bump_keeps ?_ | with_reducible refine modInst_keeps ?_ | with_reducible refine combineChecked_keeps ?_ | with_reducible refine combineChecked_eq (by assumption) ?_ | with_reducible refine residueAbort_keeps ?_ | with_reducible refine modChunk_keeps ?_ | with_reducible refine forwardChunk_keeps ?_ | split)

theorem takeUp_eq {P : List Instr} {h n : W32} {sender member : Nat} {x : Sig} {c : Nat} {acc : List W32} {bytes : List Byte} {data : Bool} {s u : State} {w} (he : takeUp h n sender member x c acc bytes data s = (w, u)) (hk : Kp P s.pending s.mems) :
    Kp P u.pending u.mems := by
  have := takeUp_keeps (h := h) (n := n) (sender := sender) (member := member) (x := x) (c := c) (acc := acc) (bytes := bytes) (data := data) hk; rw [he] at this; exact this

theorem contributeChunk_keeps {P : List Instr} {h n : W32} {c : Nat} {s : State} (hk : Kp P s.pending s.mems) :
    Kp P (contributeChunk h n c s).pending (contributeChunk h n c s).mems := by
  unfold contributeChunk
  repeat' (first | with_reducible assumption | intro _ | dsimp only | with_reducible refine foldS_keeps _ _ ?_ ?_ | with_reducible refine askWake_keeps ?_ | with_reducible refine collLocal_keeps ?_ | with_reducible refine badEvent_keeps ?_ | with_reducible refine askPages_keeps ?_ | with_reducible refine vtouch_keeps ?_ | with_reducible refine modChunk_keeps ?_ | with_reducible refine sendChunk_keeps ?_ | with_reducible refine takeUp_keeps ?_ | with_reducible refine takeUp_eq (by assumption) ?_ | split)

theorem copyAlone_keeps {P : List Instr} {h n : W32} {s : State} (hk : Kp P s.pending s.mems) :
    Kp P (copyAlone h n s).pending (copyAlone h n s).mems := by
  unfold copyAlone
  repeat' (first | with_reducible assumption | intro _ | dsimp only | with_reducible refine finishMember_keeps ?_ | with_reducible refine foldS_keeps _ _ ?_ ?_ | with_reducible refine askWake_keeps ?_ | with_reducible refine collLocal_keeps ?_ | with_reducible refine badEvent_keeps ?_ | with_reducible refine askPages_keeps ?_ | with_reducible refine vtouch_keeps ?_ | with_reducible refine writeSpans_keeps ?_ | with_reducible refine writeSpans_eq (by assumption) ?_ | split)

theorem pumpTree_keeps {P : List Instr} {h n : W32} {s : State} (hk : Kp P s.pending s.mems) :
    Kp P (pumpTree h n s).pending (pumpTree h n s).mems := by
  unfold pumpTree
  repeat' (first | with_reducible assumption | intro _ | dsimp only | with_reducible refine copyAlone_keeps ?_ | with_reducible refine foldS_keeps _ _ ?_ ?_ | with_reducible refine deliverChunk_keeps ?_ | with_reducible refine forwardChunk_keeps ?_ | with_reducible refine contributeChunk_keeps ?_ | split)

theorem ringEvent_keeps {P : List Instr} {h n : W32} {pc : Nat × Nat × Nat} {key : Nat} {got : Option (Bool × List Byte)} {s : State} (hk : Kp P s.pending s.mems) :
    Kp P (ringEvent h n pc key got s).pending (ringEvent h n pc key got s).mems := by
  unfold ringEvent
  repeat' (first | with_reducible assumption | intro _ | dsimp only | with_reducible refine foldS_keeps _ _ ?_ ?_ | with_reducible refine askWake_keeps ?_ | with_reducible refine collLocal_keeps ?_ | with_reducible refine badEvent_keeps ?_ | with_reducible refine askPages_keeps ?_ | with_reducible refine vtouch_keeps ?_ | with_reducible refine combineChecked_keeps ?_ | with_reducible refine combineChecked_eq (by assumption) ?_ | with_reducible refine residueAbort_keeps ?_ | with_reducible refine writeSpans_keeps ?_ | with_reducible refine writeSpans_eq (by assumption) ?_ | with_reducible refine modInst_keeps ?_ | with_reducible refine sendRing_keeps ?_ | split)

theorem pumpRing_keeps {P : List Instr} {h n : W32} {s : State} (hk : Kp P s.pending s.mems) :
    Kp P (pumpRing h n s).pending (pumpRing h n s).mems := by
  unfold pumpRing
  repeat' (first | with_reducible assumption | intro _ | dsimp only | with_reducible refine copyAlone_keeps ?_ | with_reducible refine foldS_keeps _ _ ?_ ?_ | with_reducible refine ringEvent_keeps ?_ | with_reducible refine finishMember_keeps ?_ | split)

theorem pump_keeps {P : List Instr} {h n : W32} {s : State} (hk : Kp P s.pending s.mems) :
    Kp P (pump h n s).pending (pump h n s).mems := by
  unfold pump
  repeat' (first | with_reducible assumption | intro _ | dsimp only | with_reducible refine pumpRing_keeps ?_ | with_reducible refine pumpTree_keeps ?_ | split)

theorem holdInst_keeps {P : List Instr} {h n : W32} {mode : InstMode} {s : State} (hk : Kp P s.pending s.mems) :
    Kp P (holdInst h n mode s).pending (holdInst h n mode s).mems := by
  unfold holdInst
  repeat' (first | with_reducible assumption | intro _ | dsimp only | with_reducible refine modGroup_keeps ?_ | with_reducible refine releaseSlots_keeps ?_ | split)

theorem collWallCheck_keeps {P : List Instr} {s : State} (hk : Kp P s.pending s.mems) :
    Kp P (collWallCheck s).pending (collWallCheck s).mems := by
  unfold collWallCheck
  repeat' (first | with_reducible assumption | intro _ | dsimp only | with_reducible refine foldS_keeps _ _ ?_ ?_ | with_reducible refine collAbort_keeps ?_ | split)

theorem startGroupCreate_keeps {P : List Instr} {q : QRef} {idx : Nat} {e : Entry} {s : State} (hk : Kp P s.pending s.mems) :
    Kp P (startGroupCreate q idx e s).pending (startGroupCreate q idx e s).mems := by
  unfold startGroupCreate
  repeat' (first | with_reducible assumption | intro _ | dsimp only | with_reducible refine withRange_keeps ?_ ?_ | with_reducible refine putResult_keeps ?_ | split)

theorem execGroupCreate_keeps {P : List Instr} {q : QRef} {e : Entry} {s sNext : State} (hx : execGroupCreate q e s = .next sNext) (hk : Kp P s.pending s.mems) :
    Kp P sNext.pending sNext.mems := by
  unfold execGroupCreate at hx
  injection hx with hx
  subst hx
  repeat' (first | with_reducible assumption | intro _ | dsimp only | with_reducible refine offer_keeps ?_ ?_ | with_reducible refine startGroupCreate_keeps ?_ | split)

theorem abortGroupBy_keeps {P : List Instr} {fin : QRef → Nat → State → State} {h : W32} (Hfin : ∀ y0 y1 t, Kp P t.pending t.mems → Kp P (fin y0 y1 t).pending (fin y0 y1 t).mems) {s : State} (hk : Kp P s.pending s.mems) :
    Kp P (abortGroupBy fin h s).pending (abortGroupBy fin h s).mems := by
  unfold abortGroupBy
  repeat' (first | with_reducible assumption | intro _ | dsimp only | with_reducible refine Hfin _ _ _ ?_ | with_reducible refine foldS_keeps _ _ ?_ ?_ | with_reducible refine abortInst_keeps ?_ | with_reducible refine modInst_keeps ?_ | split)

theorem abortGroup_keeps {P : List Instr} {h : W32} {s : State} (hk : Kp P s.pending s.mems) :
    Kp P (abortGroup h s).pending (abortGroup h s).mems := by
  unfold abortGroup
  repeat' (first | with_reducible assumption | intro _ | dsimp only | with_reducible refine abortGroupBy_keeps ?_ ?_ | with_reducible refine complete_keeps ?_ | split)

theorem destroyGroup_keeps {P : List Instr} {h : W32} {s : State} (hk : Kp P s.pending s.mems) :
    Kp P (destroyGroup h s).pending (destroyGroup h s).mems := by
  unfold destroyGroup
  repeat' (first | with_reducible assumption | intro _ | dsimp only | with_reducible refine abortGroup_keeps ?_ | with_reducible refine foldS_keeps _ _ ?_ ?_ | with_reducible refine releaseSlots_keeps ?_ | split)

theorem startGroupDestroy_keeps {P : List Instr} {q : QRef} {idx : Nat} {e : Entry} {s : State} (hk : Kp P s.pending s.mems) :
    Kp P (startGroupDestroy q idx e s).pending (startGroupDestroy q idx e s).mems := by
  unfold startGroupDestroy
  repeat' (first | with_reducible assumption | intro _ | dsimp only | with_reducible refine completeOk_keeps ?_ | with_reducible refine destroyGroup_keeps ?_ | split)

theorem execGroupDestroy_keeps {P : List Instr} {q : QRef} {e : Entry} {s sNext : State} (hx : execGroupDestroy q e s = .next sNext) (hk : Kp P s.pending s.mems) :
    Kp P sNext.pending sNext.mems := by
  unfold execGroupDestroy at hx
  injection hx with hx
  subst hx
  repeat' (first | with_reducible assumption | intro _ | dsimp only | with_reducible refine offer_keeps ?_ ?_ | with_reducible refine startGroupDestroy_keeps ?_ | split)

theorem startColl_keeps {P : List Instr} {q : QRef} {idx : Nat} {e : Entry} {s : State} (hk : Kp P s.pending s.mems) :
    Kp P (startColl q idx e s).pending (startColl q idx e s).mems := by
  unfold startColl
  repeat' (first | with_reducible assumption | intro _ | dsimp only | with_reducible refine pump_keeps ?_ | with_reducible refine complete_keeps ?_ | with_reducible refine modGroup_keeps ?_ | with_reducible refine holdInst_keeps ?_ | with_reducible refine modInst_keeps ?_ | with_reducible refine collLocal_keeps ?_ | with_reducible refine releaseSlots_keeps ?_ | with_reducible refine endMember_keeps ?_ | split)

theorem execCollective_keeps {P : List Instr} {q : QRef} {e : Entry} {s sNext : State} (hx : execCollective q e s = .next sNext) (hk : Kp P s.pending s.mems) :
    Kp P sNext.pending sNext.mems := by
  unfold execCollective at hx
  injection hx with hx
  subst hx
  repeat' (first | with_reducible assumption | intro _ | dsimp only | with_reducible refine offer_keeps ?_ ?_ | with_reducible refine startColl_keeps ?_ | split)

theorem takeInLink_keeps {P : List Instr} {link : Nat} {p : Packet} {s : State} (hk : Kp P s.pending s.mems) :
    Kp P (takeInLink link p s).pending (takeInLink link p s).mems := by
  unfold takeInLink
  repeat' (first | with_reducible assumption | intro _ | dsimp only | split)

theorem goOn_keeps {P : List Instr} {h n : W32} {s : State} (hk : Kp P s.pending s.mems) :
    Kp P (goOn h n s).pending (goOn h n s).mems := by
  unfold goOn
  repeat' (first | with_reducible assumption | intro _ | dsimp only | with_reducible refine pump_keeps ?_ | split)

theorem takeDown_keeps {P : List Instr} {h n : W32} {x : Sig} {member c : Nat} {b : List Byte} {s : State} (hk : Kp P s.pending s.mems) :
    Kp P (takeDown h n x member c b s).2.pending (takeDown h n x member c b s).2.mems := by
  unfold takeDown
  repeat' (first | with_reducible assumption | intro _ | dsimp only | with_reducible refine deliverChunk_keeps ?_ | with_reducible refine modChunk_keeps ?_ | with_reducible refine sendDown_keeps ?_ | with_reducible refine admitUnit_keeps ?_ | with_reducible refine admitUnit_eq (by assumption) ?_ | with_reducible refine fallBack_keeps ?_ | split)

theorem takeDown_eq {P : List Instr} {h n : W32} {x : Sig} {member c : Nat} {b : List Byte} {s u : State} {w} (he : takeDown h n x member c b s = (w, u)) (hk : Kp P s.pending s.mems) :
    Kp P u.pending u.mems := by
  have := takeDown_keeps (h := h) (n := n) (x := x) (member := member) (c := c) (b := b) hk; rw [he] at this; exact this

theorem treeData_keeps {P : List Instr} {link : Nat} {p : Packet} {t : TreeHead} {s : State} (hk : Kp P s.pending s.mems) :
    Kp P (treeData link p t s).pending (treeData link p t s).mems := by
  unfold treeData
  repeat' (first | with_reducible assumption | intro _ | dsimp only | (rename_i hq; split at hq) | with_reducible refine bump_keeps ?_ | with_reducible refine answerCtl_keeps ?_ | with_reducible refine holdInst_keeps ?_ | with_reducible refine takeDown_keeps ?_ | with_reducible refine takeDown_eq (by assumption) ?_ | with_reducible refine takeUp_keeps ?_ | with_reducible refine takeUp_eq (by assumption) ?_ | with_reducible refine goOn_keeps ?_ | split)

theorem execTreeDataReceive_keeps {P : List Instr} {link : Nat} {p : Packet} {s sNext : State} (hx : execTreeDataReceive link p s = .next sNext) (hk : Kp P s.pending s.mems) :
    Kp P sNext.pending sNext.mems := by
  unfold execTreeDataReceive at hx
  injection hx with hx
  subst hx
  repeat' (first | with_reducible assumption | intro _ | dsimp only | with_reducible refine treeData_keeps ?_ | with_reducible refine takeInLink_keeps ?_ | split)

theorem onCtl_keeps {P : List Instr} {code link : Nat} {p : Packet} {f : TreeHead → Group → Nat → State → State} (Hf : ∀ y0 y1 y2 t, Kp P t.pending t.mems → Kp P (f y0 y1 y2 t).pending (f y0 y1 y2 t).mems) {s : State} (hk : Kp P s.pending s.mems) :
    Kp P (onCtl code link p f s).pending (onCtl code link p f s).mems := by
  unfold onCtl
  repeat' (first | with_reducible assumption | intro _ | dsimp only | with_reducible refine Hf _ _ _ _ ?_ | with_reducible refine takeInLink_keeps ?_ | with_reducible refine bump_keeps ?_ | split)

theorem dropHop_keeps {P : List Instr} {h n : W32} {member chunk dir : Nat} {s : State} (hk : Kp P s.pending s.mems) :
    Kp P (dropHop h n member chunk dir s).pending (dropHop h n member chunk dir s).mems := by
  unfold dropHop
  repeat' (first | with_reducible assumption | intro _ | dsimp only | with_reducible refine modInst_keeps ?_ | split)

theorem endUnneeded_keeps {P : List Instr} {h n : W32} {c : Nat} {s : State} (hk : Kp P s.pending s.mems) :
    Kp P (endUnneeded h n c s).pending (endUnneeded h n c s).mems := by
  unfold endUnneeded
  repeat' (first | with_reducible assumption | intro _ | dsimp only | with_reducible refine endUnit_keeps ?_ | with_reducible refine modChunk_keeps ?_ | split)

theorem upAcked_keeps {P : List Instr} {t : TreeHead} {from_ c : Nat} {s : State} (hk : Kp P s.pending s.mems) :
    Kp P (upAcked t from_ c s).pending (upAcked t from_ c s).mems := by
  unfold upAcked
  repeat' (first | with_reducible assumption | intro _ | dsimp only | with_reducible refine dropHop_keeps ?_ | with_reducible refine goOn_keeps ?_ | with_reducible refine endUnneeded_keeps ?_ | with_reducible refine modChunk_keeps ?_ | split)

theorem execUpAck_keeps {P : List Instr} {link : Nat} {p : Packet} {s sNext : State} (hx : execUpAck link p s = .next sNext) (hk : Kp P s.pending s.mems) :
    Kp P sNext.pending sNext.mems := by
  unfold execUpAck at hx
  injection hx with hx
  subst hx
  repeat' (first | with_reducible assumption | intro _ | dsimp only | with_reducible refine onCtl_keeps ?_ ?_ | with_reducible refine upAcked_keeps ?_ | split)

theorem execDownAck_keeps {P : List Instr} {link : Nat} {p : Packet} {s sNext : State} (hx : execDownAck link p s = .next sNext) (hk : Kp P s.pending s.mems) :
    Kp P sNext.pending sNext.mems := by
  unfold execDownAck at hx
  injection hx with hx
  subst hx
  repeat' (first | with_reducible assumption | intro _ | dsimp only | with_reducible refine onCtl_keeps ?_ ?_ | with_reducible refine dropHop_keeps ?_ | with_reducible refine goOn_keeps ?_ | with_reducible refine endChunk_keeps ?_ | with_reducible refine modChunk_keeps ?_ | split)

theorem execBusy_keeps {P : List Instr} {link : Nat} {p : Packet} {s sNext : State} (hx : execBusy link p s = .next sNext) (hk : Kp P s.pending s.mems) :
    Kp P sNext.pending sNext.mems := by
  unfold execBusy at hx
  injection hx with hx
  subst hx
  repeat' (first | with_reducible assumption | intro _ | dsimp only | with_reducible refine onCtl_keeps ?_ ?_ | with_reducible refine modInst_keeps ?_ | split)

theorem execControlAck_keeps {P : List Instr} {link : Nat} {p : Packet} {s sNext : State} (hx : execControlAck link p s = .next sNext) (hk : Kp P s.pending s.mems) :
    Kp P sNext.pending sNext.mems := by
  unfold execControlAck at hx
  injection hx with hx
  subst hx
  repeat' (first | with_reducible assumption | intro _ | dsimp only | with_reducible refine takeInLink_keeps ?_ | with_reducible refine onCtl_keeps ?_ ?_ | with_reducible refine dropHop_keeps ?_ | split)

theorem onCtlAcked_keeps {P : List Instr} {code link : Nat} {p : Packet} {f : TreeHead → Group → Nat → State → State} (Hf : ∀ y0 y1 y2 t, Kp P t.pending t.mems → Kp P (f y0 y1 y2 t).pending (f y0 y1 y2 t).mems) {s : State} (hk : Kp P s.pending s.mems) :
    Kp P (onCtlAcked code link p f s).pending (onCtlAcked code link p f s).mems := by
  unfold onCtlAcked
  repeat' (first | with_reducible assumption | intro _ | dsimp only | with_reducible refine Hf _ _ _ _ ?_ | with_reducible refine onCtl_keeps ?_ ?_ | with_reducible refine answerCtl_keeps ?_ | with_reducible refine holdInst_keeps ?_ | split)

theorem execTreeAbort_keeps {P : List Instr} {link : Nat} {p : Packet} {s sNext : State} (hx : execTreeAbort link p s = .next sNext) (hk : Kp P s.pending s.mems) :
    Kp P sNext.pending sNext.mems := by
  unfold execTreeAbort at hx
  injection hx with hx
  subst hx
  repeat' (first | with_reducible assumption | intro _ | dsimp only | with_reducible refine onCtlAcked_keeps ?_ ?_ | with_reducible refine collAbort_keeps ?_ | split)

theorem execFallback_keeps {P : List Instr} {link : Nat} {p : Packet} {s sNext : State} (hx : execFallback link p s = .next sNext) (hk : Kp P s.pending s.mems) :
    Kp P sNext.pending sNext.mems := by
  unfold execFallback at hx
  injection hx with hx
  subst hx
  repeat' (first | with_reducible assumption | intro _ | dsimp only | with_reducible refine onCtlAcked_keeps ?_ ?_ | with_reducible refine goOn_keeps ?_ | with_reducible refine fallBack_keeps ?_ | split)

theorem resendHopWith_keeps {P : List Instr} {h n : W32} {dir : Nat} {k : HopPkt} {payload : List Byte} {s : State} (hk : Kp P s.pending s.mems) :
    Kp P (resendHopWith h n dir k payload s).pending (resendHopWith h n dir k payload s).mems := by
  unfold resendHopWith
  repeat' (first | with_reducible assumption | intro _ | dsimp only | with_reducible refine modInst_keeps ?_ | with_reducible refine sendTree_keeps ?_ | with_reducible refine bump_keeps ?_ | split)

theorem resendHop_keeps {P : List Instr} {h n : W32} {dir : Nat} {k : HopPkt} {s : State} (hk : Kp P s.pending s.mems) :
    Kp P (resendHop h n dir k s).pending (resendHop h n dir k s).mems := by
  unfold resendHop
  repeat' (first | with_reducible assumption | intro _ | dsimp only | with_reducible refine resendHopWith_keeps ?_ | with_reducible refine collLocal_keeps ?_ | with_reducible refine badEvent_keeps ?_ | with_reducible refine askPages_keeps ?_ | split)

theorem resendOrphan_keeps {P : List Instr} {o : Orphan} {s : State} (hk : Kp P s.pending s.mems) :
    Kp P (resendOrphan o s).pending (resendOrphan o s).mems := by
  unfold resendOrphan
  repeat' (first | with_reducible assumption | intro _ | dsimp only | with_reducible refine advanceTo_keeps ?_ | with_reducible refine sendTree_keeps ?_ | with_reducible refine bump_keeps ?_ | split)

theorem execTreeHopTimeout_keeps {P : List Instr} {group inst : W32} {member : Nat} {chunk : Nat} {down : Bool} {s sNext : State} (hx : execTreeHopTimeout group inst member chunk down s = .next sNext) (hk : Kp P s.pending s.mems) :
    Kp P sNext.pending sNext.mems := by
  unfold execTreeHopTimeout at hx
  injection hx with hx
  subst hx
  repeat' (first | with_reducible assumption | intro _ | dsimp only | with_reducible refine resendOrphan_keeps ?_ | with_reducible refine advanceTo_keeps ?_ | with_reducible refine dropHop_keeps ?_ | with_reducible refine unitAbort_keeps ?_ | with_reducible refine resendHop_keeps ?_ | split)

theorem tieIn_keeps {P : List Instr} {link : Nat} {p : Packet} {s : State} (hk : Kp P s.pending s.mems) :
    Kp P (tieIn link p s).pending (tieIn link p s).mems := by
  unfold tieIn
  repeat' (first | with_reducible assumption | intro _ | dsimp only | (rename_i hq; split at hq) | with_reducible refine takeInLink_keeps ?_ | with_reducible refine bump_keeps ?_ | with_reducible refine holdInst_keeps ?_ | with_reducible refine modInst_keeps ?_ | with_reducible refine takeDown_keeps ?_ | with_reducible refine takeDown_eq (by assumption) ?_ | with_reducible refine takeUp_keeps ?_ | with_reducible refine takeUp_eq (by assumption) ?_ | with_reducible refine goOn_keeps ?_ | split)

theorem execTieReceive_keeps {P : List Instr} {link : Nat} {p : Packet} {s sNext : State} (hx : execTieReceive link p s = .next sNext) (hk : Kp P s.pending s.mems) :
    Kp P sNext.pending sNext.mems := by
  unfold execTieReceive at hx
  injection hx with hx
  subst hx
  repeat' (first | with_reducible assumption | intro _ | dsimp only | with_reducible refine tieIn_keeps ?_ | split)

theorem execTieTimeout_keeps {P : List Instr} {group inst : W32} {s sNext : State} (hx : execTieTimeout group inst s = .next sNext) (hk : Kp P s.pending s.mems) :
    Kp P sNext.pending sNext.mems := by
  unfold execTieTimeout at hx
  injection hx with hx
  subst hx
  repeat' (first | with_reducible assumption | intro _ | dsimp only | with_reducible refine collAbort_keeps ?_ | with_reducible refine advanceTo_keeps ?_ | split)

theorem execCollGiveUp_keeps {P : List Instr} {group inst : W32} {s sNext : State} (hx : execCollGiveUp group inst s = .next sNext) (hk : Kp P s.pending s.mems) :
    Kp P sNext.pending sNext.mems := by
  unfold execCollGiveUp at hx
  injection hx with hx
  subst hx
  repeat' (first | with_reducible assumption | intro _ | dsimp only | with_reducible refine collAbort_keeps ?_ | with_reducible refine advanceTo_keeps ?_ | split)

theorem ringAdmit_keeps {P : List Instr} {p : Packet} {s : State} (hk : Kp P s.pending s.mems) :
    Kp P (ringAdmit p s).2.pending (ringAdmit p s).2.mems := by
  unfold ringAdmit
  repeat' (first | with_reducible assumption | intro _ | dsimp only | with_reducible refine bump_keeps ?_ | split)

theorem ringAdmit_eq {P : List Instr} {p : Packet} {s u : State} {w} (he : ringAdmit p s = (w, u)) (hk : Kp P s.pending s.mems) :
    Kp P u.pending u.mems := by
  have := ringAdmit_keeps (p := p) hk; rw [he] at this; exact this

theorem ringExec_keeps {P : List Instr} {p : Packet} {s : State} (hk : Kp P s.pending s.mems) :
    Kp P (ringExec p s).pending (ringExec p s).mems := by
  unfold ringExec
  repeat' (first | with_reducible assumption | intro _ | dsimp only | with_reducible refine packetDone_keeps ?_ | with_reducible refine holdInst_keeps ?_ | with_reducible refine modInst_keeps ?_ | with_reducible refine collAbort_keeps ?_ | with_reducible refine bump_keeps ?_ | with_reducible refine releaseSlots_keeps ?_ | with_reducible refine goOn_keeps ?_ | split)

theorem tileWake_keeps {P : List Instr} {core : Nat} {c : W128} {s : State} (hk : Kp P s.pending s.mems) :
    Kp P (tileWake core c s).pending (tileWake core c s).mems := by
  unfold tileWake
  repeat' (first | with_reducible assumption | intro _ | dsimp only | with_reducible refine foldS_keeps _ _ ?_ ?_ | with_reducible refine wakeRange_keeps ?_ | split)

theorem trapCore_keeps {P : List Instr} {core cause status result : Nat} {s : State} (hk : Kp P s.pending s.mems) :
    Kp P (trapCore core cause status result s).pending (trapCore core cause status result s).mems := by
  unfold trapCore
  repeat' (first | with_reducible assumption | intro _ | dsimp only | with_reducible refine haltCore_keeps ?_ | split)

theorem dequeue_keeps {P : List Instr} {core : Nat} {pre post : List W128} {s : State} (hk : Kp P s.pending s.mems) :
    Kp P (dequeue core pre post s).pending (dequeue core pre post s).mems := by
  unfold dequeue
  repeat' (first | with_reducible assumption | intro _ | dsimp only | with_reducible refine modCore_keeps ?_ | split)

theorem startTile_keeps {P : List Instr} {code core : Nat} {act : W128 → State → State} (Hact : ∀ y0 t, Kp P t.pending t.mems → Kp P (act y0 t).pending (act y0 t).mems) {s : State} (hk : Kp P s.pending s.mems) :
    Kp P (startTile code core act s).pending (startTile code core act s).mems := by
  unfold startTile
  repeat' (first | with_reducible assumption | intro _ | dsimp only | with_reducible refine Hact _ _ ?_ | with_reducible refine trapCore_keeps ?_ | with_reducible refine tileWake_keeps ?_ | with_reducible refine memEvent_keeps ?_ | with_reducible refine dequeue_keeps ?_ | with_reducible refine modCore_keeps ?_ | split)

theorem spaceWrite_keeps {P : List Instr} {core space off : Nat} {b : List Byte} {s : State} (hk : Kp P s.pending s.mems) :
    Kp P (spaceWrite core space off b s).pending (spaceWrite core space off b s).mems := by
  unfold spaceWrite
  repeat' (first | with_reducible assumption | intro _ | dsimp only | with_reducible refine memWrite_keeps ?_ | split)

theorem modEngine_keeps {P : List Instr} {core e : Nat} {g : Engine → Engine} {s : State} (hk : Kp P s.pending s.mems) :
    Kp P (modEngine core e g s).pending (modEngine core e g s).mems := by
  unfold modEngine
  repeat' (first | with_reducible assumption | intro _ | dsimp only | with_reducible refine modCore_keeps ?_ | split)

theorem doLoadw_keeps {P : List Instr} {core : Nat} {c : W128} {s : State} (hk : Kp P s.pending s.mems) :
    Kp P (doLoadw core c s).pending (doLoadw core c s).mems := by
  unfold doLoadw
  repeat' (first | with_reducible assumption | intro _ | dsimp only | with_reducible refine modEngine_keeps ?_ | split)

theorem execLoadw_keeps {P : List Instr} {core : Nat} {s sNext : State} (hx : execLoadw core s = .next sNext) (hk : Kp P s.pending s.mems) :
    Kp P sNext.pending sNext.mems := by
  unfold execLoadw at hx
  injection hx with hx
  subst hx
  repeat' (first | with_reducible assumption | intro _ | dsimp only | with_reducible refine startTile_keeps ?_ ?_ | with_reducible refine doLoadw_keeps ?_ | split)

theorem doStream_keeps {P : List Instr} {core : Nat} {c : W128} {s : State} (hk : Kp P s.pending s.mems) :
    Kp P (doStream core c s).pending (doStream core c s).mems := by
  unfold doStream
  repeat' (first | with_reducible assumption | intro _ | dsimp only | with_reducible refine foldS_keeps _ _ ?_ ?_ | with_reducible refine modEngine_keeps ?_ | split)

theorem execStream_keeps {P : List Instr} {core : Nat} {s sNext : State} (hx : execStream core s = .next sNext) (hk : Kp P s.pending s.mems) :
    Kp P sNext.pending sNext.mems := by
  unfold execStream at hx
  injection hx with hx
  subst hx
  repeat' (first | with_reducible assumption | intro _ | dsimp only | with_reducible refine startTile_keeps ?_ ?_ | with_reducible refine doStream_keeps ?_ | split)

theorem doAcc_keeps {P : List Instr} {core : Nat} {c : W128} {s : State} (hk : Kp P s.pending s.mems) :
    Kp P (doAcc core c s).pending (doAcc core c s).mems := by
  unfold doAcc
  repeat' (first | with_reducible assumption | intro _ | dsimp only | with_reducible refine modEngine_keeps ?_ | with_reducible refine spaceWrite_keeps ?_ | split)

theorem execAcc_keeps {P : List Instr} {core : Nat} {s sNext : State} (hx : execAcc core s = .next sNext) (hk : Kp P s.pending s.mems) :
    Kp P sNext.pending sNext.mems := by
  unfold execAcc at hx
  injection hx with hx
  subst hx
  repeat' (first | with_reducible assumption | intro _ | dsimp only | with_reducible refine startTile_keeps ?_ ?_ | with_reducible refine doAcc_keeps ?_ | split)

theorem doEpilogue_keeps {P : List Instr} {core : Nat} {c : W128} {s : State} (hk : Kp P s.pending s.mems) :
    Kp P (doEpilogue core c s).pending (doEpilogue core c s).mems := by
  unfold doEpilogue
  repeat' (first | with_reducible assumption | intro _ | dsimp only | with_reducible refine modCore_keeps ?_ | with_reducible refine foldS_keeps _ _ ?_ ?_ | with_reducible refine spaceWrite_keeps ?_ | split)

theorem execEpilogue_keeps {P : List Instr} {core : Nat} {s sNext : State} (hx : execEpilogue core s = .next sNext) (hk : Kp P s.pending s.mems) :
    Kp P sNext.pending sNext.mems := by
  unfold execEpilogue at hx
  injection hx with hx
  subst hx
  repeat' (first | with_reducible assumption | intro _ | dsimp only | with_reducible refine startTile_keeps ?_ ?_ | with_reducible refine doEpilogue_keeps ?_ | split)

theorem moveWrite_keeps {P : List Instr} {e : MoveEnd} {b : List Byte} {s : State} (hk : Kp P s.pending s.mems) :
    Kp P (moveWrite e b s).pending (moveWrite e b s).mems := by
  unfold moveWrite
  repeat' (first | with_reducible assumption | intro _ | dsimp only | with_reducible refine memWrite_keeps ?_ | with_reducible refine segWrite_keeps ?_ | split)

theorem moveHold_keeps {P : List Instr} {core a n : Nat} {up : Bool} {s : State} (hk : Kp P s.pending s.mems) :
    Kp P (moveHold s core a n up).pending (moveHold s core a n up).mems := by
  unfold moveHold
  repeat' (first | with_reducible assumption | intro _ | dsimp only | with_reducible refine foldS_keeps _ _ ?_ ?_ | with_reducible refine modPage_keeps ?_ | split)

theorem moveTouch_keeps {P : List Instr} {core : Nat} {e : MoveEnd} {n : Nat} {s : State} (hk : Kp P s.pending s.mems) :
    Kp P (moveTouch core e n s).pending (moveTouch core e n s).mems := by
  unfold moveTouch
  repeat' (first | with_reducible assumption | intro _ | dsimp only | with_reducible refine touchSeg_keeps ?_ | split)

theorem moveWaits_keeps {P : List Instr} {core : Nat} {w : Bool} {s : State} (hk : Kp P s.pending s.mems) :
    Kp P (moveWaits core w s).pending (moveWaits core w s).mems := by
  unfold moveWaits
  repeat' (first | with_reducible assumption | intro _ | dsimp only | with_reducible refine modCore_keeps ?_ | split)

theorem doMove_keeps {P : List Instr} {core : Nat} {c : W128} {s : State} (hk : Kp P s.pending s.mems) :
    Kp P (doMove core c s).pending (doMove core c s).mems := by
  unfold doMove
  repeat' (first | with_reducible assumption | intro _ | dsimp only | with_reducible refine askPages_keeps ?_ | with_reducible refine trapCore_keeps ?_ | with_reducible refine moveWaits_keeps ?_ | with_reducible refine memEvent_keeps ?_ | with_reducible refine moveTouch_keeps ?_ | with_reducible refine moveHold_keeps ?_ | with_reducible refine moveWrite_keeps ?_ | split)

theorem execMove_keeps {P : List Instr} {core : Nat} {s sNext : State} (hx : execMove core s = .next sNext) (hk : Kp P s.pending s.mems) :
    Kp P sNext.pending sNext.mems := by
  unfold execMove at hx
  injection hx with hx
  subst hx
  repeat' (first | with_reducible assumption | intro _ | dsimp only | with_reducible refine startTile_keeps ?_ ?_ | with_reducible refine doMove_keeps ?_ | with_reducible refine foldS_keeps _ _ ?_ ?_ | with_reducible refine wakeRange_keeps ?_ | split)

theorem doDoorway_keeps {P : List Instr} {core : Nat} {c : W128} {s : State} (hk : Kp P s.pending s.mems) :
    Kp P (doDoorway core c s).pending (doDoorway core c s).mems := by
  unfold doDoorway
  repeat' (first | with_reducible assumption | intro _ | dsimp only | with_reducible refine modCore_keeps ?_ | with_reducible refine sendDoor_keeps ?_ | split)

theorem execDoorwaySend_keeps {P : List Instr} {core : Nat} {s sNext : State} (hx : execDoorwaySend core s = .next sNext) (hk : Kp P s.pending s.mems) :
    Kp P sNext.pending sNext.mems := by
  unfold execDoorwaySend at hx
  injection hx with hx
  subst hx
  repeat' (first | with_reducible assumption | intro _ | dsimp only | with_reducible refine startTile_keeps ?_ ?_ | with_reducible refine doDoorway_keeps ?_ | split)

theorem semUnderflow_keeps {P : List Instr} {core sem : Nat} {s : State} (hk : Kp P s.pending s.mems) :
    Kp P (semUnderflow core sem s).pending (semUnderflow core sem s).mems := by
  unfold semUnderflow
  repeat' (first | with_reducible assumption | intro _ | dsimp only | with_reducible refine haltCore_keeps ?_ | with_reducible refine raiseEvent_keeps ?_ | with_reducible refine bump_keeps ?_ | split)

theorem semFree_keeps {P : List Instr} {core : Nat} {s : State} (hk : Kp P s.pending s.mems) :
    Kp P (semFree core s).pending (semFree core s).mems := by
  unfold semFree
  repeat' (first | with_reducible assumption | intro _ | dsimp only | with_reducible refine modCore_keeps ?_ | split)

theorem doWait_keeps {P : List Instr} {core : Nat} {c : W128} {s : State} (hk : Kp P s.pending s.mems) :
    Kp P (doWait core c s).pending (doWait core c s).mems := by
  unfold doWait
  repeat' (first | with_reducible assumption | intro _ | dsimp only | with_reducible refine semFree_keeps ?_ | with_reducible refine setSem_keeps ?_ | with_reducible refine semUnderflow_keeps ?_ | with_reducible refine modCore_keeps ?_ | split)

theorem execWait_keeps {P : List Instr} {core : Nat} {s sNext : State} (hx : execWait core s = .next sNext) (hk : Kp P s.pending s.mems) :
    Kp P sNext.pending sNext.mems := by
  unfold execWait at hx
  injection hx with hx
  subst hx
  repeat' (first | with_reducible assumption | intro _ | dsimp only | with_reducible refine startTile_keeps ?_ ?_ | with_reducible refine doWait_keeps ?_ | split)

theorem execWaitSatisfied_keeps {P : List Instr} {core : Nat} {s sNext : State} (hx : execWaitSatisfied core s = .next sNext) (hk : Kp P s.pending s.mems) :
    Kp P sNext.pending sNext.mems := by
  unfold execWaitSatisfied at hx
  injection hx with hx
  subst hx
  repeat' (first | with_reducible assumption | intro _ | dsimp only | with_reducible refine semFree_keeps ?_ | with_reducible refine setSem_keeps ?_ | with_reducible refine modCore_keeps ?_ | with_reducible refine modLaunch_keeps ?_ | split)

theorem doSignal_keeps {P : List Instr} {core : Nat} {c : W128} {s : State} (hk : Kp P s.pending s.mems) :
    Kp P (doSignal core c s).pending (doSignal core c s).mems := by
  unfold doSignal
  repeat' (first | with_reducible assumption | intro _ | dsimp only | with_reducible refine counterAdd_keeps ?_ | with_reducible refine semAdd_keeps ?_ | with_reducible refine trapCore_keeps ?_ | with_reducible refine bump_keeps ?_ | split)

theorem execSignal_keeps {P : List Instr} {core : Nat} {s sNext : State} (hx : execSignal core s = .next sNext) (hk : Kp P s.pending s.mems) :
    Kp P sNext.pending sNext.mems := by
  unfold execSignal at hx
  injection hx with hx
  subst hx
  repeat' (first | with_reducible assumption | intro _ | dsimp only | with_reducible refine startTile_keeps ?_ ?_ | with_reducible refine doSignal_keeps ?_ | split)

theorem doPhase_keeps {P : List Instr} {core : Nat} {c : W128} {s : State} (hk : Kp P s.pending s.mems) :
    Kp P (doPhase core c s).pending (doPhase core c s).mems := by
  unfold doPhase
  repeat' (first | with_reducible assumption | intro _ | dsimp only | with_reducible refine modCore_keeps ?_ | split)

theorem execPhase_keeps {P : List Instr} {core : Nat} {s sNext : State} (hx : execPhase core s = .next sNext) (hk : Kp P s.pending s.mems) :
    Kp P sNext.pending sNext.mems := by
  unfold execPhase at hx
  injection hx with hx
  subst hx
  repeat' (first | with_reducible assumption | intro _ | dsimp only | with_reducible refine startTile_keeps ?_ ?_ | with_reducible refine doPhase_keeps ?_ | split)

theorem startCore_keeps {P : List Instr} {l : Launch} {code args : List Byte} {entry core : Nat} {s : State} (hk : Kp P s.pending s.mems) :
    Kp P (startCore l code args entry core s).pending (startCore l code args entry core s).mems := by
  unfold startCore
  repeat' (first | with_reducible assumption | intro _ | dsimp only | with_reducible refine memWrite_keeps ?_ | with_reducible refine bankOn_keeps ?_ | with_reducible refine drawn_keeps ?_ | with_reducible refine modCore_keeps ?_ | split)

theorem claimLaunch_keeps {P : List Instr} {q : QRef} {idx : Nat} {e : Entry} {s : State} (hk : Kp P s.pending s.mems) :
    Kp P (claimLaunch q idx e s).pending (claimLaunch q idx e s).mems := by
  unfold claimLaunch
  repeat' (first | with_reducible assumption | intro _ | dsimp only | with_reducible refine foldS_keeps _ _ ?_ ?_ | with_reducible refine modCore_keeps ?_ | split)

theorem startLaunch_keeps {P : List Instr} {q : QRef} {idx : Nat} {e : Entry} {s : State} (hk : Kp P s.pending s.mems) :
    Kp P (startLaunch q idx e s).pending (startLaunch q idx e s).mems := by
  unfold startLaunch
  repeat' (first | with_reducible assumption | intro _ | dsimp only | with_reducible refine complete_keeps ?_ | with_reducible refine badEvent_keeps ?_ | with_reducible refine askPages_keeps ?_ | with_reducible refine claimLaunch_keeps ?_ | with_reducible refine vtouch_keeps ?_ | with_reducible refine foldS_keeps _ _ ?_ ?_ | with_reducible refine startCore_keeps ?_ | with_reducible refine modLaunch_keeps ?_ | split)

theorem takeLaunch_keeps {P : List Instr} {q : QRef} {idx : Nat} {e : Entry} {s : State} (hk : Kp P s.pending s.mems) :
    Kp P (takeLaunch q idx e s).pending (takeLaunch q idx e s).mems := by
  unfold takeLaunch
  repeat' (first | with_reducible assumption | intro _ | dsimp only | with_reducible refine startLaunch_keeps ?_ | with_reducible refine bump_keeps ?_ | split)

theorem execLaunch_keeps {P : List Instr} {q : QRef} {e : Entry} {s sNext : State} (hx : execLaunch q e s = .next sNext) (hk : Kp P s.pending s.mems) :
    Kp P sNext.pending sNext.mems := by
  unfold execLaunch at hx
  injection hx with hx
  subst hx
  repeat' (first | with_reducible assumption | intro _ | dsimp only | with_reducible refine offer_keeps ?_ ?_ | with_reducible refine takeLaunch_keeps ?_ | with_reducible refine foldS_keeps _ _ ?_ ?_ | with_reducible refine wakeCore_keeps ?_ | split)

theorem issueCmd_keeps {P : List Instr} {core : Nat} {lo hi : W64} {s : State} (hk : Kp P s.pending s.mems) :
    Kp P (issueCmd core lo hi s).pending (issueCmd core lo hi s).mems := by
  unfold issueCmd
  repeat' (first | with_reducible assumption | intro _ | dsimp only | with_reducible refine modCore_keeps ?_ | split)

theorem execCmd1Write_keeps {P : List Instr} {core : Nat} {cmd0 : Option W64} {cmd1 : W64} {s sNext : State} (hx : execCmd1Write core cmd0 cmd1 s = .next sNext) (hk : Kp P s.pending s.mems) :
    Kp P sNext.pending sNext.mems := by
  unfold execCmd1Write at hx
  injection hx with hx
  subst hx
  repeat' (first | with_reducible assumption | intro _ | dsimp only | with_reducible refine issueCmd_keeps ?_ | split)

theorem loadTrap_keeps {P : List Instr} {core addr : Nat} {s : State} (hk : Kp P s.pending s.mems) :
    Kp P (loadTrap core addr s).pending (loadTrap core addr s).mems := by
  unfold loadTrap
  repeat' (first | with_reducible assumption | intro _ | dsimp only | with_reducible refine trapCore_keeps ?_ | with_reducible refine memEvent_keeps ?_ | split)

theorem execCoreTrap_keeps {P : List Instr} {core : Nat} {cause : Nat} {addr : W64} {s sNext : State} (hx : execCoreTrap core cause addr s = .next sNext) (hk : Kp P s.pending s.mems) :
    Kp P sNext.pending sNext.mems := by
  unfold execCoreTrap at hx
  injection hx with hx
  subst hx
  repeat' (first | with_reducible assumption | intro _ | dsimp only | with_reducible refine trapCore_keeps ?_ | with_reducible refine loadTrap_keeps ?_ | split)

theorem balanceCheck_keeps {P : List Instr} {l : Launch} {core : Nat} {s : State} (hk : Kp P s.pending s.mems) :
    Kp P (balanceCheck l core s).pending (balanceCheck l core s).mems := by
  unfold balanceCheck
  repeat' (first | with_reducible assumption | intro _ | dsimp only | with_reducible refine raiseEvent_keeps ?_ | with_reducible refine bump_keeps ?_ | split)

theorem ecallAt_keeps {P : List Instr} {core : Nat} {a7 a0 pc : W64} {s : State} (hk : Kp P s.pending s.mems) :
    Kp P (ecallAt core a7 a0 pc s).pending (ecallAt core a7 a0 pc s).mems := by
  unfold ecallAt
  repeat' (first | with_reducible assumption | intro _ | dsimp only | with_reducible refine modCore_keeps ?_ | with_reducible refine trapCore_keeps ?_ | with_reducible refine balanceCheck_keeps ?_ | split)

theorem execEcall_keeps {P : List Instr} {core : Nat} {a7 a0 pc : W64} {s sNext : State} (hx : execEcall core a7 a0 pc s = .next sNext) (hk : Kp P s.pending s.mems) :
    Kp P sNext.pending sNext.mems := by
  unfold execEcall at hx
  injection hx with hx
  subst hx
  repeat' (first | with_reducible assumption | intro _ | dsimp only | with_reducible refine ecallAt_keeps ?_ | split)

theorem endStarving_keeps {P : List Instr} {core : Nat} {s : State} (hk : Kp P s.pending s.mems) :
    Kp P (endStarving core s).pending (endStarving core s).mems := by
  unfold endStarving
  repeat' (first | with_reducible assumption | intro _ | dsimp only | with_reducible refine modCore_keeps ?_ | split)

theorem execTileCommandFinish_keeps {P : List Instr} {core : Nat} {unit : Nat} {s sNext : State} (hx : execTileCommandFinish core unit s = .next sNext) (hk : Kp P s.pending s.mems) :
    Kp P sNext.pending sNext.mems := by
  unfold execTileCommandFinish at hx
  injection hx with hx
  subst hx
  repeat' (first | with_reducible assumption | intro _ | dsimp only | with_reducible refine modCore_keeps ?_ | with_reducible refine endStarving_keeps ?_ | with_reducible refine touchCore_keeps ?_ | with_reducible refine moveHold_keeps ?_ | split)

theorem freeLaunch_keeps {P : List Instr} {l : Launch} {s : State} (hk : Kp P s.pending s.mems) :
    Kp P (freeLaunch l s).pending (freeLaunch l s).mems := by
  unfold freeLaunch
  repeat' (first | with_reducible assumption | intro _ | dsimp only | with_reducible refine foldS_keeps _ _ ?_ ?_ | with_reducible refine modCore_keeps ?_ | split)

theorem execLaunchComplete_keeps {P : List Instr} {launch : Nat} {s sNext : State} (hx : execLaunchComplete launch s = .next sNext) (hk : Kp P s.pending s.mems) :
    Kp P sNext.pending sNext.mems := by
  unfold execLaunchComplete at hx
  injection hx with hx
  subst hx
  repeat' (first | with_reducible assumption | intro _ | dsimp only | with_reducible refine complete_keeps ?_ | with_reducible refine freeLaunch_keeps ?_ | with_reducible refine completeOk_keeps ?_ | split)

theorem execDeadlockWindowExpiry_keeps {P : List Instr} {launch : Nat} {s sNext : State} (hx : execDeadlockWindowExpiry launch s = .next sNext) (hk : Kp P s.pending s.mems) :
    Kp P sNext.pending sNext.mems := by
  unfold execDeadlockWindowExpiry at hx
  injection hx with hx
  subst hx
  repeat' (first | with_reducible assumption | intro _ | dsimp only | with_reducible refine advanceTo_keeps ?_ | with_reducible refine bump_keeps ?_ | with_reducible refine modLaunch_keeps ?_ | with_reducible refine foldS_keeps _ _ ?_ ?_ | with_reducible refine raiseEvent_keeps ?_ | split)

theorem bankPwrWrite_keeps {P : List Instr} {core : Nat} {value : W32} {s : State} (hk : Kp P s.pending s.mems) :
    Kp P (bankPwrWrite core value s).pending (bankPwrWrite core value s).mems := by
  unfold bankPwrWrite
  repeat' (first | with_reducible assumption | intro _ | dsimp only | with_reducible refine foldS_keeps _ _ ?_ ?_ | with_reducible refine askBank_keeps ?_ | split)

theorem execBankPwrWrite_keeps {P : List Instr} {core : Nat} {value : W32} {s sNext : State} (hx : execBankPwrWrite core value s = .next sNext) (hk : Kp P s.pending s.mems) :
    Kp P sNext.pending sNext.mems := by
  unfold execBankPwrWrite at hx
  injection hx with hx
  subst hx
  repeat' (first | with_reducible assumption | intro _ | dsimp only | with_reducible refine bankPwrWrite_keeps ?_ | split)

theorem execBankStateChange_keeps {P : List Instr} {core bank : Nat} {s sNext : State} (hx : execBankStateChange core bank s = .next sNext) (hk : Kp P s.pending s.mems) :
    Kp P sNext.pending sNext.mems := by
  unfold execBankStateChange at hx
  injection hx with hx
  subst hx
  repeat' (first | with_reducible assumption | intro _ | dsimp only | with_reducible refine memZero_keeps ?_ | with_reducible refine modCore_keeps ?_ | split)

theorem execBankWakeComplete_keeps {P : List Instr} {core bank : Nat} {s sNext : State} (hx : execBankWakeComplete core bank s = .next sNext) (hk : Kp P s.pending s.mems) :
    Kp P sNext.pending sNext.mems := by
  unfold execBankWakeComplete at hx
  injection hx with hx
  subst hx
  repeat' (first | with_reducible assumption | intro _ | dsimp only | with_reducible refine bankOn_keeps ?_ | split)

theorem execBankStarvation_keeps {P : List Instr} {core bank : Nat} {mover : Bool} {waited : Nat} {s sNext : State} (hx : execBankStarvation core bank mover waited s = .next sNext) (hk : Kp P s.pending s.mems) :
    Kp P sNext.pending sNext.mems := by
  unfold execBankStarvation at hx
  injection hx with hx
  subst hx
  repeat' (first | with_reducible assumption | intro _ | dsimp only | with_reducible refine endStarving_keeps ?_ | with_reducible refine modCore_keeps ?_ | with_reducible refine raiseEvent_keeps ?_ | with_reducible refine bump_keeps ?_ | split)

theorem execCorePcRead_keeps {P : List Instr} {fn : Nat} {s sNext : State} (hx : execCorePcRead fn s = .next sNext) (hk : Kp P s.pending s.mems) :
    Kp P sNext.pending sNext.mems := by
  unfold execCorePcRead at hx
  injection hx with hx
  subst hx
  repeat' (first | with_reducible assumption | intro _ | dsimp only | with_reducible refine outEmit_keeps ?_ | with_reducible refine modFn_keeps ?_ | split)

theorem enableSeg_keeps {P : List Instr} {fn i : Nat} {g : Segment} {s : State} (hk : Kp P s.pending s.mems) :
    Kp P (enableSeg fn i g s).pending (enableSeg fn i g s).mems := by
  unfold enableSeg
  repeat' (first | with_reducible assumption | intro _ | dsimp only | with_reducible refine modSeg_keeps ?_ | split)

theorem startFlush_keeps {P : List Instr} {fn i : Nat} {s : State} (hk : Kp P s.pending s.mems) :
    Kp P (startFlush fn i s).pending (startFlush fn i s).mems := by
  unfold startFlush
  repeat' (first | with_reducible assumption | intro _ | dsimp only | with_reducible refine modSeg_keeps ?_ | with_reducible refine uncacheSeg_keeps ?_ | split)

theorem flushPass_keeps {P : List Instr} {fn i : Nat} {s : State} (hk : Kp P s.pending s.mems) :
    Kp P (flushPass fn i s).pending (flushPass fn i s).mems := by
  unfold flushPass
  repeat' (first | with_reducible assumption | intro _ | dsimp only | with_reducible refine foldS_keeps _ _ ?_ ?_ | with_reducible refine writeBack_keeps ?_ | with_reducible refine dropPage_keeps ?_ | split)

theorem doFlush_keeps {P : List Instr} {fn i : Nat} {s : State} (hk : Kp P s.pending s.mems) :
    Kp P (doFlush fn i s).pending (doFlush fn i s).mems := by
  unfold doFlush
  repeat' (first | with_reducible assumption | intro _ | dsimp only | with_reducible refine startFlush_keeps ?_ | with_reducible refine flushPass_keeps ?_ | split)

theorem segEnable_keeps {P : List Instr} {fn v : Nat} {s : State} (hk : Kp P s.pending s.mems) :
    Kp P (segEnable fn v s).pending (segEnable fn v s).mems := by
  unfold segEnable
  repeat' (first | with_reducible assumption | intro _ | dsimp only | with_reducible refine modSeg_keeps ?_ | with_reducible refine enableSeg_keeps ?_ | with_reducible refine doFlush_keeps ?_ | split)

theorem execSegmentEnable_keeps {P : List Instr} {fn : Nat} {value : W32} {s sNext : State} (hx : execSegmentEnable fn value s = .next sNext) (hk : Kp P s.pending s.mems) :
    Kp P sNext.pending sNext.mems := by
  unfold execSegmentEnable at hx
  injection hx with hx
  subst hx
  repeat' (first | with_reducible assumption | intro _ | dsimp only | with_reducible refine segEnable_keeps ?_ | split)

theorem execSegmentZeroingEnd_keeps {P : List Instr} {fn seg : Nat} {s sNext : State} (hx : execSegmentZeroingEnd fn seg s = .next sNext) (hk : Kp P s.pending s.mems) :
    Kp P sNext.pending sNext.mems := by
  unfold execSegmentZeroingEnd at hx
  injection hx with hx
  subst hx
  repeat' (first | with_reducible assumption | intro _ | dsimp only | with_reducible refine modFn_keeps ?_ | with_reducible refine memZero_keeps ?_ | with_reducible refine modSeg_keeps ?_ | split)

theorem dropSeg_keeps {P : List Instr} {fn i : Nat} {s : State} (hk : Kp P s.pending s.mems) :
    Kp P (dropSeg fn i s).pending (dropSeg fn i s).mems := by
  unfold dropSeg
  repeat' (first | with_reducible assumption | intro _ | dsimp only | with_reducible refine uncacheSeg_keeps ?_ | with_reducible refine modFn_keeps ?_ | with_reducible refine modSeg_keeps ?_ | split)

theorem segDisable_keeps {P : List Instr} {fn v : Nat} {s : State} (hk : Kp P s.pending s.mems) :
    Kp P (segDisable fn v s).pending (segDisable fn v s).mems := by
  unfold segDisable
  repeat' (first | with_reducible assumption | intro _ | dsimp only | with_reducible refine modSeg_keeps ?_ | with_reducible refine doFlush_keeps ?_ | with_reducible refine uncacheSeg_keeps ?_ | split)

theorem execSegmentDisable_keeps {P : List Instr} {fn : Nat} {value : W32} {s sNext : State} (hx : execSegmentDisable fn value s = .next sNext) (hk : Kp P s.pending s.mems) :
    Kp P sNext.pending sNext.mems := by
  unfold execSegmentDisable at hx
  injection hx with hx
  subst hx
  repeat' (first | with_reducible assumption | intro _ | dsimp only | with_reducible refine segDisable_keeps ?_ | split)

theorem execSegmentDisableEnd_keeps {P : List Instr} {fn seg : Nat} {s sNext : State} (hx : execSegmentDisableEnd fn seg s = .next sNext) (hk : Kp P s.pending s.mems) :
    Kp P sNext.pending sNext.mems := by
  unfold execSegmentDisableEnd at hx
  injection hx with hx
  subst hx
  repeat' (first | with_reducible assumption | intro _ | dsimp only | with_reducible refine foldS_keeps _ _ ?_ ?_ | with_reducible refine writeBack_keeps ?_ | with_reducible refine dropSeg_keeps ?_ | split)

theorem cutSeg_keeps {P : List Instr} {fn i : Nat} {s : State} (hk : Kp P s.pending s.mems) :
    Kp P (cutSeg fn i s).pending (cutSeg fn i s).mems := by
  unfold cutSeg
  repeat' (first | with_reducible assumption | intro _ | dsimp only | with_reducible refine setRecs_keeps ?_ | with_reducible refine setWalkers_keeps ?_ | with_reducible refine dropSeg_keeps ?_ | split)

theorem execSegmentFlush_keeps {P : List Instr} {fn : Nat} {value : W32} {s sNext : State} (hx : execSegmentFlush fn value s = .next sNext) (hk : Kp P s.pending s.mems) :
    Kp P sNext.pending sNext.mems := by
  unfold execSegmentFlush at hx
  injection hx with hx
  subst hx
  repeat' (first | with_reducible assumption | intro _ | dsimp only | with_reducible refine doFlush_keeps ?_ | split)

theorem execSegmentFlushEnd_keeps {P : List Instr} {fn seg : Nat} {s sNext : State} (hx : execSegmentFlushEnd fn seg s = .next sNext) (hk : Kp P s.pending s.mems) :
    Kp P sNext.pending sNext.mems := by
  unfold execSegmentFlushEnd at hx
  injection hx with hx
  subst hx
  repeat' (first | with_reducible assumption | intro _ | dsimp only | with_reducible refine flushPass_keeps ?_ | with_reducible refine modSeg_keeps ?_ | split)

theorem execStampReport_keeps {P : List Instr} {s sNext : State} (hx : execStampReport s = .next sNext) (hk : Kp P s.pending s.mems) :
    Kp P sNext.pending sNext.mems := by
  unfold execStampReport at hx
  injection hx with hx
  subst hx
  repeat' (first | with_reducible assumption | intro _ | dsimp only | with_reducible refine advanceTo_keeps ?_ | with_reducible refine foldS_keeps _ _ ?_ ?_ | with_reducible refine modPage_keeps ?_ | split)

theorem execResidencyStampPass_keeps {P : List Instr} {s sNext : State} (hx : execResidencyStampPass s = .next sNext) (hk : Kp P s.pending s.mems) :
    Kp P sNext.pending sNext.mems := by
  unfold execResidencyStampPass at hx
  injection hx with hx
  subst hx
  repeat' (first | with_reducible assumption | intro _ | dsimp only | with_reducible refine advanceTo_keeps ?_ | split)

theorem putVdev_keeps {P : List Instr} {q : QRef} {idx : Nat} {va : Nat} {b : List Byte} {s : State} (hk : Kp P s.pending s.mems) :
    Kp P (putVdev q idx va b s).pending (putVdev q idx va b s).mems := by
  unfold putVdev
  repeat' (first | with_reducible assumption | intro _ | dsimp only | with_reducible refine completeOk_keeps ?_ | with_reducible refine writeAny_keeps ?_ | with_reducible refine complete_keeps ?_ | split)

theorem vdevCause_keeps {P : List Instr} {q : QRef} {idx : Nat} {va cause : Nat} {s : State} (hk : Kp P s.pending s.mems) :
    Kp P (vdevCause q idx va cause s).pending (vdevCause q idx va cause s).mems := by
  unfold vdevCause
  repeat' (first | with_reducible assumption | intro _ | dsimp only | with_reducible refine putVdev_keeps ?_ | split)

theorem cutOff_keeps {P : List Instr} {n : Nat} {s : State} (hk : Kp P s.pending s.mems) :
    Kp P (cutOff n s).pending (cutOff n s).mems := by
  unfold cutOff
  repeat' (first | with_reducible assumption | intro _ | dsimp only | with_reducible refine touchCore_keeps ?_ | with_reducible refine modCut_keeps ?_ | split)

theorem dropDoors_keeps {P : List Instr} {status core : Nat} {s : State} (hk : Kp P s.pending s.mems) :
    Kp P (dropDoors status core s).pending (dropDoors status core s).mems := by
  unfold dropDoors
  repeat' (first | with_reducible assumption | intro _ | dsimp only | with_reducible refine foldS_keeps _ _ ?_ ?_ | with_reducible refine abortOwner_keeps ?_ | with_reducible refine modCore_keeps ?_ | split)

theorem killLaunches_keeps {P : List Instr} {fin : QRef → Nat → State → State} {fn : Nat} (Hfin : ∀ y0 y1 t, Kp P t.pending t.mems → Kp P (fin y0 y1 t).pending (fin y0 y1 t).mems) {s : State} (hk : Kp P s.pending s.mems) :
    Kp P (killLaunches fin fn s).pending (killLaunches fin fn s).mems := by
  unfold killLaunches
  repeat' (first | with_reducible assumption | intro _ | dsimp only | with_reducible refine Hfin _ _ _ ?_ | with_reducible refine foldS_keeps _ _ ?_ ?_ | with_reducible refine dropDoors_keeps ?_ | with_reducible refine modCore_keeps ?_ | split)

theorem revokeAll_keeps {P : List Instr} {fn : Nat} {s : State} (hk : Kp P s.pending s.mems) :
    Kp P (revokeAll fn s).pending (revokeAll fn s).mems := by
  unfold revokeAll
  repeat' (first | with_reducible assumption | intro _ | dsimp only | with_reducible refine foldS_keeps _ _ ?_ ?_ | with_reducible refine revokeKey_keeps ?_ | split)

theorem endDrains_keeps {P : List Instr} {fn : Nat} {s : State} (hk : Kp P s.pending s.mems) :
    Kp P (endDrains fn s).pending (endDrains fn s).mems := by
  unfold endDrains
  repeat' (first | with_reducible assumption | intro _ | dsimp only | with_reducible refine foldS_keeps _ _ ?_ ?_ | with_reducible refine endDrain_keeps ?_ | split)

theorem dropQps_keeps {P : List Instr} {fn : Nat} {s : State} (hk : Kp P s.pending s.mems) :
    Kp P (dropQps fn s).pending (dropQps fn s).mems := by
  unfold dropQps
  repeat' (first | with_reducible assumption | intro _ | dsimp only | split)

theorem zeroSems_keeps {P : List Instr} {cores : List Nat} {s : State} (hk : Kp P s.pending s.mems) :
    Kp P (zeroSems cores s).pending (zeroSems cores s).mems := by
  unfold zeroSems
  repeat' (first | with_reducible assumption | intro _ | dsimp only | with_reducible refine foldS_keeps _ _ ?_ ?_ | with_reducible refine modCore_keeps ?_ | split)

theorem endPooled_keeps {P : List Instr} {fn : Nat} {queues : List QRef} {destroy : Bool} {s : State} (hk : Kp P s.pending s.mems) :
    Kp P (endPooled fn queues destroy s).pending (endPooled fn queues destroy s).mems := by
  unfold endPooled
  repeat' (first | with_reducible assumption | intro _ | dsimp only | with_reducible refine killLaunches_keeps ?_ ?_ | with_reducible refine foldS_keeps _ _ ?_ ?_ | with_reducible refine endQueue_keeps ?_ | with_reducible refine destroyGroup_keeps ?_ | with_reducible refine abortGroup_keeps ?_ | with_reducible refine revokeAll_keeps ?_ | with_reducible refine cutOff_keeps ?_ | with_reducible refine dropQps_keeps ?_ | with_reducible refine zeroSems_keeps ?_ | with_reducible refine modFn_keeps ?_ | split)

theorem emptySecurity_keeps {P : List Instr} {fn : Nat} {s : State} (hk : Kp P s.pending s.mems) :
    Kp P (emptySecurity fn s).pending (emptySecurity fn s).mems := by
  unfold emptySecurity
  repeat' (first | with_reducible assumption | intro _ | dsimp only | with_reducible refine modFn_keeps ?_ | split)

theorem forgetPhases_keeps {P : List Instr} {fn : Nat} {s : State} (hk : Kp P s.pending s.mems) :
    Kp P (forgetPhases fn s).pending (forgetPhases fn s).mems := by
  unfold forgetPhases
  repeat' (first | with_reducible assumption | intro _ | dsimp only | split)

theorem resetFn_keeps {P : List Instr} {fn : Nat} {destroy : Bool} {s : State} (hk : Kp P s.pending s.mems) :
    Kp P (resetFn fn destroy s).pending (resetFn fn destroy s).mems := by
  unfold resetFn
  repeat' (first | with_reducible assumption | intro _ | dsimp only | with_reducible refine forgetPhases_keeps ?_ | with_reducible refine emptySecurity_keeps ?_ | with_reducible refine endPooled_keeps ?_ | with_reducible refine foldS_keeps _ _ ?_ ?_ | with_reducible refine cutSeg_keeps ?_ | with_reducible refine modFn_keeps ?_ | split)

theorem resetPfGrant_keeps {P : List Instr} {destroy : Bool} {s : State} (hk : Kp P s.pending s.mems) :
    Kp P (resetPfGrant destroy s).pending (resetPfGrant destroy s).mems := by
  unfold resetPfGrant
  repeat' (first | with_reducible assumption | intro _ | dsimp only | with_reducible refine forgetPhases_keeps ?_ | with_reducible refine emptySecurity_keeps ?_ | with_reducible refine endPooled_keeps ?_ | with_reducible refine foldS_keeps _ _ ?_ ?_ | with_reducible refine cutSeg_keeps ?_ | with_reducible refine modFn_keeps ?_ | split)

theorem resetVdev_keeps {P : List Instr} {v : Nat} {destroy : Bool} {s : State} (hk : Kp P s.pending s.mems) :
    Kp P (resetVdev v destroy s).pending (resetVdev v destroy s).mems := by
  unfold resetVdev
  repeat' (first | with_reducible assumption | intro _ | dsimp only | with_reducible refine endDrains_keeps ?_ | with_reducible refine resetPfGrant_keeps ?_ | with_reducible refine resetFn_keeps ?_ | split)

theorem setVop_keeps {P : List Instr} {v : Nat} {o : Option VOp} {s : State} (hk : Kp P s.pending s.mems) :
    Kp P (setVop v o s).pending (setVop v o s).mems := by
  unfold setVop
  repeat' (first | with_reducible assumption | intro _ | dsimp only | with_reducible refine modFn_keeps ?_ | split)

theorem doCreate_keeps {P : List Instr} {q : QRef} {idx : Nat} {e : Entry} {s : State} (hk : Kp P s.pending s.mems) :
    Kp P (doCreate q idx e s).pending (doCreate q idx e s).mems := by
  unfold doCreate
  repeat' (first | with_reducible assumption | intro _ | dsimp only | with_reducible refine vdevCause_keeps ?_ | with_reducible refine modFn_keeps ?_ | with_reducible refine zeroSems_keeps ?_ | with_reducible refine putVdev_keeps ?_ | split)

theorem startCreate_keeps {P : List Instr} {q : QRef} {idx : Nat} {e : Entry} {s : State} (hk : Kp P s.pending s.mems) :
    Kp P (startCreate q idx e s).pending (startCreate q idx e s).mems := by
  unfold startCreate
  repeat' (first | with_reducible assumption | intro _ | dsimp only | with_reducible refine withRange_keeps ?_ ?_ | with_reducible refine doCreate_keeps ?_ | split)

theorem execVdevCreate_keeps {P : List Instr} {q : QRef} {e : Entry} {s sNext : State} (hx : execVdevCreate q e s = .next sNext) (hk : Kp P s.pending s.mems) :
    Kp P sNext.pending sNext.mems := by
  unfold execVdevCreate at hx
  injection hx with hx
  subst hx
  repeat' (first | with_reducible assumption | intro _ | dsimp only | with_reducible refine offer_keeps ?_ ?_ | with_reducible refine startCreate_keeps ?_ | split)

theorem retireGrant_keeps {P : List Instr} {v : Nat} {s : State} (hk : Kp P s.pending s.mems) :
    Kp P (retireGrant v s).pending (retireGrant v s).mems := by
  unfold retireGrant
  repeat' (first | with_reducible assumption | intro _ | dsimp only | with_reducible refine modFn_keeps ?_ | split)

theorem doDestroy_keeps {P : List Instr} {q : QRef} {idx : Nat} {e : Entry} {s : State} (hk : Kp P s.pending s.mems) :
    Kp P (doDestroy q idx e s).pending (doDestroy q idx e s).mems := by
  unfold doDestroy
  repeat' (first | with_reducible assumption | intro _ | dsimp only | with_reducible refine vdevCause_keeps ?_ | with_reducible refine setVop_keeps ?_ | with_reducible refine retireGrant_keeps ?_ | with_reducible refine resetVdev_keeps ?_ | split)

theorem startDestroy_keeps {P : List Instr} {q : QRef} {idx : Nat} {e : Entry} {s : State} (hk : Kp P s.pending s.mems) :
    Kp P (startDestroy q idx e s).pending (startDestroy q idx e s).mems := by
  unfold startDestroy
  repeat' (first | with_reducible assumption | intro _ | dsimp only | with_reducible refine withRange_keeps ?_ ?_ | with_reducible refine doDestroy_keeps ?_ | split)

theorem execVdevDestroy_keeps {P : List Instr} {q : QRef} {e : Entry} {s sNext : State} (hx : execVdevDestroy q e s = .next sNext) (hk : Kp P s.pending s.mems) :
    Kp P sNext.pending sNext.mems := by
  unfold execVdevDestroy at hx
  injection hx with hx
  subst hx
  repeat' (first | with_reducible assumption | intro _ | dsimp only | with_reducible refine offer_keeps ?_ ?_ | with_reducible refine startDestroy_keeps ?_ | split)

theorem doReset_keeps {P : List Instr} {q : QRef} {idx : Nat} {e : Entry} {s : State} (hk : Kp P s.pending s.mems) :
    Kp P (doReset q idx e s).pending (doReset q idx e s).mems := by
  unfold doReset
  repeat' (first | with_reducible assumption | intro _ | dsimp only | with_reducible refine vdevCause_keeps ?_ | with_reducible refine setVop_keeps ?_ | with_reducible refine resetVdev_keeps ?_ | split)

theorem startReset_keeps {P : List Instr} {q : QRef} {idx : Nat} {e : Entry} {s : State} (hk : Kp P s.pending s.mems) :
    Kp P (startReset q idx e s).pending (startReset q idx e s).mems := by
  unfold startReset
  repeat' (first | with_reducible assumption | intro _ | dsimp only | with_reducible refine withRange_keeps ?_ ?_ | with_reducible refine doReset_keeps ?_ | split)

theorem execVdevReset_keeps {P : List Instr} {q : QRef} {e : Entry} {s sNext : State} (hx : execVdevReset q e s = .next sNext) (hk : Kp P s.pending s.mems) :
    Kp P sNext.pending sNext.mems := by
  unfold execVdevReset at hx
  injection hx with hx
  subst hx
  repeat' (first | with_reducible assumption | intro _ | dsimp only | with_reducible refine offer_keeps ?_ ?_ | with_reducible refine startReset_keeps ?_ | split)

theorem execVdevDrainEnd_keeps {P : List Instr} {vdev : Nat} {s sNext : State} (hx : execVdevDrainEnd vdev s = .next sNext) (hk : Kp P s.pending s.mems) :
    Kp P sNext.pending sNext.mems := by
  unfold execVdevDrainEnd at hx
  injection hx with hx
  subst hx
  repeat' (first | with_reducible assumption | intro _ | dsimp only | with_reducible refine endDrains_keeps ?_ | with_reducible refine putVdev_keeps ?_ | with_reducible refine setVop_keeps ?_ | with_reducible refine modFn_keeps ?_ | split)

theorem execClusterReturn_keeps {P : List Instr} {cluster : Nat} {s sNext : State} (hx : execClusterReturn cluster s = .next sNext) (hk : Kp P s.pending s.mems) :
    Kp P sNext.pending sNext.mems := by
  unfold execClusterReturn at hx
  injection hx with hx
  subst hx
  repeat' (first | with_reducible assumption | intro _ | dsimp only | with_reducible refine foldS_keeps _ _ ?_ ?_ | with_reducible refine memZero_keeps ?_ | with_reducible refine modCore_keeps ?_ | split)

theorem execVfFlr_keeps {P : List Instr} {fn : Nat} {s sNext : State} (hx : execVfFlr fn s = .next sNext) (hk : Kp P s.pending s.mems) :
    Kp P sNext.pending sNext.mems := by
  unfold execVfFlr at hx
  injection hx with hx
  subst hx
  repeat' (first | with_reducible assumption | intro _ | dsimp only | with_reducible refine modFn_keeps ?_ | with_reducible refine endDrains_keeps ?_ | with_reducible refine resetFn_keeps ?_ | split)

theorem execFlrDrainEnd_keeps {P : List Instr} {fn : Nat} {s sNext : State} (hx : execFlrDrainEnd fn s = .next sNext) (hk : Kp P s.pending s.mems) :
    Kp P sNext.pending sNext.mems := by
  unfold execFlrDrainEnd at hx
  injection hx with hx
  subst hx
  repeat' (first | with_reducible assumption | intro _ | dsimp only | with_reducible refine endDrains_keeps ?_ | with_reducible refine modFn_keeps ?_ | split)

theorem doFreeze_keeps {P : List Instr} {q : QRef} {idx : Nat} {e : Entry} {s : State} (hk : Kp P s.pending s.mems) :
    Kp P (doFreeze q idx e s).pending (doFreeze q idx e s).mems := by
  unfold doFreeze
  repeat' (first | with_reducible assumption | intro _ | dsimp only | with_reducible refine vdevCause_keeps ?_ | with_reducible refine modFn_keeps ?_ | with_reducible refine foldS_keeps _ _ ?_ ?_ | with_reducible refine modQueue_keeps ?_ | with_reducible refine killLaunches_keeps ?_ ?_ | with_reducible refine completeAside_keeps ?_ | with_reducible refine abortGroupBy_keeps ?_ ?_ | with_reducible refine setVop_keeps ?_ | split)

theorem startFreeze_keeps {P : List Instr} {q : QRef} {idx : Nat} {e : Entry} {s : State} (hk : Kp P s.pending s.mems) :
    Kp P (startFreeze q idx e s).pending (startFreeze q idx e s).mems := by
  unfold startFreeze
  repeat' (first | with_reducible assumption | intro _ | dsimp only | with_reducible refine withRange_keeps ?_ ?_ | with_reducible refine doFreeze_keeps ?_ | split)

theorem execVdevFreeze_keeps {P : List Instr} {q : QRef} {e : Entry} {s sNext : State} (hx : execVdevFreeze q e s = .next sNext) (hk : Kp P s.pending s.mems) :
    Kp P sNext.pending sNext.mems := by
  unfold execVdevFreeze at hx
  injection hx with hx
  subst hx
  repeat' (first | with_reducible assumption | intro _ | dsimp only | with_reducible refine offer_keeps ?_ ?_ | with_reducible refine startFreeze_keeps ?_ | split)

theorem execVdevFreezeDrainEnd_keeps {P : List Instr} {vdev : Nat} {s sNext : State} (hx : execVdevFreezeDrainEnd vdev s = .next sNext) (hk : Kp P s.pending s.mems) :
    Kp P sNext.pending sNext.mems := by
  unfold execVdevFreezeDrainEnd at hx
  injection hx with hx
  subst hx
  repeat' (first | with_reducible assumption | intro _ | dsimp only | with_reducible refine foldS_keeps _ _ ?_ ?_ | with_reducible refine writeBack_keeps ?_ | with_reducible refine dropQps_keeps ?_ | with_reducible refine releaseHeld_keeps ?_ | with_reducible refine putVdev_keeps ?_ | with_reducible refine setVop_keeps ?_ | split)

theorem cutEnable_keeps {P : List Instr} {s : State} (hk : Kp P s.pending s.mems) :
    Kp P (cutEnable s).pending (cutEnable s).mems := by
  unfold cutEnable
  repeat' (first | with_reducible assumption | intro _ | dsimp only | with_reducible refine modCut_keeps ?_ | split)

theorem cutDisable_keeps {P : List Instr} {s : State} (hk : Kp P s.pending s.mems) :
    Kp P (cutDisable s).pending (cutDisable s).mems := by
  unfold cutDisable
  repeat' (first | with_reducible assumption | intro _ | dsimp only | with_reducible refine modCut_keeps ?_ | with_reducible refine cutOff_keeps ?_ | split)

theorem execCutRuleEnable_keeps {P : List Instr} {value : W32} {s sNext : State} (hx : execCutRuleEnable value s = .next sNext) (hk : Kp P s.pending s.mems) :
    Kp P sNext.pending sNext.mems := by
  unfold execCutRuleEnable at hx
  injection hx with hx
  subst hx
  repeat' (first | with_reducible assumption | intro _ | dsimp only | with_reducible refine cutEnable_keeps ?_ | split)

theorem execCutRuleDisable_keeps {P : List Instr} {value : W32} {s sNext : State} (hx : execCutRuleDisable value s = .next sNext) (hk : Kp P s.pending s.mems) :
    Kp P sNext.pending sNext.mems := by
  unfold execCutRuleDisable at hx
  injection hx with hx
  subst hx
  repeat' (first | with_reducible assumption | intro _ | dsimp only | with_reducible refine cutDisable_keeps ?_ | split)

theorem execPd23PowerOn_keeps {P : List Instr} {s sNext : State} (hx : execPd23PowerOn s = .next sNext) (hk : Kp P s.pending s.mems) :
    Kp P sNext.pending sNext.mems := by
  unfold execPd23PowerOn at hx
  injection hx with hx
  subst hx
  repeat' (first | with_reducible assumption | intro _ | dsimp only | split)

theorem cutFrame_keeps {P : List Instr} {n port : Nat} {good : Bool} {b : List Byte} {s : State} (hk : Kp P s.pending s.mems) :
    Kp P (cutFrame n port good b s).2.pending (cutFrame n port good b s).2.mems := by
  unfold cutFrame
  repeat' (first | with_reducible assumption | intro _ | dsimp only | with_reducible refine askWake_keeps ?_ | with_reducible refine bump_keeps ?_ | with_reducible refine foldS_keeps _ _ ?_ ?_ | with_reducible refine memWrite_keeps ?_ | with_reducible refine modCut_keeps ?_ | with_reducible refine drawn_keeps ?_ | split)

theorem cutFrame_eq {P : List Instr} {n port : Nat} {good : Bool} {b : List Byte} {s u : State} {w} (he : cutFrame n port good b s = (w, u)) (hk : Kp P s.pending s.mems) :
    Kp P u.pending u.mems := by
  have := cutFrame_keeps (n := n) (port := port) (good := good) (b := b) hk; rw [he] at this; exact this

theorem execCutterIncrement_keeps {P : List Instr} {rule slot : Nat} {s sNext : State} (hx : execCutterIncrement rule slot s = .next sNext) (hk : Kp P s.pending s.mems) :
    Kp P sNext.pending sNext.mems := by
  unfold execCutterIncrement at hx
  injection hx with hx
  subst hx
  repeat' (first | with_reducible assumption | intro _ | dsimp only | with_reducible refine modCut_keeps ?_ | with_reducible refine semAdd_keeps ?_ | with_reducible refine bump_keeps ?_ | split)

theorem releaseSlot_keeps {P : List Instr} {rule slot : Nat} {s : State} (hk : Kp P s.pending s.mems) :
    Kp P (releaseSlot rule slot s).pending (releaseSlot rule slot s).mems := by
  unfold releaseSlot
  repeat' (first | with_reducible assumption | intro _ | dsimp only | with_reducible refine modCut_keeps ?_ | split)

theorem pushExpress_keeps {P : List Instr} {port : Nat} {f : TxFrame} {s : State} (hk : Kp P s.pending s.mems) :
    Kp P (pushExpress port f s).pending (pushExpress port f s).mems := by
  unfold pushExpress
  repeat' (first | with_reducible assumption | intro _ | dsimp only | with_reducible refine modPort_keeps ?_ | split)

theorem stampRead_keeps {P : List Instr} {rule : Nat} {s : State} (hk : Kp P s.pending s.mems) :
    Kp P (stampRead rule s).pending (stampRead rule s).mems := by
  unfold stampRead
  repeat' (first | with_reducible assumption | intro _ | dsimp only | with_reducible refine bump_keeps ?_ | with_reducible refine memEvent_keeps ?_ | with_reducible refine releaseSlot_keeps ?_ | with_reducible refine pushExpress_keeps ?_ | split)

theorem execStampReadComplete_keeps {P : List Instr} {rule : Nat} {s sNext : State} (hx : execStampReadComplete rule s = .next sNext) (hk : Kp P s.pending s.mems) :
    Kp P sNext.pending sNext.mems := by
  unfold execStampReadComplete at hx
  injection hx with hx
  subst hx
  repeat' (first | with_reducible assumption | intro _ | dsimp only | with_reducible refine stampRead_keeps ?_ | with_reducible refine modCut_keeps ?_ | split)

theorem execAnswerTimeout_keeps {P : List Instr} {rule slot : Nat} {s sNext : State} (hx : execAnswerTimeout rule slot s = .next sNext) (hk : Kp P s.pending s.mems) :
    Kp P sNext.pending sNext.mems := by
  unfold execAnswerTimeout at hx
  injection hx with hx
  subst hx
  repeat' (first | with_reducible assumption | intro _ | dsimp only | with_reducible refine releaseSlot_keeps ?_ | with_reducible refine bump_keeps ?_ | with_reducible refine advanceTo_keeps ?_ | split)

theorem sendMulticast_keeps {P : List Instr} {q : QRef} {idx : Nat} {e : Entry} {s : State} (hk : Kp P s.pending s.mems) :
    Kp P (sendMulticast q idx e s).pending (sendMulticast q idx e s).mems := by
  unfold sendMulticast
  repeat' (first | with_reducible assumption | intro _ | dsimp only | with_reducible refine modQueue_keeps ?_ | with_reducible refine completeWith_keeps ?_ | with_reducible refine allocCtx_keeps ?_ | with_reducible refine allocCtx_eq (by assumption) ?_ | with_reducible refine queueMsgs_keeps ?_ | split)

theorem startMulticast_keeps {P : List Instr} {q : QRef} {idx : Nat} {e : Entry} {s : State} (hk : Kp P s.pending s.mems) :
    Kp P (startMulticast q idx e s).pending (startMulticast q idx e s).mems := by
  unfold startMulticast
  repeat' (first | with_reducible assumption | intro _ | dsimp only | with_reducible refine complete_keeps ?_ | with_reducible refine sendMulticast_keeps ?_ | split)

theorem execMulticastWrite_keeps {P : List Instr} {q : QRef} {e : Entry} {s sNext : State} (hx : execMulticastWrite q e s = .next sNext) (hk : Kp P s.pending s.mems) :
    Kp P sNext.pending sNext.mems := by
  unfold execMulticastWrite at hx
  injection hx with hx
  subst hx
  repeat' (first | with_reducible assumption | intro _ | dsimp only | with_reducible refine offer_keeps ?_ ?_ | with_reducible refine startMulticast_keeps ?_ | split)

theorem execLineContextReopen_keeps {P : List Instr} {axis : Nat} {s sNext : State} (hx : execLineContextReopen axis s = .next sNext) (hk : Kp P s.pending s.mems) :
    Kp P sNext.pending sNext.mems := by
  unfold execLineContextReopen at hx
  injection hx with hx
  subst hx
  repeat' (first | with_reducible assumption | intro _ | dsimp only | with_reducible refine openLine_keeps ?_ | with_reducible refine bump_keeps ?_ | split)

theorem lineWallCheck_keeps {P : List Instr} {s : State} (hk : Kp P s.pending s.mems) :
    Kp P (lineWallCheck s).pending (lineWallCheck s).mems := by
  unfold lineWallCheck
  repeat' (first | with_reducible assumption | intro _ | dsimp only | with_reducible refine foldS_keeps _ _ ?_ ?_ | with_reducible refine dropMembers_keeps ?_ | split)

theorem execTallyContextAvailable_keeps {P : List Instr} {q : QRef} {idx : Nat} {s sNext : State} (hx : execTallyContextAvailable q idx s = .next sNext) (hk : Kp P s.pending s.mems) :
    Kp P sNext.pending sNext.mems := by
  unfold execTallyContextAvailable at hx
  injection hx with hx
  subst hx
  repeat' (first | with_reducible assumption | intro _ | dsimp only | with_reducible refine sendMulticast_keeps ?_ | with_reducible refine sendEntry_keeps ?_ | split)

theorem execContextWaitGiveUp_keeps {P : List Instr} {q : QRef} {idx : Nat} {s sNext : State} (hx : execContextWaitGiveUp q idx s = .next sNext) (hk : Kp P s.pending s.mems) :
    Kp P sNext.pending sNext.mems := by
  unfold execContextWaitGiveUp at hx
  injection hx with hx
  subst hx
  repeat' (first | with_reducible assumption | intro _ | dsimp only | with_reducible refine complete_keeps ?_ | with_reducible refine advanceTo_keeps ?_ | split)

theorem rxOps_adm {P : List Instr} (r : RxInfo) (p : Packet) (t : State) (v : Verdict) (u : State)
    (he : rxOps.judge r p t = (v, u)) (hk : Kp P t.pending t.mems) : Kp P u.pending u.mems := by
  simp only [rxOps] at he
  split at he
  · exact ringAdmit_eq he hk
  · exact dataAdmit_eq he hk

theorem rxOps_exe {P : List Instr} (r : RxInfo) (p : Packet) (t : State) (hk : Kp P t.pending t.mems) :
    Kp P (rxOps.exec r p t).pending (rxOps.exec r p t).mems := by
  simp only [rxOps]
  split
  · exact ringExec_keeps hk
  · exact dataExec_keeps hk

theorem receiveType_keeps {P : List Instr} {t : PType} {rx : RxInfo} {p : Packet} {s : State} (hk : Kp P s.pending s.mems) :
    Kp P (receiveType t rx p s).pending (receiveType t rx p s).mems := by
  unfold receiveType
  repeat' (first | with_reducible assumption | intro _ | dsimp only | exact rxOps_adm _ _ _ _ _ (by assumption) (by assumption) | exact rxOps_exe _ _ _ (by assumption) | with_reducible refine arrive_keeps ?_ ?_ | with_reducible refine receiveSeq_keeps ?_ ?_ ?_ | split)

theorem execDataReceive_keeps {P : List Instr} {rx : RxInfo} {p : Packet} {s sNext : State} (hx : execDataReceive rx p s = .next sNext) (hk : Kp P s.pending s.mems) :
    Kp P sNext.pending sNext.mems := by
  unfold execDataReceive at hx
  injection hx with hx
  subst hx
  repeat' (first | with_reducible assumption | intro _ | dsimp only | with_reducible refine receiveType_keeps ?_ | split)

theorem execReadRequestReceive_keeps {P : List Instr} {rx : RxInfo} {p : Packet} {s sNext : State} (hx : execReadRequestReceive rx p s = .next sNext) (hk : Kp P s.pending s.mems) :
    Kp P sNext.pending sNext.mems := by
  unfold execReadRequestReceive at hx
  injection hx with hx
  subst hx
  repeat' (first | with_reducible assumption | intro _ | dsimp only | with_reducible refine receiveType_keeps ?_ | split)

theorem execReadResponseReceive_keeps {P : List Instr} {rx : RxInfo} {p : Packet} {s sNext : State} (hx : execReadResponseReceive rx p s = .next sNext) (hk : Kp P s.pending s.mems) :
    Kp P sNext.pending sNext.mems := by
  unfold execReadResponseReceive at hx
  injection hx with hx
  subst hx
  repeat' (first | with_reducible assumption | intro _ | dsimp only | with_reducible refine receiveType_keeps ?_ | split)

theorem execAtomicReceive_keeps {P : List Instr} {rx : RxInfo} {p : Packet} {s sNext : State} (hx : execAtomicReceive rx p s = .next sNext) (hk : Kp P s.pending s.mems) :
    Kp P sNext.pending sNext.mems := by
  unfold execAtomicReceive at hx
  injection hx with hx
  subst hx
  repeat' (first | with_reducible assumption | intro _ | dsimp only | with_reducible refine receiveType_keeps ?_ | split)

theorem execAtomicResponseReceive_keeps {P : List Instr} {rx : RxInfo} {p : Packet} {s sNext : State} (hx : execAtomicResponseReceive rx p s = .next sNext) (hk : Kp P s.pending s.mems) :
    Kp P sNext.pending sNext.mems := by
  unfold execAtomicResponseReceive at hx
  injection hx with hx
  subst hx
  repeat' (first | with_reducible assumption | intro _ | dsimp only | with_reducible refine receiveType_keeps ?_ | split)

theorem execAbortReceive_keeps {P : List Instr} {rx : RxInfo} {p : Packet} {s sNext : State} (hx : execAbortReceive rx p s = .next sNext) (hk : Kp P s.pending s.mems) :
    Kp P sNext.pending sNext.mems := by
  unfold execAbortReceive at hx
  injection hx with hx
  subst hx
  repeat' (first | with_reducible assumption | intro _ | dsimp only | with_reducible refine receiveType_keeps ?_ | split)

theorem execFallbackRingReceive_keeps {P : List Instr} {rx : RxInfo} {p : Packet} {s sNext : State} (hx : execFallbackRingReceive rx p s = .next sNext) (hk : Kp P s.pending s.mems) :
    Kp P sNext.pending sNext.mems := by
  unfold execFallbackRingReceive at hx
  injection hx with hx
  subst hx
  repeat' (first | with_reducible assumption | intro _ | dsimp only | with_reducible refine receiveType_keeps ?_ | split)

theorem execOpeningReceive_keeps {P : List Instr} {rx : RxInfo} {p : Packet} {s sNext : State} (hx : execOpeningReceive rx p s = .next sNext) (hk : Kp P s.pending s.mems) :
    Kp P sNext.pending sNext.mems := by
  unfold execOpeningReceive at hx
  injection hx with hx
  subst hx
  repeat' (first | with_reducible assumption | intro _ | dsimp only | exact rxOps_adm _ _ _ _ _ (by assumption) (by assumption) | exact rxOps_exe _ _ _ (by assumption) | with_reducible refine arrive_keeps ?_ ?_ | with_reducible refine receiveSeq_keeps ?_ ?_ ?_ | split)

theorem execContextFetchComplete_keeps {P : List Instr} {ks : Nat} {peer : W32} {qp : Option Nat} {result : ScrubResult} {s sNext : State} (hx : execContextFetchComplete ks peer qp result s = .next sNext) (hk : Kp P s.pending s.mems) :
    Kp P sNext.pending sNext.mems := by
  unfold execContextFetchComplete at hx
  injection hx with hx
  subst hx
  repeat' (first | with_reducible assumption | intro _ | dsimp only | exact rxOps_adm _ _ _ _ _ (by assumption) (by assumption) | exact rxOps_exe _ _ _ (by assumption) | with_reducible refine fetchDone_keeps ?_ ?_ ?_ | split)

theorem dropFrames_keeps {P : List Instr} {l : List RFrame} {s : State} (hk : Kp P s.pending s.mems) :
    Kp P (dropFrames l s).pending (dropFrames l s).mems := by
  unfold dropFrames
  repeat' (first | with_reducible assumption | intro _ | dsimp only | with_reducible refine foldS_keeps _ _ ?_ ?_ | with_reducible refine freeBuffers_keeps ?_ | split)

theorem breakCircuit_keeps {P : List Instr} {k : Circuit} {s : State} (hk : Kp P s.pending s.mems) :
    Kp P (breakCircuit k s).pending (breakCircuit k s).mems := by
  unfold breakCircuit
  repeat' (first | with_reducible assumption | intro _ | dsimp only | with_reducible refine dropFrames_keeps ?_ | with_reducible refine bump_keeps ?_ | with_reducible refine completeOk_keeps ?_ | with_reducible refine putResult_keeps ?_ | split)

theorem circuitCheck_keeps {P : List Instr} {s : State} (hk : Kp P s.pending s.mems) :
    Kp P (circuitCheck s).pending (circuitCheck s).mems := by
  unfold circuitCheck
  repeat' (first | with_reducible assumption | intro _ | dsimp only | with_reducible refine foldS_keeps _ _ ?_ ?_ | with_reducible refine breakCircuit_keeps ?_ | split)

theorem wallChanged_keeps {P : List Instr} {s : State} (hk : Kp P s.pending s.mems) :
    Kp P (wallChanged s).pending (wallChanged s).mems := by
  unfold wallChanged
  repeat' (first | with_reducible assumption | intro _ | dsimp only | with_reducible refine circuitCheck_keeps ?_ | with_reducible refine lineWallCheck_keeps ?_ | with_reducible refine collWallCheck_keeps ?_ | split)

theorem fencesDone_keeps {P : List Instr} {s : State} (hk : Kp P s.pending s.mems) :
    Kp P (fencesDone s).pending (fencesDone s).mems := by
  unfold fencesDone
  repeat' (first | with_reducible assumption | intro _ | dsimp only | with_reducible refine foldS_keeps _ _ ?_ ?_ | with_reducible refine completeOk_keeps ?_ | split)

theorem bondDown_keeps {P : List Instr} {link : Nat} {s : State} (hk : Kp P s.pending s.mems) :
    Kp P (bondDown link s).pending (bondDown link s).mems := by
  unfold bondDown
  repeat' (first | with_reducible assumption | intro _ | dsimp only | with_reducible refine modLink_keeps ?_ | with_reducible refine dropFrames_keeps ?_ | with_reducible refine logFault_keeps ?_ | with_reducible refine raiseEvent_keeps ?_ | with_reducible refine bump_keeps ?_ | with_reducible refine fencesDone_keeps ?_ | with_reducible refine wallChanged_keeps ?_ | with_reducible refine announceNow_keeps ?_ | split)

theorem bondUp_keeps {P : List Instr} {link : Nat} {s : State} (hk : Kp P s.pending s.mems) :
    Kp P (bondUp link s).pending (bondUp link s).mems := by
  unfold bondUp
  repeat' (first | with_reducible assumption | intro _ | dsimp only | with_reducible refine wallChanged_keeps ?_ | with_reducible refine announceNow_keeps ?_ | with_reducible refine modLink_keeps ?_ | split)

theorem holdLink_keeps {P : List Instr} {link : Nat} {s : State} (hk : Kp P s.pending s.mems) :
    Kp P (holdLink link s).pending (holdLink link s).mems := by
  unfold holdLink
  repeat' (first | with_reducible assumption | intro _ | dsimp only | with_reducible refine bondDown_keeps ?_ | with_reducible refine modLink_keeps ?_ | with_reducible refine bump_keeps ?_ | split)

theorem takePosition_keeps {P : List Instr} {x y wall sx sy : Nat} {s : State} (hk : Kp P s.pending s.mems) :
    Kp P (takePosition x y wall sx sy s).pending (takePosition x y wall sx sy s).mems := by
  unfold takePosition
  repeat' (first | with_reducible assumption | intro _ | dsimp only | with_reducible refine foldS_keeps _ _ ?_ ?_ | with_reducible refine holdLink_keeps ?_ | with_reducible refine bondDown_keeps ?_ | with_reducible refine wallChanged_keeps ?_ | with_reducible refine announceNow_keeps ?_ | split)

theorem discover_keeps {P : List Instr} {link : Nat} {i : IdleFlit} {s : State} (hk : Kp P s.pending s.mems) :
    Kp P (discover link i s).pending (discover link i s).mems := by
  unfold discover
  repeat' (first | with_reducible assumption | intro _ | dsimp only | with_reducible refine takePosition_keeps ?_ | split)

theorem idleIn_keeps {P : List Instr} {link : Nat} {i : IdleFlit} {s : State} (hk : Kp P s.pending s.mems) :
    Kp P (idleIn link i s).pending (idleIn link i s).mems := by
  unfold idleIn
  repeat' (first | with_reducible assumption | intro _ | dsimp only | with_reducible refine modLink_keeps ?_ | with_reducible refine holdLink_keeps ?_ | with_reducible refine discover_keeps ?_ | with_reducible refine bondUp_keeps ?_ | with_reducible refine bondDown_keeps ?_ | split)

theorem execIdleFlitReceive_keeps {P : List Instr} {link : Nat} {bytes : List Byte} {s sNext : State} (hx : execIdleFlitReceive link bytes s = .next sNext) (hk : Kp P s.pending s.mems) :
    Kp P sNext.pending sNext.mems := by
  unfold execIdleFlitReceive at hx
  injection hx with hx
  subst hx
  repeat' (first | with_reducible assumption | intro _ | dsimp only | with_reducible refine idleIn_keeps ?_ | split)

theorem execIdleFlitSend_keeps {P : List Instr} {link : Nat} {s sNext : State} (hx : execIdleFlitSend link s = .next sNext) (hk : Kp P s.pending s.mems) :
    Kp P sNext.pending sNext.mems := by
  unfold execIdleFlitSend at hx
  injection hx with hx
  subst hx
  repeat' (first | with_reducible assumption | intro _ | dsimp only | with_reducible refine outEmit_keeps ?_ | with_reducible refine modLink_keeps ?_ | split)

theorem execBondIdleTimeout_keeps {P : List Instr} {link : Nat} {s sNext : State} (hx : execBondIdleTimeout link s = .next sNext) (hk : Kp P s.pending s.mems) :
    Kp P sNext.pending sNext.mems := by
  unfold execBondIdleTimeout at hx
  injection hx with hx
  subst hx
  repeat' (first | with_reducible assumption | intro _ | dsimp only | with_reducible refine bondDown_keeps ?_ | with_reducible refine advanceTo_keeps ?_ | split)

theorem execBondFecErrorLimit_keeps {P : List Instr} {loss : LinkLoss} {s sNext : State} (hx : execBondFecErrorLimit loss s = .next sNext) (hk : Kp P s.pending s.mems) :
    Kp P sNext.pending sNext.mems := by
  unfold execBondFecErrorLimit at hx
  injection hx with hx
  subst hx
  repeat' (first | with_reducible assumption | intro _ | dsimp only | with_reducible refine bondDown_keeps ?_ | with_reducible refine bump_keeps ?_ | split)

theorem execBondLinkTrained_keeps {P : List Instr} {link : Nat} {s sNext : State} (hx : execBondLinkTrained link s = .next sNext) (hk : Kp P s.pending s.mems) :
    Kp P sNext.pending sNext.mems := by
  unfold execBondLinkTrained at hx
  injection hx with hx
  subst hx
  repeat' (first | with_reducible assumption | intro _ | dsimp only | with_reducible refine modLink_keeps ?_ | split)

theorem execBondGoingDownExpiry_keeps {P : List Instr} {link : Nat} {s sNext : State} (hx : execBondGoingDownExpiry link s = .next sNext) (hk : Kp P s.pending s.mems) :
    Kp P sNext.pending sNext.mems := by
  unfold execBondGoingDownExpiry at hx
  injection hx with hx
  subst hx
  repeat' (first | with_reducible assumption | intro _ | dsimp only | with_reducible refine bondDown_keeps ?_ | split)

theorem bondEnable_keeps {P : List Instr} {link value : Nat} {s : State} (hk : Kp P s.pending s.mems) :
    Kp P (bondEnable link value s).pending (bondEnable link value s).mems := by
  unfold bondEnable
  repeat' (first | with_reducible assumption | intro _ | dsimp only | with_reducible refine wallChanged_keeps ?_ | with_reducible refine modLink_keeps ?_ | with_reducible refine bondDown_keeps ?_ | split)

theorem execBondEnableWrite_keeps {P : List Instr} {link value : Nat} {s sNext : State} (hx : execBondEnableWrite link value s = .next sNext) (hk : Kp P s.pending s.mems) :
    Kp P sNext.pending sNext.mems := by
  unfold execBondEnableWrite at hx
  injection hx with hx
  subst hx
  repeat' (first | with_reducible assumption | intro _ | dsimp only | with_reducible refine bondEnable_keeps ?_ | with_reducible refine ledCommit_keeps ?_ | split)

theorem announceIn_keeps {P : List Instr} {link : Nat} {a : Announce} {s : State} (hk : Kp P s.pending s.mems) :
    Kp P (announceIn link a s).pending (announceIn link a s).mems := by
  unfold announceIn
  repeat' (first | with_reducible assumption | intro _ | dsimp only | with_reducible refine wallChanged_keeps ?_ | with_reducible refine flood_keeps ?_ | split)

theorem execAnnouncementReceive_keeps {P : List Instr} {link : Nat} {bytes : List Byte} {s sNext : State} (hx : execAnnouncementReceive link bytes s = .next sNext) (hk : Kp P s.pending s.mems) :
    Kp P sNext.pending sNext.mems := by
  unfold execAnnouncementReceive at hx
  injection hx with hx
  subst hx
  repeat' (first | with_reducible assumption | intro _ | dsimp only | with_reducible refine announceIn_keeps ?_ | split)

theorem execAnnouncePeriodic_keeps {P : List Instr} {s sNext : State} (hx : execAnnouncePeriodic s = .next sNext) (hk : Kp P s.pending s.mems) :
    Kp P sNext.pending sNext.mems := by
  unfold execAnnouncePeriodic at hx
  injection hx with hx
  subst hx
  repeat' (first | with_reducible assumption | intro _ | dsimp only | with_reducible refine announceNow_keeps ?_ | split)

theorem execAnnouncementStale_keeps {P : List Instr} {peer : W32} {s sNext : State} (hx : execAnnouncementStale peer s = .next sNext) (hk : Kp P s.pending s.mems) :
    Kp P sNext.pending sNext.mems := by
  unfold execAnnouncementStale at hx
  injection hx with hx
  subst hx
  repeat' (first | with_reducible assumption | intro _ | dsimp only | with_reducible refine wallChanged_keeps ?_ | with_reducible refine advanceTo_keeps ?_ | split)

theorem reserveCircuit_keeps {P : List Instr} {c : CircuitCtl} {inLink : Option Nat} {s : State} (hk : Kp P s.pending s.mems) :
    Kp P (reserveCircuit c inLink s).2.pending (reserveCircuit c inLink s).2.mems := by
  unfold reserveCircuit
  repeat' (first | with_reducible assumption | intro _ | dsimp only | with_reducible refine pushHop_keeps ?_ | split)

theorem reserveCircuit_eq {P : List Instr} {c : CircuitCtl} {inLink : Option Nat} {s u : State} {w} (he : reserveCircuit c inLink s = (w, u)) (hk : Kp P s.pending s.mems) :
    Kp P u.pending u.mems := by
  have := reserveCircuit_keeps (c := c) (inLink := inLink) hk; rw [he] at this; exact this

theorem sendCircuit_keeps {P : List Instr} {c : CircuitCtl} {link : Nat} {s : State} (hk : Kp P s.pending s.mems) :
    Kp P (sendCircuit c link s).pending (sendCircuit c link s).mems := by
  unfold sendCircuit
  repeat' (first | with_reducible assumption | intro _ | dsimp only | with_reducible refine pushHop_keeps ?_ | split)

theorem startCircuitLay_keeps {P : List Instr} {q : QRef} {idx : Nat} {e : Entry} {s : State} (hk : Kp P s.pending s.mems) :
    Kp P (startCircuitLay q idx e s).pending (startCircuitLay q idx e s).mems := by
  unfold startCircuitLay
  repeat' (first | with_reducible assumption | intro _ | dsimp only | with_reducible refine withRange_keeps ?_ ?_ | with_reducible refine putResult_keeps ?_ | with_reducible refine reserveCircuit_keeps ?_ | with_reducible refine reserveCircuit_eq (by assumption) ?_ | split)

theorem execCircuitLay_keeps {P : List Instr} {q : QRef} {e : Entry} {s sNext : State} (hx : execCircuitLay q e s = .next sNext) (hk : Kp P s.pending s.mems) :
    Kp P sNext.pending sNext.mems := by
  unfold execCircuitLay at hx
  injection hx with hx
  subst hx
  repeat' (first | with_reducible assumption | intro _ | dsimp only | with_reducible refine offer_keeps ?_ ?_ | with_reducible refine startCircuitLay_keeps ?_ | split)

theorem modCircuit_keeps {P : List Instr} {k : Circuit} {f : Circuit → Circuit} {s : State} (hk : Kp P s.pending s.mems) :
    Kp P (modCircuit k f s).pending (modCircuit k f s).mems := by
  unfold modCircuit
  repeat' (first | with_reducible assumption | intro _ | dsimp only | split)

theorem delCircuit_keeps {P : List Instr} {k : Circuit} {s : State} (hk : Kp P s.pending s.mems) :
    Kp P (delCircuit k s).pending (delCircuit k s).mems := by
  unfold delCircuit
  repeat' (first | with_reducible assumption | intro _ | dsimp only | split)

theorem liftOn_keeps {P : List Instr} {k : Circuit} {s : State} (hk : Kp P s.pending s.mems) :
    Kp P (liftOn k s).pending (liftOn k s).mems := by
  unfold liftOn
  repeat' (first | with_reducible assumption | intro _ | dsimp only | with_reducible refine sendCircuit_keeps ?_ | with_reducible refine modCircuit_keeps ?_ | split)

theorem layAnswer_keeps {P : List Instr} {c : CircuitCtl} {s : State} (hk : Kp P s.pending s.mems) :
    Kp P (layAnswer c s).pending (layAnswer c s).mems := by
  unfold layAnswer
  repeat' (first | with_reducible assumption | intro _ | dsimp only | with_reducible refine putResult_keeps ?_ | split)

theorem liftAnswer_keeps {P : List Instr} {c : CircuitCtl} {s : State} (hk : Kp P s.pending s.mems) :
    Kp P (liftAnswer c s).pending (liftAnswer c s).mems := by
  unfold liftAnswer
  repeat' (first | with_reducible assumption | intro _ | dsimp only | with_reducible refine completeOk_keeps ?_ | split)

theorem circuitIn_keeps {P : List Instr} {link : Nat} {c : CircuitCtl} {s : State} (hk : Kp P s.pending s.mems) :
    Kp P (circuitIn link c s).pending (circuitIn link c s).mems := by
  unfold circuitIn
  repeat' (first | with_reducible assumption | intro _ | dsimp only | with_reducible refine sendCircuit_keeps ?_ | with_reducible refine reserveCircuit_keeps ?_ | with_reducible refine reserveCircuit_eq (by assumption) ?_ | with_reducible refine delCircuit_keeps ?_ | with_reducible refine modCircuit_keeps ?_ | with_reducible refine liftOn_keeps ?_ | split)

theorem execCircuitControlReceive_keeps {P : List Instr} {link : Nat} {c : CircuitCtl} {s sNext : State} (hx : execCircuitControlReceive link c s = .next sNext) (hk : Kp P s.pending s.mems) :
    Kp P sNext.pending sNext.mems := by
  unfold execCircuitControlReceive at hx
  injection hx with hx
  subst hx
  repeat' (first | with_reducible assumption | intro _ | dsimp only | with_reducible refine circuitIn_keeps ?_ | split)

theorem execCircuitLayAnswer_keeps {P : List Instr} {link : Nat} {c : CircuitCtl} {s sNext : State} (hx : execCircuitLayAnswer link c s = .next sNext) (hk : Kp P s.pending s.mems) :
    Kp P sNext.pending sNext.mems := by
  unfold execCircuitLayAnswer at hx
  injection hx with hx
  subst hx
  repeat' (first | with_reducible assumption | intro _ | dsimp only | with_reducible refine layAnswer_keeps ?_ | split)

theorem startCircuitLift_keeps {P : List Instr} {q : QRef} {idx : Nat} {e : Entry} {s : State} (hk : Kp P s.pending s.mems) :
    Kp P (startCircuitLift q idx e s).pending (startCircuitLift q idx e s).mems := by
  unfold startCircuitLift
  repeat' (first | with_reducible assumption | intro _ | dsimp only | with_reducible refine completeOk_keeps ?_ | with_reducible refine liftOn_keeps ?_ | with_reducible refine modCircuit_keeps ?_ | split)

theorem execCircuitLift_keeps {P : List Instr} {q : QRef} {e : Entry} {s sNext : State} (hx : execCircuitLift q e s = .next sNext) (hk : Kp P s.pending s.mems) :
    Kp P sNext.pending sNext.mems := by
  unfold execCircuitLift at hx
  injection hx with hx
  subst hx
  repeat' (first | with_reducible assumption | intro _ | dsimp only | with_reducible refine offer_keeps ?_ ?_ | with_reducible refine startCircuitLift_keeps ?_ | split)

theorem execCircuitLiftAnswer_keeps {P : List Instr} {link : Nat} {c : CircuitCtl} {s sNext : State} (hx : execCircuitLiftAnswer link c s = .next sNext) (hk : Kp P s.pending s.mems) :
    Kp P sNext.pending sNext.mems := by
  unfold execCircuitLiftAnswer at hx
  injection hx with hx
  subst hx
  repeat' (first | with_reducible assumption | intro _ | dsimp only | with_reducible refine liftAnswer_keeps ?_ | split)

theorem startModuleFence_keeps {P : List Instr} {on : Bool} {q : QRef} {idx : Nat} {x3 : Entry} {s : State} (hk : Kp P s.pending s.mems) :
    Kp P (startModuleFence on q idx x3 s).pending (startModuleFence on q idx x3 s).mems := by
  unfold startModuleFence
  repeat' (first | with_reducible assumption | intro _ | dsimp only | with_reducible refine fencesDone_keeps ?_ | with_reducible refine wallChanged_keeps ?_ | with_reducible refine announceNow_keeps ?_ | split)

theorem execFenceModule_keeps {P : List Instr} {q : QRef} {e : Entry} {s sNext : State} (hx : execFenceModule q e s = .next sNext) (hk : Kp P s.pending s.mems) :
    Kp P sNext.pending sNext.mems := by
  unfold execFenceModule at hx
  injection hx with hx
  subst hx
  repeat' (first | with_reducible assumption | intro _ | dsimp only | with_reducible refine offer_keeps ?_ ?_ | with_reducible refine startModuleFence_keeps ?_ | split)

theorem execUnfenceModule_keeps {P : List Instr} {q : QRef} {e : Entry} {s sNext : State} (hx : execUnfenceModule q e s = .next sNext) (hk : Kp P s.pending s.mems) :
    Kp P sNext.pending sNext.mems := by
  unfold execUnfenceModule at hx
  injection hx with hx
  subst hx
  repeat' (first | with_reducible assumption | intro _ | dsimp only | with_reducible refine offer_keeps ?_ ?_ | with_reducible refine startModuleFence_keeps ?_ | split)

theorem toInternal_keeps {P : List Instr} {link : Nat} {mark : Bool} {p : Packet} {s : State} (hk : Kp P s.pending s.mems) :
    Kp P (toInternal link mark p s).pending (toInternal link mark p s).mems := by
  unfold toInternal
  repeat' (first | with_reducible assumption | intro _ | dsimp only | split)

theorem branchIn_keeps {P : List Instr} {link : Nat} {f : BondFrame} {deliver : State → State} {seq : Bool} {bytes cls : Nat} {s : State}
    (hd : ∀ t : State, Kp P t.pending t.mems → Kp P (deliver t).pending (deliver t).mems) (hk : Kp P s.pending s.mems) :
    Kp P (branchIn link f deliver seq bytes cls s).pending (branchIn link f deliver seq bytes cls s).mems := by
  unfold branchIn
  repeat' (first | with_reducible assumption | intro _ | dsimp only | with_reducible refine hd _ ?_ | with_reducible refine freeBuffers_keeps ?_ | with_reducible refine bump_keeps ?_ | with_reducible refine pushFrame_keeps ?_ | split)

theorem carryIn_keeps {P : List Instr} {link : Nat} {f : BondFrame} {deliver : State → State} {hop seq : Bool} {s : State}
    (hd : ∀ t : State, Kp P t.pending t.mems → Kp P (deliver t).pending (deliver t).mems) (hk : Kp P s.pending s.mems) :
    Kp P (carryIn link f deliver hop seq s).pending (carryIn link f deliver hop seq s).mems := by
  unfold carryIn
  repeat' (first | with_reducible assumption | intro _ | dsimp only | with_reducible refine hd _ ?_ | with_reducible refine freeBuffers_keeps ?_ | with_reducible refine branchIn_keeps hd ?_ | with_reducible refine bump_keeps ?_ | with_reducible refine pushFrame_keeps ?_ | split)

theorem packetIn_keeps {P : List Instr} {link : Nat} {f : BondFrame} {p : Packet} {s : State} (hk : Kp P s.pending s.mems) :
    Kp P (packetIn link f p s).pending (packetIn link f p s).mems := by
  unfold packetIn
  exact carryIn_keeps (fun _ h => toInternal_keeps h) hk

theorem goodIn_keeps {P : List Instr} {link : Nat} {f : BondFrame} {s : State} (hk : Kp P s.pending s.mems) :
    Kp P (goodIn link f s).pending (goodIn link f s).mems := by
  unfold goodIn
  repeat' (first | with_reducible assumption | intro _ | dsimp only | with_reducible refine freeBuffers_keeps ?_ | with_reducible refine bump_keeps ?_ | with_reducible refine announceIn_keeps ?_ | with_reducible refine layAnswer_keeps ?_ | with_reducible refine liftAnswer_keeps ?_ | with_reducible refine circuitIn_keeps ?_ | with_reducible refine packetIn_keeps ?_ | with_reducible refine malformed_keeps ?_ | with_reducible refine carryIn_keeps ?_ ?_ | split)

theorem markLeaving_keeps {P : List Instr} {link : Nat} {r : RFrame} {f : BondFrame} {s : State} (hk : Kp P s.pending s.mems) :
    Kp P (markLeaving link r f s).2.pending (markLeaving link r f s).2.mems := by
  unfold markLeaving
  repeat' (first | with_reducible assumption | intro _ | dsimp only | with_reducible refine markFrame_keeps ?_ | with_reducible refine markFrame_eq (by assumption) ?_ | split)

theorem markLeaving_eq {P : List Instr} {link : Nat} {r : RFrame} {f : BondFrame} {s u : State} {w} (he : markLeaving link r f s = (w, u)) (hk : Kp P s.pending s.mems) :
    Kp P u.pending u.mems := by
  have := markLeaving_keeps (link := link) (r := r) (f := f) hk; rw [he] at this; exact this

theorem leaveFrame_keeps {P : List Instr} {link : Nat} {r : RFrame} {f : BondFrame} {escape stomp : Bool} {s : State} (hk : Kp P s.pending s.mems) :
    Kp P (leaveFrame link r f escape stomp s).pending (leaveFrame link r f escape stomp s).mems := by
  unfold leaveFrame
  repeat' (first | with_reducible assumption | intro _ | dsimp only | with_reducible refine markLeaving_keeps ?_ | with_reducible refine markLeaving_eq (by assumption) ?_ | with_reducible refine spendCredit_keeps ?_ | with_reducible refine freeBuffers_keeps ?_ | with_reducible refine bump_keeps ?_ | with_reducible refine modLink_keeps ?_ | with_reducible refine outEmit_keeps ?_ | with_reducible refine foldS_keeps _ _ ?_ ?_ | with_reducible refine liftOn_keeps ?_ | with_reducible refine fencesDone_keeps ?_ | split)

theorem homeFrame_keeps {P : List Instr} {r : RFrame} {s : State} (hk : Kp P s.pending s.mems) :
    Kp P (homeFrame r s).pending (homeFrame r s).mems := by
  unfold homeFrame
  repeat' (first | with_reducible assumption | intro _ | dsimp only | with_reducible refine packetIn_keeps ?_ | with_reducible refine dropFrames_keeps ?_ | split)

theorem sendScan_keeps {P : List Instr} {link vc : Nat} {v0 : List RFrame} {s : State} (hk : Kp P s.pending s.mems) :
    Kp P (sendScan link vc v0 s).pending (sendScan link vc v0 s).mems := by
  induction v0 generalizing s with
  | nil => unfold sendScan; repeat' (first | with_reducible assumption | intro _ | dsimp only | with_reducible refine dropFrames_keeps ?_ | with_reducible refine bump_keeps ?_ | with_reducible refine homeFrame_keeps ?_ | with_reducible refine leaveFrame_keeps ?_ | split)
  | cons x v0 ih => unfold sendScan; repeat' (first | with_reducible assumption | intro _ | dsimp only | with_reducible refine ih ?_ | with_reducible refine dropFrames_keeps ?_ | with_reducible refine bump_keeps ?_ | with_reducible refine homeFrame_keeps ?_ | with_reducible refine leaveFrame_keeps ?_ | split)

theorem execBondFrameSend_keeps {P : List Instr} {link vc : Nat} {s sNext : State} (hx : execBondFrameSend link vc s = .next sNext) (hk : Kp P s.pending s.mems) :
    Kp P sNext.pending sNext.mems := by
  unfold execBondFrameSend at hx
  injection hx with hx
  subst hx
  repeat' (first | with_reducible assumption | intro _ | dsimp only | with_reducible refine sendScan_keeps ?_ | split)

theorem stompOn_some {P : List Instr} {link : Nat} {f : BondFrame} {s t : State} (he : stompOn link f s = some t)
    (hk : Kp P s.pending s.mems) : Kp P t.pending t.mems := by
  unfold stompOn at he
  dsimp only at he
  split at he
  · rw [Option.map_eq_some_iff] at he
    obtain ⟨o, _, rfl⟩ := he
    exact leaveFrame_keeps (carryIn_keeps (fun _ h => h) hk)
  · cases he

theorem failIn_keeps {P : List Instr} {link : Nat} {f : BondFrame} {begun stomped : Bool} {s : State} (hk : Kp P s.pending s.mems) :
    Kp P (failIn link f begun stomped s).pending (failIn link f begun stomped s).mems := by
  unfold failIn
  repeat' (first | with_reducible assumption | intro _ | dsimp only | exact stompOn_some (by assumption) (by assumption) | (rename_i he; split at he) | contradiction | with_reducible refine bump_keeps ?_ | with_reducible refine stompOn_eq (by assumption) ?_ | with_reducible refine freeBuffers_keeps ?_ | split)

theorem frameIn_keeps {P : List Instr} {link : Nat} {f : BondFrame} {fate : FrameFate} {begun : Bool} {s : State} (hk : Kp P s.pending s.mems) :
    Kp P (frameIn link f fate begun s).pending (frameIn link f fate begun s).mems := by
  unfold frameIn
  repeat' (first | with_reducible assumption | intro _ | dsimp only | with_reducible refine bump_keeps ?_ | with_reducible refine failIn_keeps ?_ | with_reducible refine goodIn_keeps ?_ | split)

theorem execBondFrameReceive_keeps {P : List Instr} {link : Nat} {f : WireFrame} {way : Transit} {s sNext : State} (hx : execBondFrameReceive link f way s = .next sNext) (hk : Kp P s.pending s.mems) :
    Kp P sNext.pending sNext.mems := by
  unfold execBondFrameReceive at hx
  injection hx with hx
  subst hx
  repeat' (first | with_reducible assumption | intro _ | dsimp only | with_reducible refine bump_keeps ?_ | with_reducible refine modLink_keeps ?_ | with_reducible refine frameIn_keeps ?_ | split)

theorem execShaperTick_keeps {P : List Instr} {s sNext : State} (hx : execShaperTick s = .next sNext) (hk : Kp P s.pending s.mems) :
    Kp P sNext.pending sNext.mems := by
  unfold execShaperTick at hx
  injection hx with hx
  subst hx
  repeat' (first | with_reducible assumption | intro _ | dsimp only | with_reducible refine advanceTo_keeps ?_ | split)

theorem sampleOne_keeps {P : List Instr} {fn : Nat} {skip : Bool} {k : Nat × Nat} {s : State} (hk : Kp P s.pending s.mems) :
    Kp P (sampleOne fn skip k s).pending (sampleOne fn skip k s).mems := by
  unfold sampleOne
  repeat' (first | with_reducible assumption | intro _ | dsimp only | with_reducible refine modFn_keeps ?_ | with_reducible refine bump_keeps ?_ | with_reducible refine ringStore_keeps ?_ | split)

theorem execTelemetrySample_keeps {P : List Instr} {fn : Nat} {s sNext : State} (hx : execTelemetrySample fn s = .next sNext) (hk : Kp P s.pending s.mems) :
    Kp P sNext.pending sNext.mems := by
  unfold execTelemetrySample at hx
  injection hx with hx
  subst hx
  repeat' (first | with_reducible assumption | intro _ | dsimp only | with_reducible refine advanceTo_keeps ?_ | with_reducible refine foldS_keeps _ _ ?_ ?_ | with_reducible refine sampleOne_keeps ?_ | with_reducible refine modFn_keeps ?_ | split)

theorem doSave_keeps {P : List Instr} {q : QRef} {idx : Nat} {e : Entry} {s : State} (hk : Kp P s.pending s.mems) :
    Kp P (doSave q idx e s).pending (doSave q idx e s).mems := by
  unfold doSave
  repeat' (first | with_reducible assumption | intro _ | dsimp only | with_reducible refine vdevCause_keeps ?_ | with_reducible refine putVdev_keeps ?_ | with_reducible refine setVop_keeps ?_ | split)

theorem startSave_keeps {P : List Instr} {q : QRef} {idx : Nat} {e : Entry} {s : State} (hk : Kp P s.pending s.mems) :
    Kp P (startSave q idx e s).pending (startSave q idx e s).mems := by
  unfold startSave
  repeat' (first | with_reducible assumption | intro _ | dsimp only | with_reducible refine withRange_keeps ?_ ?_ | with_reducible refine doSave_keeps ?_ | split)

theorem execVdevSave_keeps {P : List Instr} {q : QRef} {e : Entry} {s sNext : State} (hx : execVdevSave q e s = .next sNext) (hk : Kp P s.pending s.mems) :
    Kp P sNext.pending sNext.mems := by
  unfold execVdevSave at hx
  injection hx with hx
  subst hx
  repeat' (first | with_reducible assumption | intro _ | dsimp only | with_reducible refine offer_keeps ?_ ?_ | with_reducible refine startSave_keeps ?_ | split)

theorem execVdevSaveComplete_keeps {P : List Instr} {vdev : Nat} {s sNext : State} (hx : execVdevSaveComplete vdev s = .next sNext) (hk : Kp P s.pending s.mems) :
    Kp P sNext.pending sNext.mems := by
  unfold execVdevSaveComplete at hx
  injection hx with hx
  subst hx
  repeat' (first | with_reducible assumption | intro _ | dsimp only | with_reducible refine setVop_keeps ?_ | with_reducible refine vdevCause_keeps ?_ | with_reducible refine putVdev_keeps ?_ | with_reducible refine writeAny_keeps ?_ | split)

theorem restoreQueues_keeps {P : List Instr} {v : Nat} {b : List Byte} {hostSame : Bool} {m : List (W32 × W32)} {s : State} (hk : Kp P s.pending s.mems) :
    Kp P (restoreQueues v b hostSame m s).pending (restoreQueues v b hostSame m s).mems := by
  unfold restoreQueues
  repeat' (first | with_reducible assumption | intro _ | dsimp only | with_reducible refine modFn_keeps ?_ | with_reducible refine foldS_keeps _ _ ?_ ?_ | with_reducible refine cacheQp_keeps ?_ | split)

theorem restoreCounters_keeps {P : List Instr} {v : Nat} {b : List Byte} {s : State} (hk : Kp P s.pending s.mems) :
    Kp P (restoreCounters v b s).pending (restoreCounters v b s).mems := by
  unfold restoreCounters
  repeat' (first | with_reducible assumption | intro _ | dsimp only | with_reducible refine modFn_keeps ?_ | split)

theorem restoreSegment_keeps {P : List Instr} {v : Nat} {b : List Byte} {hostSame : Bool} {i : Nat} {s : State} (hk : Kp P s.pending s.mems) :
    Kp P (restoreSegment v b hostSame i s).pending (restoreSegment v b hostSame i s).mems := by
  unfold restoreSegment
  repeat' (first | with_reducible assumption | intro _ | dsimp only | with_reducible refine modSeg_keeps ?_ | with_reducible refine enableSeg_keeps ?_ | split)

theorem restoreSegments_keeps {P : List Instr} {v : Nat} {b : List Byte} {hostSame : Bool} {s : State} (hk : Kp P s.pending s.mems) :
    Kp P (restoreSegments v b hostSame s).pending (restoreSegments v b hostSame s).mems := by
  unfold restoreSegments
  repeat' (first | with_reducible assumption | intro _ | dsimp only | with_reducible refine foldS_keeps _ _ ?_ ?_ | with_reducible refine restoreSegment_keeps ?_ | split)

theorem placeKey_eq {P : List Instr} {v : Nat} {d : List Byte} {tier base : Nat} {pinned : Option (Nat × Nat × Nat)}
    {s u : State} (he : placeKey v d s = some (tier, base, pinned, u)) (hk : Kp P s.pending s.mems) :
    Kp P u.pending u.mems := by
  unfold placeKey at he
  dsimp only at he
  split at he
  · cases hc : (coresOf s v)[df d 6 2]? <;> rw [hc] at he <;> cases he
    exact hk
  · split at he
    · cases he
    · split at he
      · cases he; exact hk
      · split at he
        · cases he
        · rw [Option.map_eq_some_iff] at he
          obtain ⟨⟨a, w⟩, hp, hw⟩ := he
          cases hw
          exact pinRun_eq hp hk

theorem foldl_snd_keeps {P : List Instr} {α β : Type} {f : β × State → α → β × State} (l : List α) (acc : β × State)
    (hf : ∀ acc i, Kp P acc.2.pending acc.2.mems → Kp P (f acc i).2.pending (f acc i).2.mems)
    (h : Kp P acc.2.pending acc.2.mems) : Kp P (l.foldl f acc).2.pending (l.foldl f acc).2.mems := by
  induction l generalizing acc with
  | nil => exact h
  | cons i l ih => exact ih _ (hf acc i h)

theorem restoreKeys_keeps {P : List Instr} {v : Nat} {b : List Byte} {s : State} (hk : Kp P s.pending s.mems) :
    Kp P (restoreKeys v b s).2.pending (restoreKeys v b s).2.mems := by
  unfold restoreKeys
  refine foldl_snd_keeps _ _ ?_ hk
  intro acc i h
  dsimp only
  split
  · exact h
  · split
    · exact h
    · with_reducible refine setKey_keeps ?_
      exact allocKey_eq (by assumption) (placeKey_eq (by assumption) h)

theorem restoreKeys_eq {P : List Instr} {v : Nat} {b : List Byte} {s u : State} {w} (he : restoreKeys v b s = (w, u))
    (hk : Kp P s.pending s.mems) : Kp P u.pending u.mems := by
  have := restoreKeys_keeps (v := v) (b := b) hk; rw [he] at this; exact this

theorem restoreBindings_keeps {P : List Instr} {v : Nat} {b : List Byte} {m : List (W32 × W32)} {s : State} (hk : Kp P s.pending s.mems) :
    Kp P (restoreBindings v b m s).pending (restoreBindings v b m s).mems := by
  unfold restoreBindings
  repeat' (first | with_reducible assumption | intro _ | dsimp only | with_reducible refine modFn_keeps ?_ | split)

theorem restoreCores_keeps {P : List Instr} {v : Nat} {b : List Byte} {s : State} (hk : Kp P s.pending s.mems) :
    Kp P (restoreCores v b s).pending (restoreCores v b s).mems := by
  unfold restoreCores
  repeat' (first | with_reducible assumption | intro _ | dsimp only | with_reducible refine foldS_keeps _ _ ?_ ?_ | with_reducible refine modCore_keeps ?_ | with_reducible refine askBank_keeps ?_ | split)

theorem restoreClusters_keeps {P : List Instr} {v : Nat} {b : List Byte} {s : State} (hk : Kp P s.pending s.mems) :
    Kp P (restoreClusters v b s).pending (restoreClusters v b s).mems := by
  unfold restoreClusters
  repeat' (first | with_reducible assumption | intro _ | dsimp only | with_reducible refine foldS_keeps _ _ ?_ ?_ | with_reducible refine memWrite_keeps ?_ | split)

theorem restoreResident_keeps {P : List Instr} {v : Nat} {v0 : List Nat} {v1 : List Byte} {s : State} (hk : Kp P s.pending s.mems) :
    Kp P (restoreResident v v0 v1 s).pending (restoreResident v v0 v1 s).mems := by
  induction v0 generalizing s v1 with
  | nil => unfold restoreResident; repeat' (first | with_reducible assumption | intro _ | dsimp only | with_reducible refine memWrite_keeps ?_ | split)
  | cons x v0 ih => unfold restoreResident; repeat' (first | with_reducible assumption | intro _ | dsimp only | with_reducible refine ih ?_ | with_reducible refine memWrite_keeps ?_ | split)

theorem doRestore_keeps {P : List Instr} {q : QRef} {idx : Nat} {e : Entry} {s : State} (hk : Kp P s.pending s.mems) :
    Kp P (doRestore q idx e s).pending (doRestore q idx e s).mems := by
  unfold doRestore
  repeat' (first | with_reducible assumption | intro _ | dsimp only | with_reducible refine vdevCause_keeps ?_ | with_reducible refine endDrains_keeps ?_ | with_reducible refine revokeAll_keeps ?_ | with_reducible refine setVop_keeps ?_ | split)

theorem startRestore_keeps {P : List Instr} {q : QRef} {idx : Nat} {e : Entry} {s : State} (hk : Kp P s.pending s.mems) :
    Kp P (startRestore q idx e s).pending (startRestore q idx e s).mems := by
  unfold startRestore
  repeat' (first | with_reducible assumption | intro _ | dsimp only | with_reducible refine withRange_keeps ?_ ?_ | with_reducible refine doRestore_keeps ?_ | split)

theorem execVdevRestore_keeps {P : List Instr} {q : QRef} {e : Entry} {s sNext : State} (hx : execVdevRestore q e s = .next sNext) (hk : Kp P s.pending s.mems) :
    Kp P sNext.pending sNext.mems := by
  unfold execVdevRestore at hx
  injection hx with hx
  subst hx
  repeat' (first | with_reducible assumption | intro _ | dsimp only | with_reducible refine offer_keeps ?_ ?_ | with_reducible refine startRestore_keeps ?_ | split)

theorem restoreAll_keeps {P : List Instr} {v : Nat} {b : List Byte} {hostSame : Bool} {s : State} (hk : Kp P s.pending s.mems) :
    Kp P (restoreAll v b hostSame s).2.pending (restoreAll v b hostSame s).2.mems := by
  unfold restoreAll
  repeat' (first | with_reducible assumption | intro _ | dsimp only | with_reducible refine foldS_keeps _ _ ?_ ?_ | with_reducible refine cutSeg_keeps ?_ | with_reducible refine restoreCounters_keeps ?_ | with_reducible refine restoreSegments_keeps ?_ | with_reducible refine restoreKeys_keeps ?_ | with_reducible refine restoreKeys_eq (by assumption) ?_ | with_reducible refine restoreQueues_keeps ?_ | with_reducible refine restoreBindings_keeps ?_ | with_reducible refine restoreCores_keeps ?_ | with_reducible refine restoreClusters_keeps ?_ | with_reducible refine restoreResident_keeps ?_ | with_reducible refine modFn_keeps ?_ | split)

theorem restoreAll_eq {P : List Instr} {v : Nat} {b : List Byte} {hostSame : Bool} {s u : State} {w} (he : restoreAll v b hostSame s = (w, u)) (hk : Kp P s.pending s.mems) :
    Kp P u.pending u.mems := by
  have := restoreAll_keeps (v := v) (b := b) (hostSame := hostSame) hk; rw [he] at this; exact this

theorem execVdevRestoreComplete_keeps {P : List Instr} {vdev : Nat} {s sNext : State} (hx : execVdevRestoreComplete vdev s = .next sNext) (hk : Kp P s.pending s.mems) :
    Kp P sNext.pending sNext.mems := by
  unfold execVdevRestoreComplete at hx
  injection hx with hx
  subst hx
  repeat' (first | with_reducible assumption | intro _ | dsimp only | with_reducible refine endDrains_keeps ?_ | with_reducible refine restoreAll_keeps ?_ | with_reducible refine restoreAll_eq (by assumption) ?_ | with_reducible refine setVop_keeps ?_ | with_reducible refine complete_keeps ?_ | with_reducible refine putVdev_keeps ?_ | with_reducible refine writeAny_keeps ?_ | split)

theorem startOf_keeps {P : List Instr} {q : QRef} {idx : Nat} {e : Entry} {s : State} (hk : Kp P s.pending s.mems) :
    Kp P (startOf q idx e s).pending (startOf q idx e s).mems := by
  unfold startOf
  repeat' (first | with_reducible assumption | intro _ | dsimp only | with_reducible refine startWrite_keeps ?_ | with_reducible refine startRead_keeps ?_ | with_reducible refine startMulticast_keeps ?_ | with_reducible refine startDone_keeps ?_ | with_reducible refine startCopy_keeps ?_ | with_reducible refine startColl_keeps ?_ | with_reducible refine takeLaunch_keeps ?_ | with_reducible refine sendEntry_keeps ?_ | with_reducible refine startCreate_keeps ?_ | with_reducible refine startDestroy_keeps ?_ | with_reducible refine startFreeze_keeps ?_ | with_reducible refine startSave_keeps ?_ | with_reducible refine startRestore_keeps ?_ | with_reducible refine startReset_keeps ?_ | with_reducible refine startKey_keeps ?_ | with_reducible refine startRevoke_keeps ?_ | with_reducible refine startSettle_keeps ?_ | with_reducible refine startGroupCreate_keeps ?_ | with_reducible refine startGroupDestroy_keeps ?_ | with_reducible refine startCircuitLay_keeps ?_ | with_reducible refine startCircuitLift_keeps ?_ | with_reducible refine startModuleFence_keeps ?_ | split)

theorem askLaunchWakes_keeps {P : List Instr} {q : QRef} {e : Entry} {s : State} (hk : Kp P s.pending s.mems) :
    Kp P (askLaunchWakes q e s).pending (askLaunchWakes q e s).mems := by
  unfold askLaunchWakes
  repeat' (first | with_reducible assumption | intro _ | dsimp only | with_reducible refine foldS_keeps _ _ ?_ ?_ | with_reducible refine wakeCore_keeps ?_ | split)

theorem offerAny_keeps {P : List Instr} {q : QRef} {e : Entry} {s : State} (hk : Kp P s.pending s.mems) :
    Kp P (offerAny q e s).pending (offerAny q e s).mems := by
  unfold offerAny
  repeat' (first | with_reducible assumption | intro _ | dsimp only | with_reducible refine askLaunchWakes_keeps ?_ | with_reducible refine offer_keeps ?_ ?_ | with_reducible refine startOf_keeps ?_ | split)

theorem reissueEntry_keeps {P : List Instr} {q : QRef} {idx : Nat} {s : State} (hk : Kp P s.pending s.mems) :
    Kp P (reissueEntry q idx s).pending (reissueEntry q idx s).mems := by
  unfold reissueEntry
  repeat' (first | with_reducible assumption | intro _ | dsimp only | with_reducible refine startLaunch_keeps ?_ | with_reducible refine startOf_keeps ?_ | split)

theorem reissueMove_keeps {P : List Instr} {core : Nat} {s : State} (hk : Kp P s.pending s.mems) :
    Kp P (reissueMove core s).pending (reissueMove core s).mems := by
  unfold reissueMove
  repeat' (first | with_reducible assumption | intro _ | dsimp only | with_reducible refine doMove_keeps ?_ | split)

theorem resumeWaiter_keeps {P : List Instr} {w : Waiter} {s : State} (hk : Kp P s.pending s.mems) :
    Kp P (resumeWaiter w s).pending (resumeWaiter w s).mems := by
  unfold resumeWaiter
  repeat' (first | with_reducible assumption | intro _ | dsimp only | with_reducible refine forgetWaiter_keeps ?_ | with_reducible refine reissueMove_keeps ?_ | with_reducible refine reissueEntry_keeps ?_ | with_reducible refine pump_keeps ?_ | split)

theorem endWaiter_keeps {P : List Instr} {w : Waiter} {status addr : Nat} {s : State} (hk : Kp P s.pending s.mems) :
    Kp P (endWaiter w status addr s).pending (endWaiter w status addr s).mems := by
  unfold endWaiter
  repeat' (first | with_reducible assumption | intro _ | dsimp only | with_reducible refine forgetWaiter_keeps ?_ | with_reducible refine trapCore_keeps ?_ | with_reducible refine collLocal_keeps ?_ | with_reducible refine complete_keeps ?_ | with_reducible refine failOwner_keeps ?_ | split)

theorem tornHead_keeps {P : List Instr} {q : QRef} {e : Entry} {s : State} (hk : Kp P s.pending s.mems) :
    Kp P (tornHead q e s).pending (tornHead q e s).mems := by
  unfold tornHead
  repeat' (first | with_reducible assumption | intro _ | dsimp only | with_reducible refine malformed_keeps ?_ | with_reducible refine modQueue_keeps ?_ | split)

theorem serveHead_keeps {P : List Instr} {q : QRef} {s : State} (hk : Kp P s.pending s.mems) :
    Kp P (serveHead q s).pending (serveHead q s).mems := by
  unfold serveHead
  repeat' (first | with_reducible assumption | intro _ | dsimp only | with_reducible refine offerAny_keeps ?_ | with_reducible refine tornHead_keeps ?_ | with_reducible refine flushHead_keeps ?_ | with_reducible refine modQueue_keeps ?_ | split)

theorem serveAdmin_keeps {P : List Instr} {q : QRef} {v0 : Nat} {s : State} (hk : Kp P s.pending s.mems) :
    Kp P (serveAdmin q v0 s).pending (serveAdmin q v0 s).mems := by
  induction v0 generalizing s with
  | zero => unfold serveAdmin; repeat' (first | with_reducible assumption | intro _ | dsimp only | with_reducible refine serveHead_keeps ?_ | split)
  | succ v0 ih => unfold serveAdmin; repeat' (first | with_reducible assumption | intro _ | dsimp only | with_reducible refine ih ?_ | with_reducible refine serveHead_keeps ?_ | split)

theorem serveAdmins_keeps {P : List Instr} {s : State} (hk : Kp P s.pending s.mems) :
    Kp P (serveAdmins s).pending (serveAdmins s).mems := by
  unfold serveAdmins
  repeat' (first | with_reducible assumption | intro _ | dsimp only | with_reducible refine foldS_keeps _ _ ?_ ?_ | with_reducible refine serveAdmin_keeps ?_ | split)

theorem visit_keeps {P : List Instr} {q : QRef} {n : Nat} {s : State} (hk : Kp P s.pending s.mems) :
    Kp P (visit q n s).1.pending (visit q n s).1.mems := by
  induction n generalizing s with
  | zero => exact hk
  | succ n ih =>
    unfold visit
    dsimp only
    split
    · exact serveHead_keeps (serveAdmins_keeps hk)
    · exact ih (serveHead_keeps (serveAdmins_keeps hk))

theorem sweep_keeps {P : List Instr} {l : List (QRef × Nat)} {s : State} (hk : Kp P s.pending s.mems) :
    Kp P (sweep l s).1.pending (sweep l s).1.mems := by
  induction l generalizing s with
  | nil => exact hk
  | cons x l ih => exact ih (visit_keeps hk)

theorem roundOf_keeps {P : List Instr} {n : Nat} {l : List (QRef × Nat)} {s : State} (hk : Kp P s.pending s.mems) :
    Kp P (roundOf n l s).1.pending (roundOf n l s).1.mems := by
  induction n generalizing l s with
  | zero => exact hk
  | succ n ih =>
    unfold roundOf
    split
    · exact ih (sweep_keeps hk)
    · exact hk

theorem moveStart_keeps {P : List Instr} {ks : Nat} {order : List QRef} {s : State} (hk : Kp P s.pending s.mems) :
    Kp P (moveStart ks order s).pending (moveStart ks order s).mems := by
  unfold moveStart
  repeat' (first | with_reducible assumption | intro _ | dsimp only | split)

theorem roundsOn_keeps {P : List Instr} {ks : Nat} {v0 : Nat} {v1 : List QRef} {s : State} (hk : Kp P s.pending s.mems) :
    Kp P (roundsOn ks v0 v1 s).pending (roundsOn ks v0 v1 s).mems := by
  induction v0 generalizing s v1 with
  | zero => unfold roundsOn; repeat' (first | with_reducible assumption | intro _ | dsimp only | with_reducible refine roundOf_keeps ?_ | with_reducible refine roundOf_eq (by assumption) ?_ | with_reducible refine moveStart_keeps ?_ | split)
  | succ v0 ih => unfold roundsOn; repeat' (first | with_reducible assumption | intro _ | dsimp only | with_reducible refine ih ?_ | with_reducible refine roundOf_keeps ?_ | with_reducible refine roundOf_eq (by assumption) ?_ | with_reducible refine moveStart_keeps ?_ | split)

theorem scanQueue_keeps {P : List Instr} {q : QRef} {s : State} (hk : Kp P s.pending s.mems) :
    Kp P (scanQueue q s).pending (scanQueue q s).mems := by
  unfold scanQueue
  repeat' (first | with_reducible assumption | intro _ | dsimp only | with_reducible refine serveAdmin_keeps ?_ | with_reducible refine roundsOn_keeps ?_ | split)

theorem ringDoorbell_keeps {P : List Instr} {q : QRef} {s : State} (hk : Kp P s.pending s.mems) :
    Kp P (ringDoorbell q s).pending (ringDoorbell q s).mems := by
  unfold ringDoorbell
  repeat' (first | with_reducible assumption | intro _ | dsimp only | with_reducible refine scanQueue_keeps ?_ | split)

theorem execDoorbell_keeps {P : List Instr} {q : QRef} {s sNext : State} (hx : execDoorbell q s = .next sNext) (hk : Kp P s.pending s.mems) :
    Kp P sNext.pending sNext.mems := by
  unfold execDoorbell at hx
  injection hx with hx
  subst hx
  repeat' (first | with_reducible assumption | intro _ | dsimp only | with_reducible refine ringDoorbell_keeps ?_ | split)

theorem rescanNow_keeps {P : List Instr} {q : QRef} {s : State} (hk : Kp P s.pending s.mems) :
    Kp P (rescanNow q s).pending (rescanNow q s).mems := by
  unfold rescanNow
  repeat' (first | with_reducible assumption | intro _ | dsimp only | with_reducible refine modQueue_keeps ?_ | with_reducible refine advanceTo_keeps ?_ | split)

theorem execRescanTimerExpiry_keeps {P : List Instr} {q : QRef} {s sNext : State} (hx : execRescanTimerExpiry q s = .next sNext) (hk : Kp P s.pending s.mems) :
    Kp P sNext.pending sNext.mems := by
  unfold execRescanTimerExpiry at hx
  injection hx with hx
  subst hx
  repeat' (first | with_reducible assumption | intro _ | dsimp only | with_reducible refine scanQueue_keeps ?_ | with_reducible refine rescanNow_keeps ?_ | split)

theorem execTornLimitExceeded_keeps {P : List Instr} {q : QRef} {s sNext : State} (hx : execTornLimitExceeded q s = .next sNext) (hk : Kp P s.pending s.mems) :
    Kp P sNext.pending sNext.mems := by
  unfold execTornLimitExceeded at hx
  injection hx with hx
  subst hx
  repeat' (first | with_reducible assumption | intro _ | dsimp only | with_reducible refine tornHead_keeps ?_ | with_reducible refine rescanNow_keeps ?_ | split)

theorem reoffer_keeps {P : List Instr} {q : QRef} {s : State} (hk : Kp P s.pending s.mems) :
    Kp P (reoffer q s).pending (reoffer q s).mems := by
  unfold reoffer
  repeat' (first | with_reducible assumption | intro _ | dsimp only | with_reducible refine offerAny_keeps ?_ | with_reducible refine scanQueue_keeps ?_ | split)

theorem execWaitCountRelease_keeps {P : List Instr} {q : QRef} {s sNext : State} (hx : execWaitCountRelease q s = .next sNext) (hk : Kp P s.pending s.mems) :
    Kp P sNext.pending sNext.mems := by
  unfold execWaitCountRelease at hx
  injection hx with hx
  subst hx
  repeat' (first | with_reducible assumption | intro _ | dsimp only | with_reducible refine reoffer_keeps ?_ | split)

theorem execFenceRelease_keeps {P : List Instr} {q : QRef} {s sNext : State} (hx : execFenceRelease q s = .next sNext) (hk : Kp P s.pending s.mems) :
    Kp P sNext.pending sNext.mems := by
  unfold execFenceRelease at hx
  injection hx with hx
  subst hx
  repeat' (first | with_reducible assumption | intro _ | dsimp only | with_reducible refine reoffer_keeps ?_ | split)

theorem execHeadHoldRelease_keeps {P : List Instr} {q : QRef} {s sNext : State} (hx : execHeadHoldRelease q s = .next sNext) (hk : Kp P s.pending s.mems) :
    Kp P sNext.pending sNext.mems := by
  unfold execHeadHoldRelease at hx
  injection hx with hx
  subst hx
  repeat' (first | with_reducible assumption | intro _ | dsimp only | with_reducible refine reoffer_keeps ?_ | split)

theorem settleAll_keeps {P : List Instr} {fn : Nat} {s : State} (hk : Kp P s.pending s.mems) :
    Kp P (settleAll fn s).pending (settleAll fn s).mems := by
  unfold settleAll
  repeat' (first | with_reducible assumption | intro _ | dsimp only | with_reducible refine foldS_keeps _ _ ?_ ?_ | with_reducible refine settleQueue_keeps ?_ | split)

theorem drainHeld_keeps {P : List Instr} {fn ring : Nat} {s : State} (hk : Kp P s.pending s.mems) :
    Kp P (drainHeld fn ring s).pending (drainHeld fn ring s).mems := by
  unfold drainHeld
  repeat' (first | with_reducible assumption | intro _ | dsimp only | with_reducible refine releaseHeld_keeps ?_ | with_reducible refine cqFull_keeps ?_ | with_reducible refine settleAll_keeps ?_ | split)

theorem cqHeadWrite_keeps {P : List Instr} {fn ring v : Nat} {s : State} (hk : Kp P s.pending s.mems) :
    Kp P (cqHeadWrite fn ring v s).pending (cqHeadWrite fn ring v s).mems := by
  unfold cqHeadWrite
  repeat' (first | with_reducible assumption | intro _ | dsimp only | with_reducible refine modCq_keeps ?_ | with_reducible refine drainHeld_keeps ?_ | split)

theorem execCqHeadWrite_keeps {P : List Instr} {fn ring : Nat} {value : W32} {s sNext : State} (hx : execCqHeadWrite fn ring value s = .next sNext) (hk : Kp P s.pending s.mems) :
    Kp P sNext.pending sNext.mems := by
  unfold execCqHeadWrite at hx
  injection hx with hx
  subst hx
  repeat' (first | with_reducible assumption | intro _ | dsimp only | with_reducible refine cqHeadWrite_keeps ?_ | split)

theorem eqHeadWrite_keeps {P : List Instr} {fn v : Nat} {s : State} (hk : Kp P s.pending s.mems) :
    Kp P (eqHeadWrite fn v s).pending (eqHeadWrite fn v s).mems := by
  unfold eqHeadWrite
  repeat' (first | with_reducible assumption | intro _ | dsimp only | with_reducible refine eqOverflow_keeps ?_ | with_reducible refine modFn_keeps ?_ | split)

theorem execEqHeadWrite_keeps {P : List Instr} {fn : Nat} {value : W32} {s sNext : State} (hx : execEqHeadWrite fn value s = .next sNext) (hk : Kp P s.pending s.mems) :
    Kp P sNext.pending sNext.mems := by
  unfold execEqHeadWrite at hx
  injection hx with hx
  subst hx
  repeat' (first | with_reducible assumption | intro _ | dsimp only | with_reducible refine eqHeadWrite_keeps ?_ | split)

theorem startQueue_keeps {P : List Instr} {q : QRef} {cq weight burst : Nat} {s : State} (hk : Kp P s.pending s.mems) :
    Kp P (startQueue q cq weight burst s).pending (startQueue q cq weight burst s).mems := by
  unfold startQueue
  repeat' (first | with_reducible assumption | intro _ | dsimp only | with_reducible refine modQueue_keeps ?_ | with_reducible refine cacheQp_keeps ?_ | split)

theorem enableQueue_keeps {P : List Instr} {q : QRef} {v : Nat} {s : State} (hk : Kp P s.pending s.mems) :
    Kp P (enableQueue q v s).pending (enableQueue q v s).mems := by
  unfold enableQueue
  repeat' (first | with_reducible assumption | intro _ | dsimp only | with_reducible refine modQueue_keeps ?_ | with_reducible refine startQueue_keeps ?_ | split)

theorem refuseSelection_keeps {P : List Instr} {fn : Nat} {s : State} (hk : Kp P s.pending s.mems) :
    Kp P (refuseSelection fn s).pending (refuseSelection fn s).mems := by
  unfold refuseSelection
  repeat' (first | with_reducible assumption | intro _ | dsimp only | with_reducible refine modFn_keeps ?_ | split)

theorem ctrlEnable_keeps {P : List Instr} {fn v : Nat} {s : State} (hk : Kp P s.pending s.mems) :
    Kp P (ctrlEnable fn v s).pending (ctrlEnable fn v s).mems := by
  unfold ctrlEnable
  repeat' (first | with_reducible assumption | intro _ | dsimp only | with_reducible refine enableQueue_keeps ?_ | with_reducible refine refuseSelection_keeps ?_ | with_reducible refine modFn_keeps ?_ | with_reducible refine drainHeld_keeps ?_ | with_reducible refine setCq_keeps ?_ | with_reducible refine eqOverflow_keeps ?_ | split)

theorem execQueueEnable_keeps {P : List Instr} {fn : Nat} {value : W32} {s sNext : State} (hx : execQueueEnable fn value s = .next sNext) (hk : Kp P s.pending s.mems) :
    Kp P sNext.pending sNext.mems := by
  unfold execQueueEnable at hx
  injection hx with hx
  subst hx
  repeat' (first | with_reducible assumption | intro _ | dsimp only | with_reducible refine ctrlEnable_keeps ?_ | split)

theorem flushWait_keeps {P : List Instr} {q : QRef} {s : State} (hk : Kp P s.pending s.mems) :
    Kp P (flushWait q s).pending (flushWait q s).mems := by
  unfold flushWait
  repeat' (first | with_reducible assumption | intro _ | dsimp only | with_reducible refine modQueue_keeps ?_ | with_reducible refine advanceHead_keeps ?_ | split)

theorem dropQp_keeps {P : List Instr} {q : QRef} {s : State} (hk : Kp P s.pending s.mems) :
    Kp P (dropQp q s).pending (dropQp q s).mems := by
  unfold dropQp
  repeat' (first | with_reducible assumption | intro _ | dsimp only | split)

theorem disableQueue_keeps {P : List Instr} {q : QRef} {v : Nat} {s : State} (hk : Kp P s.pending s.mems) :
    Kp P (disableQueue q v s).pending (disableQueue q v s).mems := by
  unfold disableQueue
  repeat' (first | with_reducible assumption | intro _ | dsimp only | with_reducible refine modQueue_keeps ?_ | with_reducible refine dropQp_keeps ?_ | with_reducible refine flushWait_keeps ?_ | with_reducible refine writeEach_keeps ?_ | with_reducible refine writeBatches_keeps ?_ | with_reducible refine settleQueue_keeps ?_ | split)

theorem acceptSelection_keeps {P : List Instr} {fn : Nat} {s : State} (hk : Kp P s.pending s.mems) :
    Kp P (acceptSelection fn s).pending (acceptSelection fn s).mems := by
  unfold acceptSelection
  repeat' (first | with_reducible assumption | intro _ | dsimp only | with_reducible refine modFn_keeps ?_ | split)

theorem ctrlDisable_keeps {P : List Instr} {fn v : Nat} {s : State} (hk : Kp P s.pending s.mems) :
    Kp P (ctrlDisable fn v s).pending (ctrlDisable fn v s).mems := by
  unfold ctrlDisable
  repeat' (first | with_reducible assumption | intro _ | dsimp only | with_reducible refine disableQueue_keeps ?_ | with_reducible refine acceptSelection_keeps ?_ | with_reducible refine modCq_keeps ?_ | with_reducible refine modFn_keeps ?_ | split)

theorem execQueueDisable_keeps {P : List Instr} {fn : Nat} {value : W32} {s sNext : State} (hx : execQueueDisable fn value s = .next sNext) (hk : Kp P s.pending s.mems) :
    Kp P sNext.pending sNext.mems := by
  unfold execQueueDisable at hx
  injection hx with hx
  subst hx
  repeat' (first | with_reducible assumption | intro _ | dsimp only | with_reducible refine ctrlDisable_keeps ?_ | split)

theorem execCntValueRead_keeps {P : List Instr} {fn : Nat} {s sNext : State} (hx : execCntValueRead fn s = .next sNext) (hk : Kp P s.pending s.mems) :
    Kp P sNext.pending sNext.mems := by
  unfold execCntValueRead at hx
  injection hx with hx
  subst hx
  repeat' (first | with_reducible assumption | intro _ | dsimp only | with_reducible refine outEmit_keeps ?_ | with_reducible refine modFn_keeps ?_ | split)

theorem telemWrite_keeps {P : List Instr} {fn v : Nat} {s : State} (hk : Kp P s.pending s.mems) :
    Kp P (telemWrite fn v s).pending (telemWrite fn v s).mems := by
  unfold telemWrite
  repeat' (first | with_reducible assumption | intro _ | dsimp only | with_reducible refine modFn_keeps ?_ | split)

theorem execTelemetryEnable_keeps {P : List Instr} {fn : Nat} {value : W32} {s sNext : State} (hx : execTelemetryEnable fn value s = .next sNext) (hk : Kp P s.pending s.mems) :
    Kp P sNext.pending sNext.mems := by
  unfold execTelemetryEnable at hx
  injection hx with hx
  subst hx
  repeat' (first | with_reducible assumption | intro _ | dsimp only | with_reducible refine telemWrite_keeps ?_ | split)

theorem toRxRing_keeps {P : List Instr} {port eflags : Nat} {express mirror : Bool} {b : List Byte} {s : State} (hk : Kp P s.pending s.mems) :
    Kp P (toRxRing port eflags express mirror b s).pending (toRxRing port eflags express mirror b s).mems := by
  unfold toRxRing
  repeat' (first | with_reducible assumption | intro _ | dsimp only | with_reducible refine bump_keeps ?_ | with_reducible refine memWrite_keeps ?_ | with_reducible refine modPort_keeps ?_ | with_reducible refine msix_keeps ?_ | split)

theorem toEnpin_keeps {P : List Instr} {port : Nat} {f : EthFrame} {p : Packet} {s : State} (hk : Kp P s.pending s.mems) :
    Kp P (toEnpin port f p s).pending (toEnpin port f p s).mems := by
  unfold toEnpin
  repeat' (first | with_reducible assumption | intro _ | dsimp only | with_reducible refine flowCheck_keeps ?_ | with_reducible refine modPort_keeps ?_ | split)

theorem settlePaused_keeps {P : List Instr} {port : Nat} {s : State} (hk : Kp P s.pending s.mems) :
    Kp P (settlePaused port s).pending (settlePaused port s).mems := by
  unfold settlePaused
  repeat' (first | with_reducible assumption | intro _ | dsimp only | with_reducible refine modPort_keeps ?_ | with_reducible refine bump_keeps ?_ | split)

theorem setTimers_keeps {P : List Instr} {port : Nat} {g : Port → Port} {s : State} (hk : Kp P s.pending s.mems) :
    Kp P (setTimers port g s).pending (setTimers port g s).mems := by
  unfold setTimers
  repeat' (first | with_reducible assumption | intro _ | dsimp only | with_reducible refine setPort_keeps ?_ | with_reducible refine bump_keeps ?_ | split)

theorem pauseIn_keeps {P : List Instr} {port : Nat} {pfc : Bool} {mask : Nat} {quanta : List Nat} {s : State} (hk : Kp P s.pending s.mems) :
    Kp P (pauseIn port pfc mask quanta s).pending (pauseIn port pfc mask quanta s).mems := by
  unfold pauseIn
  repeat' (first | with_reducible assumption | intro _ | dsimp only | with_reducible refine bump_keeps ?_ | with_reducible refine setTimers_keeps ?_ | split)

theorem execPauseFrameReceive_keeps {P : List Instr} {port : Nat} {pfc : Bool} {classMask : Nat} {quanta : List Nat} {s sNext : State} (hx : execPauseFrameReceive port pfc classMask quanta s = .next sNext) (hk : Kp P s.pending s.mems) :
    Kp P sNext.pending sNext.mems := by
  unfold execPauseFrameReceive at hx
  injection hx with hx
  subst hx
  repeat' (first | with_reducible assumption | intro _ | dsimp only | with_reducible refine pauseIn_keeps ?_ | split)

theorem execPauseTimerExpiry_keeps {P : List Instr} {port : Nat} {cls : Option Nat} {s sNext : State} (hx : execPauseTimerExpiry port cls s = .next sNext) (hk : Kp P s.pending s.mems) :
    Kp P sNext.pending sNext.mems := by
  unfold execPauseTimerExpiry at hx
  injection hx with hx
  subst hx
  repeat' (first | with_reducible assumption | intro _ | dsimp only | with_reducible refine setTimers_keeps ?_ | with_reducible refine advanceTo_keeps ?_ | split)

theorem execXoffRepeat_keeps {P : List Instr} {port prio : Nat} {s sNext : State} (hx : execXoffRepeat port prio s = .next sNext) (hk : Kp P s.pending s.mems) :
    Kp P sNext.pending sNext.mems := by
  unfold execXoffRepeat at hx
  injection hx with hx
  subst hx
  repeat' (first | with_reducible assumption | intro _ | dsimp only | with_reducible refine advanceTo_keeps ?_ | with_reducible refine sendPause_keeps ?_ | with_reducible refine modPort_keeps ?_ | split)

theorem cutLost_keeps {P : List Instr} {port : Nat} {f : EthFrame} {s : State} (hk : Kp P s.pending s.mems) :
    Kp P (cutLost port f s).pending (cutLost port f s).mems := by
  unfold cutLost
  repeat' (first | with_reducible assumption | intro _ | dsimp only | with_reducible refine cutFrame_keeps ?_ | with_reducible refine cutFrame_eq (by assumption) ?_ | split)

theorem erroredFrame_keeps {P : List Instr} {port flags : Nat} {f : EthFrame} {s : State} (hk : Kp P s.pending s.mems) :
    Kp P (erroredFrame port flags f s).pending (erroredFrame port flags f s).mems := by
  unfold erroredFrame
  repeat' (first | with_reducible assumption | intro _ | dsimp only | with_reducible refine cutLost_keeps ?_ | with_reducible refine foldS_keeps _ _ ?_ ?_ | with_reducible refine bump_keeps ?_ | with_reducible refine toRxRing_keeps ?_ | split)

theorem pastCutter_keeps {P : List Instr} {port : Nat} {f : EthFrame} {s : State} (hk : Kp P s.pending s.mems) :
    Kp P (pastCutter port f s).pending (pastCutter port f s).mems := by
  unfold pastCutter
  repeat' (first | with_reducible assumption | intro _ | dsimp only | with_reducible refine toEnpin_keeps ?_ | with_reducible refine bump_keeps ?_ | with_reducible refine toRxRing_keeps ?_ | split)

theorem goodFrame_keeps {P : List Instr} {port : Nat} {f : EthFrame} {s : State} (hk : Kp P s.pending s.mems) :
    Kp P (goodFrame port f s).pending (goodFrame port f s).mems := by
  unfold goodFrame
  repeat' (first | with_reducible assumption | intro _ | dsimp only | with_reducible refine bump_keeps ?_ | with_reducible refine cutFrame_keeps ?_ | with_reducible refine cutFrame_eq (by assumption) ?_ | with_reducible refine toRxRing_keeps ?_ | with_reducible refine pastCutter_keeps ?_ | split)

theorem macControl_keeps {P : List Instr} {port : Nat} {b : List Byte} {s : State} (hk : Kp P s.pending s.mems) :
    Kp P (macControl port b s).pending (macControl port b s).mems := by
  unfold macControl
  repeat' (first | with_reducible assumption | intro _ | dsimp only | with_reducible refine pauseIn_keeps ?_ | split)

theorem ethIn_keeps {P : List Instr} {port : Nat} {f : EthFrame} {s : State} (hk : Kp P s.pending s.mems) :
    Kp P (ethIn port f s).pending (ethIn port f s).mems := by
  unfold ethIn
  repeat' (first | with_reducible assumption | intro _ | dsimp only | with_reducible refine bump_keeps ?_ | with_reducible refine cutLost_keeps ?_ | with_reducible refine erroredFrame_keeps ?_ | with_reducible refine macControl_keeps ?_ | with_reducible refine goodFrame_keeps ?_ | split)

theorem execEthFrameReceive_keeps {P : List Instr} {port : Nat} {f : EthFrame} {s sNext : State} (hx : execEthFrameReceive port f s = .next sNext) (hk : Kp P s.pending s.mems) :
    Kp P sNext.pending sNext.mems := by
  unfold execEthFrameReceive at hx
  injection hx with hx
  subst hx
  repeat' (first | with_reducible assumption | intro _ | dsimp only | with_reducible refine ethIn_keeps ?_ | with_reducible refine bump_keeps ?_ | split)

theorem passSlots_keeps {P : List Instr} {port : Nat} {v0 : Nat} {s : State} (hk : Kp P s.pending s.mems) :
    Kp P (passSlots port v0 s).pending (passSlots port v0 s).mems := by
  induction v0 generalizing s with
  | zero => unfold passSlots; repeat' (first | with_reducible assumption | intro _ | dsimp only | with_reducible refine setPort_keeps ?_ | with_reducible refine msix_keeps ?_ | split)
  | succ v0 ih => unfold passSlots; repeat' (first | with_reducible assumption | intro _ | dsimp only | with_reducible refine ih ?_ | with_reducible refine setPort_keeps ?_ | with_reducible refine msix_keeps ?_ | split)

theorem slotPassed_keeps {P : List Instr} {port : Nat} {slot : Option Nat} {s : State} (hk : Kp P s.pending s.mems) :
    Kp P (slotPassed port slot s).pending (slotPassed port slot s).mems := by
  unfold slotPassed
  repeat' (first | with_reducible assumption | intro _ | dsimp only | with_reducible refine passSlots_keeps ?_ | with_reducible refine modPort_keeps ?_ | split)

theorem startClass_keeps {P : List Instr} {port : Nat} {v0 : Nat} {s : State} (hk : Kp P s.pending s.mems) :
    Kp P (startClass port v0 s).pending (startClass port v0 s).mems := by
  induction v0 generalizing s with
  | zero => unfold startClass; repeat' (first | with_reducible assumption | intro _ | dsimp only | with_reducible refine modPort_keeps ?_ | with_reducible refine slotPassed_keeps ?_ | with_reducible refine bump_keeps ?_ | split)
  | succ v0 ih => unfold startClass; repeat' (first | with_reducible assumption | intro _ | dsimp only | with_reducible refine ih ?_ | with_reducible refine modPort_keeps ?_ | with_reducible refine slotPassed_keeps ?_ | with_reducible refine bump_keeps ?_ | split)

theorem txStart_keeps {P : List Instr} {port : Nat} {s : State} (hk : Kp P s.pending s.mems) :
    Kp P (txStart port s).pending (txStart port s).mems := by
  unfold txStart
  repeat' (first | with_reducible assumption | intro _ | dsimp only | with_reducible refine setPort_keeps ?_ | with_reducible refine startClass_keeps ?_ | with_reducible refine bump_keeps ?_ | split)

theorem execEthFrameTransmit_keeps {P : List Instr} {port : Nat} {s sNext : State} (hx : execEthFrameTransmit port s = .next sNext) (hk : Kp P s.pending s.mems) :
    Kp P sNext.pending sNext.mems := by
  unfold execEthFrameTransmit at hx
  injection hx with hx
  subst hx
  repeat' (first | with_reducible assumption | intro _ | dsimp only | with_reducible refine txStart_keeps ?_ | split)

theorem execEthTxComplete_keeps {P : List Instr} {port : Nat} {s sNext : State} (hx : execEthTxComplete port s = .next sNext) (hk : Kp P s.pending s.mems) :
    Kp P sNext.pending sNext.mems := by
  unfold execEthTxComplete at hx
  injection hx with hx
  subst hx
  repeat' (first | with_reducible assumption | intro _ | dsimp only | with_reducible refine bump_keeps ?_ | with_reducible refine outEmit_keeps ?_ | with_reducible refine modPort_keeps ?_ | with_reducible refine slotPassed_keeps ?_ | split)

theorem queueSlot_keeps {P : List Instr} {port slot : Nat} {h b : List Byte} {s : State} (hk : Kp P s.pending s.mems) :
    Kp P (queueSlot port slot h b s).pending (queueSlot port slot h b s).mems := by
  unfold queueSlot
  repeat' (first | with_reducible assumption | intro _ | dsimp only | with_reducible refine slotPassed_keeps ?_ | with_reducible refine bump_keeps ?_ | with_reducible refine pushExpress_keeps ?_ | with_reducible refine pushClass_keeps ?_ | split)

theorem txScan_keeps {P : List Instr} {port : Nat} {v0 : Nat} {s : State} (hk : Kp P s.pending s.mems) :
    Kp P (txScan port v0 s).pending (txScan port v0 s).mems := by
  induction v0 generalizing s with
  | zero => unfold txScan; repeat' (first | with_reducible assumption | intro _ | dsimp only | with_reducible refine setPort_keeps ?_ | with_reducible refine slotPassed_keeps ?_ | with_reducible refine modPort_keeps ?_ | with_reducible refine bump_keeps ?_ | with_reducible refine queueSlot_keeps ?_ | split)
  | succ v0 ih => unfold txScan; repeat' (first | with_reducible assumption | intro _ | dsimp only | with_reducible refine ih ?_ | with_reducible refine setPort_keeps ?_ | with_reducible refine slotPassed_keeps ?_ | with_reducible refine modPort_keeps ?_ | with_reducible refine bump_keeps ?_ | with_reducible refine queueSlot_keeps ?_ | split)

theorem txDoorbell_keeps {P : List Instr} {port : Nat} {s : State} (hk : Kp P s.pending s.mems) :
    Kp P (txDoorbell port s).pending (txDoorbell port s).mems := by
  unfold txDoorbell
  repeat' (first | with_reducible assumption | intro _ | dsimp only | with_reducible refine setPort_keeps ?_ | with_reducible refine txScan_keeps ?_ | split)

theorem execEthTxrDoorbell_keeps {P : List Instr} {port : Nat} {s sNext : State} (hx : execEthTxrDoorbell port s = .next sNext) (hk : Kp P s.pending s.mems) :
    Kp P sNext.pending sNext.mems := by
  unfold execEthTxrDoorbell at hx
  injection hx with hx
  subst hx
  repeat' (first | with_reducible assumption | intro _ | dsimp only | with_reducible refine txDoorbell_keeps ?_ | split)

theorem ethRingWrite_keeps {P : List Instr} {port : Nat} {tx : Bool} {v : Nat} {s : State} (hk : Kp P s.pending s.mems) :
    Kp P (ethRingWrite port tx v s).pending (ethRingWrite port tx v s).mems := by
  unfold ethRingWrite
  repeat' (first | with_reducible assumption | intro _ | dsimp only | with_reducible refine setPort_keeps ?_ | with_reducible refine txScan_keeps ?_ | split)

theorem execEthRingEnable_keeps {P : List Instr} {port : Nat} {tx : Bool} {value : W32} {s sNext : State} (hx : execEthRingEnable port tx value s = .next sNext) (hk : Kp P s.pending s.mems) :
    Kp P sNext.pending sNext.mems := by
  unfold execEthRingEnable at hx
  injection hx with hx
  subst hx
  repeat' (first | with_reducible assumption | intro _ | dsimp only | with_reducible refine ethRingWrite_keeps ?_ | split)

theorem ethHeadWrite_keeps {P : List Instr} {port v : Nat} {s : State} (hk : Kp P s.pending s.mems) :
    Kp P (ethHeadWrite port v s).pending (ethHeadWrite port v s).mems := by
  unfold ethHeadWrite
  repeat' (first | with_reducible assumption | intro _ | dsimp only | with_reducible refine modPort_keeps ?_ | split)

theorem execEthRxrHeadWrite_keeps {P : List Instr} {port : Nat} {value : W32} {s sNext : State} (hx : execEthRxrHeadWrite port value s = .next sNext) (hk : Kp P s.pending s.mems) :
    Kp P sNext.pending sNext.mems := by
  unfold execEthRxrHeadWrite at hx
  injection hx with hx
  subst hx
  repeat' (first | with_reducible assumption | intro _ | dsimp only | with_reducible refine ethHeadWrite_keeps ?_ | split)

theorem execEthStatRead_keeps {P : List Instr} {port : Nat} {s sNext : State} (hx : execEthStatRead port s = .next sNext) (hk : Kp P s.pending s.mems) :
    Kp P sNext.pending sNext.mems := by
  unfold execEthStatRead at hx
  injection hx with hx
  subst hx
  repeat' (first | with_reducible assumption | intro _ | dsimp only | with_reducible refine outEmit_keeps ?_ | with_reducible refine settlePaused_keeps ?_ | with_reducible refine modPort_keeps ?_ | split)

theorem sendVerify_keeps {P : List Instr} {port tries : Nat} {s : State} (hk : Kp P s.pending s.mems) :
    Kp P (sendVerify port tries s).pending (sendVerify port tries s).mems := by
  unfold sendVerify
  repeat' (first | with_reducible assumption | intro _ | dsimp only | with_reducible refine outEmit_keeps ?_ | with_reducible refine modPort_keeps ?_ | split)

theorem restartVerify_keeps {P : List Instr} {port : Nat} {s : State} (hk : Kp P s.pending s.mems) :
    Kp P (restartVerify port s).pending (restartVerify port s).mems := by
  unfold restartVerify
  repeat' (first | with_reducible assumption | intro _ | dsimp only | with_reducible refine modPort_keeps ?_ | with_reducible refine sendVerify_keeps ?_ | split)

theorem portUp_keeps {P : List Instr} {port : Nat} {s : State} (hk : Kp P s.pending s.mems) :
    Kp P (portUp port s).pending (portUp port s).mems := by
  unfold portUp
  repeat' (first | with_reducible assumption | intro _ | dsimp only | with_reducible refine portListMoved_keeps ?_ | with_reducible refine restartVerify_keeps ?_ | with_reducible refine modPort_keeps ?_ | split)

theorem execEthLinkUp_keeps {P : List Instr} {port : Nat} {s sNext : State} (hx : execEthLinkUp port s = .next sNext) (hk : Kp P s.pending s.mems) :
    Kp P sNext.pending sNext.mems := by
  unfold execEthLinkUp at hx
  injection hx with hx
  subst hx
  repeat' (first | with_reducible assumption | intro _ | dsimp only | with_reducible refine portUp_keeps ?_ | split)

theorem portDown_keeps {P : List Instr} {port : Nat} {s : State} (hk : Kp P s.pending s.mems) :
    Kp P (portDown port s).pending (portDown port s).mems := by
  unfold portDown
  repeat' (first | with_reducible assumption | intro _ | dsimp only | with_reducible refine setTimers_keeps ?_ | with_reducible refine logFault_keeps ?_ | with_reducible refine bump_keeps ?_ | with_reducible refine foldS_keeps _ _ ?_ ?_ | with_reducible refine slotPassed_keeps ?_ | with_reducible refine modPort_keeps ?_ | with_reducible refine portListMoved_keeps ?_ | split)

theorem execEthLinkDown_keeps {P : List Instr} {port : Nat} {s sNext : State} (hx : execEthLinkDown port s = .next sNext) (hk : Kp P s.pending s.mems) :
    Kp P sNext.pending sNext.mems := by
  unfold execEthLinkDown at hx
  injection hx with hx
  subst hx
  repeat' (first | with_reducible assumption | intro _ | dsimp only | with_reducible refine portDown_keeps ?_ | split)

theorem execEthEnableWrite_keeps {P : List Instr} {port value : Nat} {s sNext : State} (hx : execEthEnableWrite port value s = .next sNext) (hk : Kp P s.pending s.mems) :
    Kp P sNext.pending sNext.mems := by
  unfold execEthEnableWrite at hx
  injection hx with hx
  subst hx
  repeat' (first | with_reducible assumption | intro _ | dsimp only | with_reducible refine ledCommit_keeps ?_ | with_reducible refine portDown_keeps ?_ | split)

theorem execVerifyTimeout_keeps {P : List Instr} {port : Nat} {s sNext : State} (hx : execVerifyTimeout port s = .next sNext) (hk : Kp P s.pending s.mems) :
    Kp P sNext.pending sNext.mems := by
  unfold execVerifyTimeout at hx
  injection hx with hx
  subst hx
  repeat' (first | with_reducible assumption | intro _ | dsimp only | with_reducible refine advanceTo_keeps ?_ | with_reducible refine sendVerify_keeps ?_ | with_reducible refine modPort_keeps ?_ | split)

theorem execVerifyResponseReceive_keeps {P : List Instr} {port : Nat} {s sNext : State} (hx : execVerifyResponseReceive port s = .next sNext) (hk : Kp P s.pending s.mems) :
    Kp P sNext.pending sNext.mems := by
  unfold execVerifyResponseReceive at hx
  injection hx with hx
  subst hx
  repeat' (first | with_reducible assumption | intro _ | dsimp only | with_reducible refine modPort_keeps ?_ | split)

theorem dropWalker_keeps {P : List Instr} {ks n : Nat} {s : State} (hk : Kp P s.pending s.mems) :
    Kp P (dropWalker ks n s).pending (dropWalker ks n s).mems := by
  unfold dropWalker
  repeat' (first | with_reducible assumption | intro _ | dsimp only | with_reducible refine setWalkers_keeps ?_ | split)

theorem modRec_keeps {P : List Instr} {ks i : Nat} {g : FaultRec → FaultRec} {s : State} (hk : Kp P s.pending s.mems) :
    Kp P (modRec ks i g s).pending (modRec ks i g s).mems := by
  unfold modRec
  repeat' (first | with_reducible assumption | intro _ | dsimp only | with_reducible refine setRecs_keeps ?_ | split)

theorem walked_keeps {P : List Instr} {ks n : Nat} {w : Walker} {s : State} (hk : Kp P s.pending s.mems) :
    Kp P (walked ks n w s).pending (walked ks n w s).mems := by
  unfold walked
  repeat' (first | with_reducible assumption | intro _ | dsimp only | with_reducible refine endWaiter_keeps ?_ | with_reducible refine dropWalker_keeps ?_ | with_reducible refine resumeWaiter_keeps ?_ | with_reducible refine bump_keeps ?_ | with_reducible refine modRec_keeps ?_ | with_reducible refine modPage_keeps ?_ | with_reducible refine setRecs_keeps ?_ | with_reducible refine setWalkers_keeps ?_ | split)

theorem retryWalker_keeps {P : List Instr} {ks : Nat} {s : State} (hk : Kp P s.pending s.mems) :
    Kp P (retryWalker ks s).pending (retryWalker ks s).mems := by
  unfold retryWalker
  repeat' (first | with_reducible assumption | intro _ | dsimp only | with_reducible refine walked_keeps ?_ | split)

theorem retryWalkers_keeps {P : List Instr} {home : Nat} {s : State} (hk : Kp P s.pending s.mems) :
    Kp P (retryWalkers home s).pending (retryWalkers home s).mems := by
  unfold retryWalkers
  repeat' (first | with_reducible assumption | intro _ | dsimp only | with_reducible refine foldS_keeps _ _ ?_ ?_ | with_reducible refine retryWalker_keeps ?_ | split)

theorem execWalkerReadComplete_keeps {P : List Instr} {ks walker : Nat} {result : ScrubResult} {s sNext : State} (hx : execWalkerReadComplete ks walker result s = .next sNext) (hk : Kp P s.pending s.mems) :
    Kp P sNext.pending sNext.mems := by
  unfold execWalkerReadComplete at hx
  injection hx with hx
  subst hx
  repeat' (first | with_reducible assumption | intro _ | dsimp only | with_reducible refine raiseEvent_keeps ?_ | with_reducible refine bump_keeps ?_ | with_reducible refine modPage_keeps ?_ | with_reducible refine walked_keeps ?_ | split)

theorem recDone_keeps {P : List Instr} {ks i : Nat} {s : State} (hk : Kp P s.pending s.mems) :
    Kp P (recDone ks i s).pending (recDone ks i s).mems := by
  unfold recDone
  repeat' (first | with_reducible assumption | intro _ | dsimp only | with_reducible refine modPage_keeps ?_ | with_reducible refine setRecs_keeps ?_ | with_reducible refine foldS_keeps _ _ ?_ ?_ | with_reducible refine resumeWaiter_keeps ?_ | with_reducible refine retryWalkers_keeps ?_ | split)

theorem failRec_keeps {P : List Instr} {ks i status : Nat} {s : State} (hk : Kp P s.pending s.mems) :
    Kp P (failRec ks i status s).pending (failRec ks i status s).mems := by
  unfold failRec
  repeat' (first | with_reducible assumption | intro _ | dsimp only | with_reducible refine modPage_keeps ?_ | with_reducible refine setRecs_keeps ?_ | with_reducible refine foldS_keeps _ _ ?_ ?_ | with_reducible refine endWaiter_keeps ?_ | with_reducible refine retryWalkers_keeps ?_ | split)

theorem execMigrationStart_keeps {P : List Instr} {ks record : Nat} {s sNext : State} (hx : execMigrationStart ks record s = .next sNext) (hk : Kp P s.pending s.mems) :
    Kp P sNext.pending sNext.mems := by
  unfold execMigrationStart at hx
  injection hx with hx
  subst hx
  repeat' (first | with_reducible assumption | intro _ | dsimp only | with_reducible refine failRec_keeps ?_ | with_reducible refine modRec_keeps ?_ | with_reducible refine uncachePage_keeps ?_ | with_reducible refine bump_keeps ?_ | with_reducible refine modPage_keeps ?_ | with_reducible refine dropPage_keeps ?_ | split)

theorem frameFound_keeps {P : List Instr} {m : MemId} {a : Nat} {result : ScrubResult} {s : State} (hk : Kp P s.pending s.mems) :
    Kp P (frameFound m a result s).pending (frameFound m a result s).mems := by
  unfold frameFound
  repeat' (first | with_reducible assumption | intro _ | dsimp only | exact kp_bad (by assumption) | with_reducible refine bump_keeps ?_ | split)

theorem execMigrationWritebackComplete_keeps {P : List Instr} {ks record : Nat} {result : ScrubResult} {s sNext : State} (hx : execMigrationWritebackComplete ks record result s = .next sNext) (hk : Kp P s.pending s.mems) :
    Kp P sNext.pending sNext.mems := by
  unfold execMigrationWritebackComplete at hx
  injection hx with hx
  subst hx
  repeat' (first | with_reducible assumption | intro _ | dsimp only | with_reducible refine failRec_keeps ?_ | with_reducible refine writeBack_keeps ?_ | with_reducible refine frameFound_keeps ?_ | with_reducible refine modPage_keeps ?_ | with_reducible refine dropPage_keeps ?_ | with_reducible refine modRec_keeps ?_ | split)

theorem execMigrationReadComplete_keeps {P : List Instr} {ks record : Nat} {poisoned : Bool} {s sNext : State} (hx : execMigrationReadComplete ks record poisoned s = .next sNext) (hk : Kp P s.pending s.mems) :
    Kp P sNext.pending sNext.mems := by
  unfold execMigrationReadComplete at hx
  injection hx with hx
  subst hx
  repeat' (first | with_reducible assumption | intro _ | dsimp only | with_reducible refine failRec_keeps ?_ | with_reducible refine memEvent_keeps ?_ | with_reducible refine recDone_keeps ?_ | with_reducible refine loadPage_keeps ?_ | split)

theorem afterReset_keeps {P : List Instr} {power : Bool} {cause : Nat} {s : State} (hk : Kp P s.pending s.mems) :
    Kp P (afterReset power cause s).pending (afterReset power cause s).mems := by
  obtain ⟨h1, h2⟩ := hk
  simp only [memsOk, Bool.and_eq_true] at h2
  unfold afterReset
  refine ⟨h1, ?_⟩
  cases power <;> simp_all [memsOk, mwf]

theorem sayGoingDown_keeps {P : List Instr} {s : State} (hk : Kp P s.pending s.mems) :
    Kp P (sayGoingDown s).pending (sayGoingDown s).mems := by
  unfold sayGoingDown
  repeat' (first | with_reducible assumption | intro _ | dsimp only | with_reducible refine advanceTo_keeps ?_ | with_reducible refine foldS_keeps _ _ ?_ ?_ | with_reducible refine outEmit_keeps ?_ | split)

theorem resetModule_keeps {P : List Instr} {cause : Nat} {s : State} (hk : Kp P s.pending s.mems) :
    Kp P (resetModule cause s).pending (resetModule cause s).mems := by
  unfold resetModule
  repeat' (first | with_reducible assumption | intro _ | dsimp only | with_reducible refine afterReset_keeps ?_ | with_reducible refine sayGoingDown_keeps ?_ | split)

theorem powerReset_keeps {P : List Instr} {s : State} (hk : Kp P s.pending s.mems) :
    Kp P (powerReset s).pending (powerReset s).mems := by
  unfold powerReset
  repeat' (first | with_reducible assumption | intro _ | dsimp only | with_reducible refine afterReset_keeps ?_ | split)

theorem execPowerOnReset_keeps {P : List Instr} {s sNext : State} (hx : execPowerOnReset s = .next sNext) (hk : Kp P s.pending s.mems) :
    Kp P sNext.pending sNext.mems := by
  unfold execPowerOnReset at hx
  injection hx with hx
  subst hx
  repeat' (first | with_reducible assumption | intro _ | dsimp only | with_reducible refine powerReset_keeps ?_ | split)

theorem execModuleReset_keeps {P : List Instr} {cause : Nat} {s sNext : State} (hx : execModuleReset cause s = .next sNext) (hk : Kp P s.pending s.mems) :
    Kp P sNext.pending sNext.mems := by
  unfold execModuleReset at hx
  injection hx with hx
  subst hx
  repeat' (first | with_reducible assumption | intro _ | dsimp only | with_reducible refine resetModule_keeps ?_ | split)

theorem bootImage_keeps {P : List Instr} {s : State} (hk : Kp P s.pending s.mems) :
    Kp P (bootImage s).pending (bootImage s).mems := by
  unfold bootImage
  repeat' (first | with_reducible assumption | intro _ | dsimp only | split)

theorem rollbackCommit_keeps {P : List Instr} {s : State} (hk : Kp P s.pending s.mems) :
    Kp P (rollbackCommit s).pending (rollbackCommit s).mems := by
  unfold rollbackCommit
  repeat' (first | with_reducible assumption | intro _ | dsimp only | split)

theorem beginStep_keeps {P : List Instr} {n : Nat} {s : State} (hk : Kp P s.pending s.mems) :
    Kp P (beginStep n s).pending (beginStep n s).mems := by
  unfold beginStep
  repeat' (first | with_reducible assumption | intro _ | dsimp only | split)

theorem stepRestore_keeps {P : List Instr} {s : State} (hk : Kp P s.pending s.mems) :
    Kp P (stepRestore s).pending (stepRestore s).mems := by
  unfold stepRestore
  repeat' (first | with_reducible assumption | intro _ | dsimp only | with_reducible refine rollbackCommit_keeps ?_ | split)

theorem stepZero_keeps {P : List Instr} {s : State} (hk : Kp P s.pending s.mems) :
    Kp P (stepZero s).pending (stepZero s).mems := by
  obtain ⟨h1, h2⟩ := hk
  simp only [memsOk, Bool.and_eq_true] at h2
  unfold stepZero
  refine foldS_keeps _ _ (fun _ _ h => modDie_keeps h) ⟨h1, ?_⟩
  simp_all [memsOk, mwf]

theorem ownPosition_keeps {P : List Instr} {s : State} (hk : Kp P s.pending s.mems) :
    Kp P (ownPosition s).pending (ownPosition s).mems := by
  unfold ownPosition
  repeat' (first | with_reducible assumption | intro _ | dsimp only | with_reducible refine takePosition_keeps ?_ | split)

theorem stepDone_keeps {P : List Instr} {ok : Bool} {s : State} (hk : Kp P s.pending s.mems) :
    Kp P (stepDone ok s).pending (stepDone ok s).mems := by
  unfold stepDone
  repeat' (first | with_reducible assumption | intro _ | dsimp only | with_reducible refine beginStep_keeps ?_ | with_reducible refine bootImage_keeps ?_ | with_reducible refine stepRestore_keeps ?_ | with_reducible refine goFatal_keeps ?_ | with_reducible refine stepZero_keeps ?_ | with_reducible refine ownPosition_keeps ?_ | split)

theorem execStartupStepComplete_keeps {P : List Instr} {o : StepOutcome} {s sNext : State} (hx : execStartupStepComplete o s = .next sNext) (hk : Kp P s.pending s.mems) :
    Kp P sNext.pending sNext.mems := by
  unfold execStartupStepComplete at hx
  injection hx with hx
  subst hx
  repeat' (first | with_reducible assumption | intro _ | dsimp only | with_reducible refine stepDone_keeps ?_ | split)

theorem execPositionWaitExpiry_keeps {P : List Instr} {s sNext : State} (hx : execPositionWaitExpiry s = .next sNext) (hk : Kp P s.pending s.mems) :
    Kp P sNext.pending sNext.mems := by
  unfold execPositionWaitExpiry at hx
  injection hx with hx
  subst hx
  repeat' (first | with_reducible assumption | intro _ | dsimp only | with_reducible refine beginStep_keeps ?_ | with_reducible refine advanceTo_keeps ?_ | split)

theorem execFatalAutoResetExpiry_keeps {P : List Instr} {s sNext : State} (hx : execFatalAutoResetExpiry s = .next sNext) (hk : Kp P s.pending s.mems) :
    Kp P sNext.pending sNext.mems := by
  unfold execFatalAutoResetExpiry at hx
  injection hx with hx
  subst hx
  repeat' (first | with_reducible assumption | intro _ | dsimp only | with_reducible refine resetModule_keeps ?_ | with_reducible refine advanceTo_keeps ?_ | split)

theorem firmwareLost_keeps {P : List Instr} {s : State} (hk : Kp P s.pending s.mems) :
    Kp P (firmwareLost s).pending (firmwareLost s).mems := by
  unfold firmwareLost
  repeat' (first | with_reducible assumption | intro _ | dsimp only | split)

theorem execWatchdogExpiry_keeps {P : List Instr} {s sNext : State} (hx : execWatchdogExpiry s = .next sNext) (hk : Kp P s.pending s.mems) :
    Kp P sNext.pending sNext.mems := by
  unfold execWatchdogExpiry at hx
  injection hx with hx
  subst hx
  repeat' (first | with_reducible assumption | intro _ | dsimp only | with_reducible refine bump_keeps ?_ | with_reducible refine logFault_keeps ?_ | with_reducible refine resetModule_keeps ?_ | with_reducible refine firmwareLost_keeps ?_ | split)

theorem execFirmwareRestartEnd_keeps {P : List Instr} {s sNext : State} (hx : execFirmwareRestartEnd s = .next sNext) (hk : Kp P s.pending s.mems) :
    Kp P sNext.pending sNext.mems := by
  unfold execFirmwareRestartEnd at hx
  injection hx with hx
  subst hx
  repeat' (first | with_reducible assumption | intro _ | dsimp only | split)

theorem execD2dCrcFailure_keeps {P : List Instr} {link : D2dLink} {s sNext : State} (hx : execD2dCrcFailure link s = .next sNext) (hk : Kp P s.pending s.mems) :
    Kp P sNext.pending sNext.mems := by
  unfold execD2dCrcFailure at hx
  injection hx with hx
  subst hx
  repeat' (first | with_reducible assumption | intro _ | dsimp only | with_reducible refine bump_keeps ?_ | split)

theorem execD2dFailureTimeout_keeps {P : List Instr} {link : D2dLink} {s sNext : State} (hx : execD2dFailureTimeout link s = .next sNext) (hk : Kp P s.pending s.mems) :
    Kp P sNext.pending sNext.mems := by
  unfold execD2dFailureTimeout at hx
  injection hx with hx
  subst hx
  repeat' (first | with_reducible assumption | intro _ | dsimp only | with_reducible refine goFatal_keeps ?_ | split)

theorem loseEntries_keeps {P : List Instr} {q : QRef} {s : State} (hk : Kp P s.pending s.mems) :
    Kp P (loseEntries q s).pending (loseEntries q s).mems := by
  unfold loseEntries
  repeat' (first | with_reducible assumption | intro _ | dsimp only | with_reducible refine foldS_keeps _ _ ?_ ?_ | with_reducible refine complete_keeps ?_ | with_reducible refine bump_keeps ?_ | split)

theorem dropHostWrites_keeps {P : List Instr} {s : State} (hk : Kp P s.pending s.mems) :
    Kp P (dropHostWrites s).pending (dropHostWrites s).mems := by
  unfold dropHostWrites
  repeat' (first | with_reducible assumption | intro _ | dsimp only | split)

theorem loseMove_keeps {P : List Instr} {core : Nat} {s : State} (hk : Kp P s.pending s.mems) :
    Kp P (loseMove core s).pending (loseMove core s).mems := by
  unfold loseMove
  repeat' (first | with_reducible assumption | intro _ | dsimp only | with_reducible refine trapCore_keeps ?_ | with_reducible refine bump_keeps ?_ | split)

theorem loseMigrations_keeps {P : List Instr} {ks : Nat} {s : State} (hk : Kp P s.pending s.mems) :
    Kp P (loseMigrations ks s).pending (loseMigrations ks s).mems := by
  unfold loseMigrations
  repeat' (first | with_reducible assumption | intro _ | dsimp only | with_reducible refine foldS_keeps _ _ ?_ ?_ | with_reducible refine failRec_keeps ?_ | with_reducible refine bump_keeps ?_ | split)

theorem loseParked_keeps {P : List Instr} {s : State} (hk : Kp P s.pending s.mems) :
    Kp P (loseParked s).pending (loseParked s).mems := by
  unfold loseParked
  repeat' (first | with_reducible assumption | intro _ | dsimp only | with_reducible refine dropForHost_keeps ?_ | split)

theorem abandonHost_keeps {P : List Instr} {s : State} (hk : Kp P s.pending s.mems) :
    Kp P (abandonHost s).pending (abandonHost s).mems := by
  unfold abandonHost
  repeat' (first | with_reducible assumption | intro _ | dsimp only | with_reducible refine foldS_keeps _ _ ?_ ?_ | with_reducible refine loseEntries_keeps ?_ | with_reducible refine dropHostWrites_keeps ?_ | with_reducible refine loseMove_keeps ?_ | with_reducible refine loseParked_keeps ?_ | with_reducible refine loseMigrations_keeps ?_ | split)

theorem noteLoss_keeps {P : List Instr} {s : State} (hk : Kp P s.pending s.mems) :
    Kp P (noteLoss s).pending (noteLoss s).mems := by
  unfold noteLoss
  repeat' (first | with_reducible assumption | intro _ | dsimp only | with_reducible refine bump_keeps ?_ | with_reducible refine emergency_keeps ?_ | split)

theorem hostLoss_keeps {P : List Instr} {s : State} (hk : Kp P s.pending s.mems) :
    Kp P (hostLoss s).pending (hostLoss s).mems := by
  unfold hostLoss
  repeat' (first | with_reducible assumption | intro _ | dsimp only | with_reducible refine noteLoss_keeps ?_ | with_reducible refine resetModule_keeps ?_ | with_reducible refine abandonHost_keeps ?_ | split)

theorem linkGone_keeps {P : List Instr} {s : State} (hk : Kp P s.pending s.mems) :
    Kp P (linkGone s).pending (linkGone s).mems := by
  unfold linkGone
  repeat' (first | with_reducible assumption | intro _ | dsimp only | split)

theorem execHostDataLinkDown_keeps {P : List Instr} {s sNext : State} (hx : execHostDataLinkDown s = .next sNext) (hk : Kp P s.pending s.mems) :
    Kp P sNext.pending sNext.mems := by
  unfold execHostDataLinkDown at hx
  injection hx with hx
  subst hx
  repeat' (first | with_reducible assumption | intro _ | dsimp only | with_reducible refine hostLoss_keeps ?_ | with_reducible refine linkGone_keeps ?_ | split)

theorem execHostDataLinkUp_keeps {P : List Instr} {x16 gt64 : Bool} {s sNext : State} (hx : execHostDataLinkUp x16 gt64 s = .next sNext) (hk : Kp P s.pending s.mems) :
    Kp P sNext.pending sNext.mems := by
  unfold execHostDataLinkUp at hx
  injection hx with hx
  subst hx
  repeat' (first | with_reducible assumption | intro _ | dsimp only | split)

theorem execPerstAssert_keeps {P : List Instr} {s sNext : State} (hx : execPerstAssert s = .next sNext) (hk : Kp P s.pending s.mems) :
    Kp P sNext.pending sNext.mems := by
  unfold execPerstAssert at hx
  injection hx with hx
  subst hx
  repeat' (first | with_reducible assumption | intro _ | dsimp only | with_reducible refine linkGone_keeps ?_ | with_reducible refine hostLoss_keeps ?_ | split)

theorem execPerstDeassert_keeps {P : List Instr} {s sNext : State} (hx : execPerstDeassert s = .next sNext) (hk : Kp P s.pending s.mems) :
    Kp P sNext.pending sNext.mems := by
  unfold execPerstDeassert at hx
  injection hx with hx
  subst hx
  repeat' (first | with_reducible assumption | intro _ | dsimp only | split)

theorem writeHeld_keeps {P : List Instr} {fn : Nat} {s : State} (hk : Kp P s.pending s.mems) :
    Kp P (writeHeld fn s).pending (writeHeld fn s).mems := by
  unfold writeHeld
  repeat' (first | with_reducible assumption | intro _ | dsimp only | with_reducible refine foldS_keeps _ _ ?_ ?_ | with_reducible refine drainHeld_keeps ?_ | split)

theorem attachResume_keeps {P : List Instr} {s : State} (hk : Kp P s.pending s.mems) :
    Kp P (attachResume s).pending (attachResume s).mems := by
  unfold attachResume
  with_reducible refine roundsOn_keeps (roundsOn_keeps (foldS_keeps _ _ (fun q t h => ?_)
    (foldS_keeps _ _ (fun q t h => ?_) ?_)))
  · with_reducible exact serveAdmin_keeps h
  · exact writeHeld_keeps h
  · exact hk

theorem execHostAttachResume_keeps {P : List Instr} {s sNext : State} (hx : execHostAttachResume s = .next sNext) (hk : Kp P s.pending s.mems) :
    Kp P sNext.pending sNext.mems := by
  unfold execHostAttachResume at hx
  injection hx with hx
  subst hx
  repeat' (first | with_reducible assumption | intro _ | dsimp only | with_reducible refine attachResume_keeps ?_ | split)

theorem discardHeld_keeps {P : List Instr} {fn ring : Nat} {s : State} (hk : Kp P s.pending s.mems) :
    Kp P (discardHeld fn ring s).pending (discardHeld fn ring s).mems := by
  unfold discardHeld
  repeat' (first | with_reducible assumption | intro _ | dsimp only | with_reducible refine setCq_keeps ?_ | with_reducible refine bump_keeps ?_ | split)

theorem discardAll_keeps {P : List Instr} {fn : Nat} {s : State} (hk : Kp P s.pending s.mems) :
    Kp P (discardAll fn s).pending (discardAll fn s).mems := by
  unfold discardAll
  repeat' (first | with_reducible assumption | intro _ | dsimp only | with_reducible refine foldS_keeps _ _ ?_ ?_ | with_reducible refine discardHeld_keeps ?_ | split)

theorem freshFn_keeps {P : List Instr} {fn : Nat} {s : State} (hk : Kp P s.pending s.mems) :
    Kp P (freshFn fn s).pending (freshFn fn s).mems := by
  unfold freshFn
  repeat' (first | with_reducible assumption | intro _ | dsimp only | with_reducible refine foldS_keeps _ _ ?_ ?_ | with_reducible refine dropSeg_keeps ?_ | with_reducible refine modFn_keeps ?_ | split)

theorem freshPort_keeps {P : List Instr} {p : Nat} {s : State} (hk : Kp P s.pending s.mems) :
    Kp P (freshPort p s).pending (freshPort p s).mems := by
  unfold freshPort
  repeat' (first | with_reducible assumption | intro _ | dsimp only | with_reducible refine modPort_keeps ?_ | split)

theorem attachFresh_keeps {P : List Instr} {s : State} (hk : Kp P s.pending s.mems) :
    Kp P (attachFresh s).pending (attachFresh s).mems := by
  unfold attachFresh
  repeat' (first | with_reducible assumption | intro _ | dsimp only | with_reducible refine foldS_keeps _ _ ?_ ?_ | with_reducible refine discardAll_keeps ?_ | with_reducible refine dropQp_keeps ?_ | with_reducible refine endQueue_keeps ?_ | with_reducible refine freshFn_keeps ?_ | with_reducible refine freshPort_keeps ?_ | split)

theorem execHostAttachFresh_keeps {P : List Instr} {s sNext : State} (hx : execHostAttachFresh s = .next sNext) (hk : Kp P s.pending s.mems) :
    Kp P sNext.pending sNext.mems := by
  unfold execHostAttachFresh at hx
  injection hx with hx
  subst hx
  repeat' (first | with_reducible assumption | intro _ | dsimp only | with_reducible refine attachFresh_keeps ?_ | split)

theorem execCxlCompletionTimeout_keeps {P : List Instr} {a : HostAccess} {s sNext : State} (hx : execCxlCompletionTimeout a s = .next sNext) (hk : Kp P s.pending s.mems) :
    Kp P sNext.pending sNext.mems := by
  unfold execCxlCompletionTimeout at hx
  injection hx with hx
  subst hx
  repeat' (first | with_reducible assumption | intro _ | dsimp only | with_reducible refine vdevCause_keeps ?_ | with_reducible refine setVop_keeps ?_ | with_reducible refine bump_keeps ?_ | with_reducible refine complete_keeps ?_ | with_reducible refine failRec_keeps ?_ | with_reducible refine dropForHost_keeps ?_ | split)

theorem execSnoopReceive_keeps {P : List Instr} {line : Nat} {s sNext : State} (hx : execSnoopReceive line s = .next sNext) (hk : Kp P s.pending s.mems) :
    Kp P sNext.pending sNext.mems := by
  unfold execSnoopReceive at hx
  injection hx with hx
  subst hx
  repeat' (first | with_reducible assumption | intro _ | dsimp only | with_reducible refine outEmit_keeps ?_ | split)

theorem resetPf_keeps {P : List Instr} {s : State} (hk : Kp P s.pending s.mems) :
    Kp P (resetPf s).pending (resetPf s).mems := by
  unfold resetPf
  repeat' (first | with_reducible assumption | intro _ | dsimp only | with_reducible refine foldS_keeps _ _ ?_ ?_ | with_reducible refine endQueue_keeps ?_ | with_reducible refine endDrains_keeps ?_ | with_reducible refine resetFn_keeps ?_ | with_reducible refine modFn_keeps ?_ | split)

theorem execPfFlr_keeps {P : List Instr} {s sNext : State} (hx : execPfFlr s = .next sNext) (hk : Kp P s.pending s.mems) :
    Kp P sNext.pending sNext.mems := by
  unfold execPfFlr at hx
  injection hx with hx
  subst hx
  repeat' (first | with_reducible assumption | intro _ | dsimp only | with_reducible refine hostLoss_keeps ?_ | with_reducible refine resetPf_keeps ?_ | split)

theorem xwWrite_keeps {P : List Instr} {v : Nat} {s : State} (hk : Kp P s.pending s.mems) :
    Kp P (xwWrite v s).pending (xwWrite v s).mems := by
  unfold xwWrite
  repeat' (first | with_reducible assumption | intro _ | dsimp only | with_reducible refine modFn_keeps ?_ | split)

theorem execExchangeWindowEnable_keeps {P : List Instr} {value : W32} {s sNext : State} (hx : execExchangeWindowEnable value s = .next sNext) (hk : Kp P s.pending s.mems) :
    Kp P sNext.pending sNext.mems := by
  unfold execExchangeWindowEnable at hx
  injection hx with hx
  subst hx
  repeat' (first | with_reducible assumption | intro _ | dsimp only | with_reducible refine xwWrite_keeps ?_ | split)

theorem setPoint_keeps {P : List Instr} {d k : Nat} {s : State} (hk : Kp P s.pending s.mems) :
    Kp P (setPoint d k s).pending (setPoint d k s).mems := by
  unfold setPoint
  repeat' (first | with_reducible assumption | intro _ | dsimp only | with_reducible refine modDie_keeps ?_ | with_reducible refine bump_keeps ?_ | split)

theorem execOpChangeComplete_keeps {P : List Instr} {die : Nat} {s sNext : State} (hx : execOpChangeComplete die s = .next sNext) (hk : Kp P s.pending s.mems) :
    Kp P sNext.pending sNext.mems := by
  unfold execOpChangeComplete at hx
  injection hx with hx
  subst hx
  repeat' (first | with_reducible assumption | intro _ | dsimp only | with_reducible refine modDie_keeps ?_ | with_reducible refine setPoint_keeps ?_ | split)

theorem touchLearn_keeps {P : List Instr} {d key : Nat} {s : State} (hk : Kp P s.pending s.mems) :
    Kp P (touchLearn d key s).pending (touchLearn d key s).mems := by
  unfold touchLearn
  repeat' (first | with_reducible assumption | intro _ | dsimp only | with_reducible refine modDie_keeps ?_ | with_reducible refine drawn_keeps ?_ | split)

theorem learnProbe_keeps {P : List Instr} {d hi lo key : Nat} {s : State} (hk : Kp P s.pending s.mems) :
    Kp P (learnProbe d hi lo key s).pending (learnProbe d hi lo key s).mems := by
  unfold learnProbe
  repeat' (first | with_reducible assumption | intro _ | dsimp only | with_reducible refine drawn_keeps ?_ | with_reducible refine modDie_keeps ?_ | split)

theorem probeEnd_keeps {P : List Instr} {d : Nat} {s : State} (hk : Kp P s.pending s.mems) :
    Kp P (probeEnd d s).pending (probeEnd d s).mems := by
  unfold probeEnd
  repeat' (first | with_reducible assumption | intro _ | dsimp only | with_reducible refine modDie_keeps ?_ | with_reducible refine foldS_keeps _ _ ?_ ?_ | with_reducible refine learnProbe_keeps ?_ | split)

theorem voidProbe_keeps {P : List Instr} {d : Nat} {s : State} (hk : Kp P s.pending s.mems) :
    Kp P (voidProbe d s).pending (voidProbe d s).mems := by
  unfold voidProbe
  repeat' (first | with_reducible assumption | intro _ | dsimp only | with_reducible refine modDie_keeps ?_ | split)

theorem execProbeIntervalExpiry_keeps {P : List Instr} {die : Nat} {s sNext : State} (hx : execProbeIntervalExpiry die s = .next sNext) (hk : Kp P s.pending s.mems) :
    Kp P sNext.pending sNext.mems := by
  unfold execProbeIntervalExpiry at hx
  injection hx with hx
  subst hx
  repeat' (first | with_reducible assumption | intro _ | dsimp only | with_reducible refine modDie_keeps ?_ | split)

theorem applyPoints_keeps {P : List Instr} {d : Nat} {ps : List Nat} {s : State} (hk : Kp P s.pending s.mems) :
    Kp P (applyPoints d ps s).pending (applyPoints d ps s).mems := by
  induction ps generalizing d s with
  | nil => exact hk
  | cons p ps ih =>
    unfold applyPoints
    dsimp only
    refine ih ?_
    split
    · with_reducible exact setPoint_keeps (modDie_keeps hk)
    · with_reducible exact setPoint_keeps (modDie_keeps hk)

theorem powerEvent_keeps {P : List Instr} {detail : Nat} {s : State} (hk : Kp P s.pending s.mems) :
    Kp P (powerEvent detail s).pending (powerEvent detail s).mems := by
  unfold powerEvent
  repeat' (first | with_reducible assumption | intro _ | dsimp only | with_reducible refine raiseEvent_keeps ?_ | split)

theorem doClear_keeps {P : List Instr} {s : State} (hk : Kp P s.pending s.mems) :
    Kp P (doClear s).pending (doClear s).mems := by
  unfold doClear
  repeat' (first | with_reducible assumption | intro _ | dsimp only | with_reducible refine powerEvent_keeps ?_ | split)

theorem execFallbackClear_keeps {P : List Instr} {s sNext : State} (hx : execFallbackClear s = .next sNext) (hk : Kp P s.pending s.mems) :
    Kp P sNext.pending sNext.mems := by
  unfold execFallbackClear at hx
  injection hx with hx
  subst hx
  repeat' (first | with_reducible assumption | intro _ | dsimp only | split)

theorem controlPeriod_keeps {P : List Instr} {s : State} (hk : Kp P s.pending s.mems) :
    Kp P (controlPeriod s).pending (controlPeriod s).mems := by
  unfold controlPeriod
  repeat' (first | with_reducible assumption | intro _ | dsimp only | with_reducible refine doClear_keeps ?_ | with_reducible refine foldS_keeps _ _ ?_ ?_ | with_reducible refine probeEnd_keeps ?_ | with_reducible refine touchLearn_keeps ?_ | with_reducible refine drawn_keeps ?_ | with_reducible refine bump_keeps ?_ | with_reducible refine applyPoints_keeps ?_ | split)

theorem execControlPeriod_keeps {P : List Instr} {s sNext : State} (hx : execControlPeriod s = .next sNext) (hk : Kp P s.pending s.mems) :
    Kp P sNext.pending sNext.mems := by
  unfold execControlPeriod at hx
  injection hx with hx
  subst hx
  repeat' (first | with_reducible assumption | intro _ | dsimp only | with_reducible refine controlPeriod_keeps ?_ | with_reducible refine advanceTo_keeps ?_ | split)

theorem addEnergy_keeps {P : List Instr} {key : Nat} {s : State} (hk : Kp P s.pending s.mems) :
    Kp P (addEnergy key s).pending (addEnergy key s).mems := by
  unfold addEnergy
  repeat' (first | with_reducible assumption | intro _ | dsimp only | with_reducible refine drawn_keeps ?_ | split)

theorem meterSample_keeps {P : List Instr} {watts : Nat} {s : State} (hk : Kp P s.pending s.mems) :
    Kp P (meterSample watts s).pending (meterSample watts s).mems := by
  unfold meterSample
  repeat' (first | with_reducible assumption | intro _ | dsimp only | with_reducible refine foldS_keeps _ _ ?_ ?_ | with_reducible refine addEnergy_keeps ?_ | with_reducible refine drawn_keeps ?_ | split)

theorem execMeterSample_keeps {P : List Instr} {watts : Nat} {s sNext : State} (hx : execMeterSample watts s = .next sNext) (hk : Kp P s.pending s.mems) :
    Kp P sNext.pending sNext.mems := by
  unfold execMeterSample at hx
  injection hx with hx
  subst hx
  repeat' (first | with_reducible assumption | intro _ | dsimp only | with_reducible refine meterSample_keeps ?_ | split)

theorem enterDisagree_keeps {P : List Instr} {s : State} (hk : Kp P s.pending s.mems) :
    Kp P (enterDisagree s).pending (enterDisagree s).mems := by
  unfold enterDisagree
  repeat' (first | with_reducible assumption | intro _ | dsimp only | with_reducible refine powerEvent_keeps ?_ | with_reducible refine bump_keeps ?_ | with_reducible refine logFault_keeps ?_ | split)

theorem enterFallback_keeps {P : List Instr} {s : State} (hk : Kp P s.pending s.mems) :
    Kp P (enterFallback s).pending (enterFallback s).mems := by
  unfold enterFallback
  repeat' (first | with_reducible assumption | intro _ | dsimp only | with_reducible refine powerEvent_keeps ?_ | with_reducible refine bump_keeps ?_ | with_reducible refine emergency_keeps ?_ | with_reducible refine logFault_keeps ?_ | split)

theorem leaveDisagree_keeps {P : List Instr} {s : State} (hk : Kp P s.pending s.mems) :
    Kp P (leaveDisagree s).pending (leaveDisagree s).mems := by
  unfold leaveDisagree
  repeat' (first | with_reducible assumption | intro _ | dsimp only | with_reducible refine powerEvent_keeps ?_ | split)

theorem execDisagreeHoldExpiry_keeps {P : List Instr} {s sNext : State} (hx : execDisagreeHoldExpiry s = .next sNext) (hk : Kp P s.pending s.mems) :
    Kp P sNext.pending sNext.mems := by
  unfold execDisagreeHoldExpiry at hx
  injection hx with hx
  subst hx
  repeat' (first | with_reducible assumption | intro _ | dsimp only | with_reducible refine leaveDisagree_keeps ?_ | with_reducible refine enterFallback_keeps ?_ | with_reducible refine enterDisagree_keeps ?_ | with_reducible refine doClear_keeps ?_ | split)

theorem execRefitComplete_keeps {P : List Instr} {s sNext : State} (hx : execRefitComplete s = .next sNext) (hk : Kp P s.pending s.mems) :
    Kp P sNext.pending sNext.mems := by
  unfold execRefitComplete at hx
  injection hx with hx
  subst hx
  repeat' (first | with_reducible assumption | intro _ | dsimp only | with_reducible refine foldS_keeps _ _ ?_ ?_ | with_reducible refine ledPut_keeps ?_ | with_reducible refine advanceTo_keeps ?_ | with_reducible refine powerEvent_keeps ?_ | split)

theorem attrRecord_keeps {P : List Instr} {kind fn phase energy total : Nat} {s : State} (hk : Kp P s.pending s.mems) :
    Kp P (attrRecord kind fn phase energy total s).pending (attrRecord kind fn phase energy total s).mems := by
  unfold attrRecord
  repeat' (first | with_reducible assumption | intro _ | dsimp only | with_reducible refine bump_keeps ?_ | with_reducible refine ringStore_keeps ?_ | split)

theorem execAttributionRecord_keeps {P : List Instr} {s sNext : State} (hx : execAttributionRecord s = .next sNext) (hk : Kp P s.pending s.mems) :
    Kp P sNext.pending sNext.mems := by
  unfold execAttributionRecord at hx
  injection hx with hx
  subst hx
  repeat' (first | with_reducible assumption | intro _ | dsimp only | with_reducible refine advanceTo_keeps ?_ | with_reducible refine foldS_keeps _ _ ?_ ?_ | with_reducible refine attrRecord_keeps ?_ | split)

theorem attrConfig_keeps {P : List Instr} {v : Nat} {s : State} (hk : Kp P s.pending s.mems) :
    Kp P (attrConfig v s).pending (attrConfig v s).mems := by
  unfold attrConfig
  repeat' (first | with_reducible assumption | intro _ | dsimp only | with_reducible refine ledPut_keeps ?_ | split)

theorem execDroopDetect_keeps {P : List Instr} {cluster : Nat} {s sNext : State} (hx : execDroopDetect cluster s = .next sNext) (hk : Kp P s.pending s.mems) :
    Kp P sNext.pending sNext.mems := by
  unfold execDroopDetect at hx
  injection hx with hx
  subst hx
  repeat' (first | with_reducible assumption | intro _ | dsimp only | with_reducible refine voidProbe_keeps ?_ | with_reducible refine bump_keeps ?_ | split)

theorem execDroopStretchEnd_keeps {P : List Instr} {cluster ns : Nat} {s sNext : State} (hx : execDroopStretchEnd cluster ns s = .next sNext) (hk : Kp P s.pending s.mems) :
    Kp P sNext.pending sNext.mems := by
  unfold execDroopStretchEnd at hx
  injection hx with hx
  subst hx
  repeat' (first | with_reducible assumption | intro _ | dsimp only | with_reducible refine bump_keeps ?_ | split)

theorem throttleBegin_keeps {P : List Instr} {unit tj : Nat} {s : State} (hk : Kp P s.pending s.mems) :
    Kp P (throttleBegin unit tj s).pending (throttleBegin unit tj s).mems := by
  unfold throttleBegin
  repeat' (first | with_reducible assumption | intro _ | dsimp only | with_reducible refine bump_keeps ?_ | with_reducible refine logFault_keeps ?_ | with_reducible refine raiseEvent_keeps ?_ | with_reducible refine emergency_keeps ?_ | split)

theorem throttleEnd_keeps {P : List Instr} {unit tj : Nat} {s : State} (hk : Kp P s.pending s.mems) :
    Kp P (throttleEnd unit tj s).pending (throttleEnd unit tj s).mems := by
  unfold throttleEnd
  repeat' (first | with_reducible assumption | intro _ | dsimp only | with_reducible refine raiseEvent_keeps ?_ | split)

theorem execThermalCeilingStep_keeps {P : List Instr} {unit : Nat} {tj : Nat} {s sNext : State} (hx : execThermalCeilingStep unit tj s = .next sNext) (hk : Kp P s.pending s.mems) :
    Kp P sNext.pending sNext.mems := by
  unfold execThermalCeilingStep at hx
  injection hx with hx
  subst hx
  repeat' (first | with_reducible assumption | intro _ | dsimp only | with_reducible refine throttleBegin_keeps ?_ | with_reducible refine advanceTo_keeps ?_ | with_reducible refine foldS_keeps _ _ ?_ ?_ | with_reducible refine voidProbe_keeps ?_ | with_reducible refine modDie_keeps ?_ | with_reducible refine throttleEnd_keeps ?_ | split)

theorem execThermtrip_keeps {P : List Instr} {unit : Nat} {s sNext : State} (hx : execThermtrip unit s = .next sNext) (hk : Kp P s.pending s.mems) :
    Kp P sNext.pending sNext.mems := by
  unfold execThermtrip at hx
  injection hx with hx
  subst hx
  repeat' (first | with_reducible assumption | intro _ | dsimp only | with_reducible refine throttleBegin_keeps ?_ | with_reducible refine emergency_keeps ?_ | with_reducible refine logFault_keeps ?_ | split)

theorem dropCached_keeps {P : List Instr} {cores : List Nat} {s : State} (hk : Kp P s.pending s.mems) :
    Kp P (dropCached cores s).pending (dropCached cores s).mems := by
  unfold dropCached
  repeat' (first | with_reducible assumption | intro _ | dsimp only | split)

theorem clusterOff_keeps {P : List Instr} {n : Nat} {s : State} (hk : Kp P s.pending s.mems) :
    Kp P (clusterOff n s).pending (clusterOff n s).mems := by
  unfold clusterOff
  repeat' (first | with_reducible assumption | intro _ | dsimp only | with_reducible refine foldS_keeps _ _ ?_ ?_ | with_reducible refine modCore_keeps ?_ | with_reducible refine memZero_keeps ?_ | with_reducible refine dropCached_keeps ?_ | split)

theorem dieOff_keeps {P : List Instr} {d : Nat} {s : State} (hk : Kp P s.pending s.mems) :
    Kp P (dieOff d s).pending (dieOff d s).mems := by
  unfold dieOff
  repeat' (first | with_reducible assumption | intro _ | dsimp only | with_reducible refine foldS_keeps _ _ ?_ ?_ | with_reducible refine modCore_keeps ?_ | with_reducible refine memZero_keeps ?_ | with_reducible refine modDie_keeps ?_ | with_reducible refine dropCached_keeps ?_ | split)

theorem execIdleStateEntry_keeps {P : List Instr} {u : PowerUnit} {s sNext : State} (hx : execIdleStateEntry u s = .next sNext) (hk : Kp P s.pending s.mems) :
    Kp P sNext.pending sNext.mems := by
  unfold execIdleStateEntry at hx
  injection hx with hx
  subst hx
  repeat' (first | with_reducible assumption | intro _ | dsimp only | with_reducible refine modCore_keeps ?_ | with_reducible refine clusterOff_keeps ?_ | with_reducible refine dieOff_keeps ?_ | split)

theorem clusterOn_keeps {P : List Instr} {n : Nat} {s : State} (hk : Kp P s.pending s.mems) :
    Kp P (clusterOn n s).pending (clusterOn n s).mems := by
  unfold clusterOn
  repeat' (first | with_reducible assumption | intro _ | dsimp only | with_reducible refine foldS_keeps _ _ ?_ ?_ | with_reducible refine bankOn_keeps ?_ | with_reducible refine modCore_keeps ?_ | with_reducible refine memZero_keeps ?_ | split)

theorem pumpAll_keeps {P : List Instr} {s : State} (hk : Kp P s.pending s.mems) :
    Kp P (pumpAll s).pending (pumpAll s).mems := by
  unfold pumpAll
  repeat' (first | with_reducible assumption | intro _ | dsimp only | with_reducible refine foldS_keeps _ _ ?_ ?_ | with_reducible refine pump_keeps ?_ | split)

theorem execUnitWakeComplete_keeps {P : List Instr} {u : PowerUnit} {s sNext : State} (hx : execUnitWakeComplete u s = .next sNext) (hk : Kp P s.pending s.mems) :
    Kp P sNext.pending sNext.mems := by
  unfold execUnitWakeComplete at hx
  injection hx with hx
  subst hx
  repeat' (first | with_reducible assumption | intro _ | dsimp only | with_reducible refine modCore_keeps ?_ | with_reducible refine bankOn_keeps ?_ | with_reducible refine clusterOn_keeps ?_ | with_reducible refine modDie_keeps ?_ | with_reducible refine pumpAll_keeps ?_ | with_reducible refine foldS_keeps _ _ ?_ ?_ | with_reducible refine bump_keeps ?_ | split)

theorem wakeFn_keeps {P : List Instr} {f : Nat} {s : State} (hk : Kp P s.pending s.mems) :
    Kp P (wakeFn f s).pending (wakeFn f s).mems := by
  unfold wakeFn
  repeat' (first | with_reducible assumption | intro _ | dsimp only | with_reducible refine foldS_keeps _ _ ?_ ?_ | with_reducible refine wakeCore_keeps ?_ | split)

theorem modKeyPage_keeps {P : List Instr} {fn : Nat} {g : KeyPage → KeyPage} {s : State} (hk : Kp P s.pending s.mems) :
    Kp P (modKeyPage fn g s).pending (modKeyPage fn g s).mems := by
  unfold modKeyPage
  repeat' (first | with_reducible assumption | intro _ | dsimp only | with_reducible refine modFn_keeps ?_ | split)

theorem keyCmdWrite_keeps {P : List Instr} {fn op index : Nat} {s : State} (hk : Kp P s.pending s.mems) :
    Kp P (keyCmdWrite fn op index s).pending (keyCmdWrite fn op index s).mems := by
  unfold keyCmdWrite
  repeat' (first | with_reducible assumption | intro _ | dsimp only | with_reducible refine modKeyPage_keeps ?_ | split)

theorem execKeyInstallTransmit_keeps {P : List Instr} {fn index : Nat} {s sNext : State} (hx : execKeyInstallTransmit fn index s = .next sNext) (hk : Kp P s.pending s.mems) :
    Kp P sNext.pending sNext.mems := by
  unfold execKeyInstallTransmit at hx
  injection hx with hx
  subst hx
  repeat' (first | with_reducible assumption | intro _ | dsimp only | with_reducible refine keyCmdWrite_keeps ?_ | split)

theorem execKeyInstallReceive_keeps {P : List Instr} {fn index : Nat} {s sNext : State} (hx : execKeyInstallReceive fn index s = .next sNext) (hk : Kp P s.pending s.mems) :
    Kp P sNext.pending sNext.mems := by
  unfold execKeyInstallReceive at hx
  injection hx with hx
  subst hx
  repeat' (first | with_reducible assumption | intro _ | dsimp only | with_reducible refine keyCmdWrite_keeps ?_ | split)

theorem execKeyRemoveTransmit_keeps {P : List Instr} {fn index : Nat} {s sNext : State} (hx : execKeyRemoveTransmit fn index s = .next sNext) (hk : Kp P s.pending s.mems) :
    Kp P sNext.pending sNext.mems := by
  unfold execKeyRemoveTransmit at hx
  injection hx with hx
  subst hx
  repeat' (first | with_reducible assumption | intro _ | dsimp only | with_reducible refine keyCmdWrite_keeps ?_ | split)

theorem execKeyRemoveReceive_keeps {P : List Instr} {fn index : Nat} {s sNext : State} (hx : execKeyRemoveReceive fn index s = .next sNext) (hk : Kp P s.pending s.mems) :
    Kp P sNext.pending sNext.mems := by
  unfold execKeyRemoveReceive at hx
  injection hx with hx
  subst hx
  repeat' (first | with_reducible assumption | intro _ | dsimp only | with_reducible refine keyCmdWrite_keeps ?_ | split)

theorem keyApply_keeps {P : List Instr} {c : KeyCmd} {s : State} (hk : Kp P s.pending s.mems) :
    Kp P (keyApply c s).pending (keyApply c s).mems := by
  unfold keyApply
  repeat' (first | with_reducible assumption | intro _ | dsimp only | with_reducible refine drawn_keeps ?_ | with_reducible refine modKeyPage_keeps ?_ | split)

theorem execKeyCommandEnd_keeps {P : List Instr} {s sNext : State} (hx : execKeyCommandEnd s = .next sNext) (hk : Kp P s.pending s.mems) :
    Kp P sNext.pending sNext.mems := by
  unfold execKeyCommandEnd at hx
  injection hx with hx
  subst hx
  repeat' (first | with_reducible assumption | intro _ | dsimp only | with_reducible refine keyApply_keeps ?_ | with_reducible refine modKeyPage_keeps ?_ | with_reducible refine bump_keeps ?_ | split)

theorem wipeKeys_keeps {P : List Instr} {s : State} (hk : Kp P s.pending s.mems) :
    Kp P (wipeKeys s).pending (wipeKeys s).mems := by
  unfold wipeKeys
  repeat' (first | with_reducible assumption | intro _ | dsimp only | split)

theorem endAuthSession_keeps {P : List Instr} {s : State} (hk : Kp P s.pending s.mems) :
    Kp P (endAuthSession s).pending (endAuthSession s).mems := by
  unfold endAuthSession
  repeat' (first | with_reducible assumption | intro _ | dsimp only | split)

theorem endSpdm_keeps {P : List Instr} {s : State} (hk : Kp P s.pending s.mems) :
    Kp P (endSpdm s).pending (endSpdm s).mems := by
  unfold endSpdm
  repeat' (first | with_reducible assumption | intro _ | dsimp only | split)

theorem raiseAlarm_keeps {P : List Instr} {bit : Nat} {s : State} (hk : Kp P s.pending s.mems) :
    Kp P (raiseAlarm bit s).pending (raiseAlarm bit s).mems := by
  unfold raiseAlarm
  repeat' (first | with_reducible assumption | intro _ | dsimp only | with_reducible refine endSpdm_keeps ?_ | with_reducible refine endAuthSession_keeps ?_ | with_reducible refine wipeKeys_keeps ?_ | with_reducible refine logFault_keeps ?_ | with_reducible refine bump_keeps ?_ | with_reducible refine emergency_keeps ?_ | split)

theorem execAlarm_keeps {P : List Instr} {bit : Nat} {s sNext : State} (hx : execAlarm bit s = .next sNext) (hk : Kp P s.pending s.mems) :
    Kp P sNext.pending sNext.mems := by
  unfold execAlarm at hx
  injection hx with hx
  subst hx
  repeat' (first | with_reducible assumption | intro _ | dsimp only | with_reducible refine raiseAlarm_keeps ?_ | split)

theorem execSecureWipeEnd_keeps {P : List Instr} {s sNext : State} (hx : execSecureWipeEnd s = .next sNext) (hk : Kp P s.pending s.mems) :
    Kp P sNext.pending sNext.mems := by
  unfold execSecureWipeEnd at hx
  injection hx with hx
  subst hx
  repeat' (first | with_reducible assumption | intro _ | dsimp only | split)

theorem execLockRead_keeps {P : List Instr} {s sNext : State} (hx : execLockRead s = .next sNext) (hk : Kp P s.pending s.mems) :
    Kp P sNext.pending sNext.mems := by
  unfold execLockRead at hx
  injection hx with hx
  subst hx
  repeat' (first | with_reducible assumption | intro _ | dsimp only | with_reducible refine outEmit_keeps ?_ | with_reducible refine drawn_keeps ?_ | split)

theorem lockWrite_keeps {P : List Instr} {v : Nat} {s : State} (hk : Kp P s.pending s.mems) :
    Kp P (lockWrite v s).pending (lockWrite v s).mems := by
  unfold lockWrite
  repeat' (first | with_reducible assumption | intro _ | dsimp only | split)

theorem execLockRelease_keeps {P : List Instr} {token : W32} {s sNext : State} (hx : execLockRelease token s = .next sNext) (hk : Kp P s.pending s.mems) :
    Kp P sNext.pending sNext.mems := by
  unfold execLockRelease at hx
  injection hx with hx
  subst hx
  repeat' (first | with_reducible assumption | intro _ | dsimp only | with_reducible refine lockWrite_keeps ?_ | split)

theorem execLockTimeout_keeps {P : List Instr} {s sNext : State} (hx : execLockTimeout s = .next sNext) (hk : Kp P s.pending s.mems) :
    Kp P sNext.pending sNext.mems := by
  unfold execLockTimeout at hx
  injection hx with hx
  subst hx
  repeat' (first | with_reducible assumption | intro _ | dsimp only | with_reducible refine advanceTo_keeps ?_ | with_reducible refine bump_keeps ?_ | split)

theorem execDrbgReseed_keeps {P : List Instr} {s sNext : State} (hx : execDrbgReseed s = .next sNext) (hk : Kp P s.pending s.mems) :
    Kp P sNext.pending sNext.mems := by
  unfold execDrbgReseed at hx
  injection hx with hx
  subst hx
  repeat' (first | with_reducible assumption | intro _ | dsimp only | split)

theorem drawn4_keeps {P : List Instr} {s : State} (hk : Kp P s.pending s.mems) :
    Kp P (drawn4 s).pending (drawn4 s).mems := by
  unfold drawn4
  repeat' (first | with_reducible assumption | intro _ | dsimp only | split)

theorem spdmAnswer_keeps {P : List Instr} {code : Nat} {fields : List Byte} {s : State} (hk : Kp P s.pending s.mems) :
    Kp P (spdmAnswer code fields s).pending (spdmAnswer code fields s).mems := by
  unfold spdmAnswer
  repeat' (first | with_reducible assumption | intro _ | dsimp only | with_reducible refine outEmit_keeps ?_ | split)

theorem spdmServe_keeps {P : List Instr} {act : State → State} (Hact : ∀ t, Kp P t.pending t.mems → Kp P (act t).pending (act t).mems) {s : State} (hk : Kp P s.pending s.mems) :
    Kp P (spdmServe act s).pending (spdmServe act s).mems := by
  unfold spdmServe
  repeat' (first | with_reducible assumption | intro _ | dsimp only | with_reducible refine Hact _ ?_ | split)

theorem secureServe_keeps {P : List Instr} {act : State → State} (Hact : ∀ t, Kp P t.pending t.mems → Kp P (act t).pending (act t).mems) {s : State} (hk : Kp P s.pending s.mems) :
    Kp P (secureServe act s).pending (secureServe act s).mems := by
  unfold secureServe
  repeat' (first | with_reducible assumption | intro _ | dsimp only | with_reducible refine Hact _ ?_ | with_reducible refine spdmServe_keeps ?_ ?_ | split)

theorem spdmError_keeps {P : List Instr} {s : State} (hk : Kp P s.pending s.mems) :
    Kp P (spdmError s).pending (spdmError s).mems := by
  unfold spdmError
  repeat' (first | with_reducible assumption | intro _ | dsimp only | with_reducible refine spdmAnswer_keeps ?_ | split)

theorem execGetVersion_keeps {P : List Instr} {s sNext : State} (hx : execGetVersion s = .next sNext) (hk : Kp P s.pending s.mems) :
    Kp P sNext.pending sNext.mems := by
  unfold execGetVersion at hx
  injection hx with hx
  subst hx
  repeat' (first | with_reducible assumption | intro _ | dsimp only | with_reducible refine spdmServe_keeps ?_ ?_ | with_reducible refine spdmAnswer_keeps ?_ | split)

theorem execGetCapabilities_keeps {P : List Instr} {s sNext : State} (hx : execGetCapabilities s = .next sNext) (hk : Kp P s.pending s.mems) :
    Kp P sNext.pending sNext.mems := by
  unfold execGetCapabilities at hx
  injection hx with hx
  subst hx
  repeat' (first | with_reducible assumption | intro _ | dsimp only | with_reducible refine spdmServe_keeps ?_ ?_ | with_reducible refine spdmAnswer_keeps ?_ | split)

theorem execNegotiateAlgorithms_keeps {P : List Instr} {algs : Bytes} {s sNext : State} (hx : execNegotiateAlgorithms algs s = .next sNext) (hk : Kp P s.pending s.mems) :
    Kp P sNext.pending sNext.mems := by
  unfold execNegotiateAlgorithms at hx
  injection hx with hx
  subst hx
  repeat' (first | with_reducible assumption | intro _ | dsimp only | with_reducible refine spdmServe_keeps ?_ ?_ | with_reducible refine spdmAnswer_keeps ?_ | split)

theorem execGetDigests_keeps {P : List Instr} {s sNext : State} (hx : execGetDigests s = .next sNext) (hk : Kp P s.pending s.mems) :
    Kp P sNext.pending sNext.mems := by
  unfold execGetDigests at hx
  injection hx with hx
  subst hx
  repeat' (first | with_reducible assumption | intro _ | dsimp only | with_reducible refine spdmServe_keeps ?_ ?_ | with_reducible refine spdmAnswer_keeps ?_ | split)

theorem execGetCertificate_keeps {P : List Instr} {slot offset length : Nat} {s sNext : State} (hx : execGetCertificate slot offset length s = .next sNext) (hk : Kp P s.pending s.mems) :
    Kp P sNext.pending sNext.mems := by
  unfold execGetCertificate at hx
  injection hx with hx
  subst hx
  repeat' (first | with_reducible assumption | intro _ | dsimp only | with_reducible refine spdmServe_keeps ?_ ?_ | with_reducible refine spdmAnswer_keeps ?_ | with_reducible refine spdmError_keeps ?_ | split)

theorem execChallenge_keeps {P : List Instr} {slot : Nat} {nonce : Bytes} {s sNext : State} (hx : execChallenge slot nonce s = .next sNext) (hk : Kp P s.pending s.mems) :
    Kp P sNext.pending sNext.mems := by
  unfold execChallenge at hx
  injection hx with hx
  subst hx
  repeat' (first | with_reducible assumption | intro _ | dsimp only | with_reducible refine secureServe_keeps ?_ ?_ | with_reducible refine spdmError_keeps ?_ | with_reducible refine spdmAnswer_keeps ?_ | with_reducible refine drawn4_keeps ?_ | split)

theorem execGetMeasurements_keeps {P : List Instr} {index : Nat} {signed : Bool} {nonce : Bytes} {s sNext : State} (hx : execGetMeasurements index signed nonce s = .next sNext) (hk : Kp P s.pending s.mems) :
    Kp P sNext.pending sNext.mems := by
  unfold execGetMeasurements at hx
  injection hx with hx
  subst hx
  repeat' (first | with_reducible assumption | intro _ | dsimp only | with_reducible refine secureServe_keeps ?_ ?_ | with_reducible refine spdmServe_keeps ?_ ?_ | with_reducible refine spdmError_keeps ?_ | with_reducible refine spdmAnswer_keeps ?_ | with_reducible refine drawn4_keeps ?_ | split)

theorem execKeyExchange_keeps {P : List Instr} {peerKey : Bytes} {s sNext : State} (hx : execKeyExchange peerKey s = .next sNext) (hk : Kp P s.pending s.mems) :
    Kp P sNext.pending sNext.mems := by
  unfold execKeyExchange at hx
  injection hx with hx
  subst hx
  repeat' (first | with_reducible assumption | intro _ | dsimp only | with_reducible refine secureServe_keeps ?_ ?_ | with_reducible refine endSpdm_keeps ?_ | with_reducible refine spdmError_keeps ?_ | with_reducible refine drawn4_keeps ?_ | with_reducible refine spdmAnswer_keeps ?_ | split)

theorem execFinish_keeps {P : List Instr} {mac : Bytes} {s sNext : State} (hx : execFinish mac s = .next sNext) (hk : Kp P s.pending s.mems) :
    Kp P sNext.pending sNext.mems := by
  unfold execFinish at hx
  injection hx with hx
  subst hx
  repeat' (first | with_reducible assumption | intro _ | dsimp only | with_reducible refine secureServe_keeps ?_ ?_ | with_reducible refine spdmAnswer_keeps ?_ | with_reducible refine spdmError_keeps ?_ | with_reducible refine endSpdm_keeps ?_ | split)

theorem execEndSession_keeps {P : List Instr} {s sNext : State} (hx : execEndSession s = .next sNext) (hk : Kp P s.pending s.mems) :
    Kp P sNext.pending sNext.mems := by
  unfold execEndSession at hx
  injection hx with hx
  subst hx
  repeat' (first | with_reducible assumption | intro _ | dsimp only | with_reducible refine spdmServe_keeps ?_ ?_ | with_reducible refine spdmAnswer_keeps ?_ | with_reducible refine endSpdm_keeps ?_ | with_reducible refine spdmError_keeps ?_ | split)

theorem ledRead_keeps {P : List Instr} {index sub : Nat} {s : State} (hk : Kp P s.pending s.mems) :
    Kp P (ledRead index sub s).2.pending (ledRead index sub s).2.mems := by
  unfold ledRead
  repeat' (first | with_reducible assumption | intro _ | dsimp only | with_reducible refine settlePaused_keeps ?_ | split)

theorem ledRead_eq {P : List Instr} {index sub : Nat} {s u : State} {w} (he : ledRead index sub s = (w, u)) (hk : Kp P s.pending s.mems) :
    Kp P u.pending u.mems := by
  have := ledRead_keeps (index := index) (sub := sub) hk; rw [he] at this; exact this

theorem zeroMemory_keeps {P : List Instr} {s : State} (hk : Kp P s.pending s.mems) :
    Kp P (zeroMemory s).pending (zeroMemory s).mems := by
  obtain ⟨h1, h2⟩ := hk
  simp only [memsOk, Bool.and_eq_true] at h2
  refine ⟨h1, ?_⟩
  simp_all [zeroMemory, memsOk, mwf]

theorem freshNonce_keeps {P : List Instr} {s : State} (hk : Kp P s.pending s.mems) :
    Kp P (freshNonce s).pending (freshNonce s).mems := by
  unfold freshNonce
  repeat' (first | with_reducible assumption | intro _ | dsimp only | split)

theorem lcMove_keeps {P : List Instr} {dest : LcState} {s : State} (hk : Kp P s.pending s.mems) :
    Kp P (lcMove dest s).pending (lcMove dest s).mems := by
  unfold lcMove
  repeat' (first | with_reducible assumption | intro _ | dsimp only | with_reducible refine zeroMemory_keeps ?_ | split)

theorem lcRequest_eq {P : List Instr} {b : Bytes} {c : Nat} {o : Option Nat} {s u : State}
    (he : lcRequest b s = (c, u, o)) (hk : Kp P s.pending s.mems) : Kp P u.pending u.mems := by
  unfold lcRequest at he
  split at he <;> cases he
  · exact freshNonce_keeps (bump_keeps hk)
  · exact lcMove_keeps (freshNonce_keeps hk)
  · exact freshNonce_keeps hk

theorem kekImport_eq {P : List Instr} {b : Bytes} {c : Nat} {o : Option Nat} {s u : State}
    (he : kekImport b s = (c, u, o)) (hk : Kp P s.pending s.mems) : Kp P u.pending u.mems := by
  unfold kekImport at he
  dsimp only at he
  repeat' split at he
  all_goals cases he
  all_goals exact hk

theorem ledHook_keeps {P : List Instr} {index sub : Nat} {old : Bytes} {before : List Nat} {s : State} (hk : Kp P s.pending s.mems) :
    Kp P (ledHook index sub old before s).pending (ledHook index sub old before s).mems := by
  unfold ledHook
  repeat' (first | with_reducible assumption | intro _ | dsimp only | with_reducible refine portDown_keeps ?_ | with_reducible refine flowCheck_keeps ?_ | with_reducible refine modPort_keeps ?_ | with_reducible refine restartVerify_keeps ?_ | with_reducible refine bondEnable_keeps ?_ | with_reducible refine ownPosition_keeps ?_ | with_reducible refine portListMoved_keeps ?_ | with_reducible refine foldS_keeps _ _ ?_ ?_ | with_reducible refine wakeFn_keeps ?_ | with_reducible refine attrConfig_keeps ?_ | split)

theorem ledApply_keeps {P : List Instr} {index sub : Nat} {b : Bytes} {persistent : Bool} {s : State} (hk : Kp P s.pending s.mems) :
    Kp P (ledApply index sub b persistent s).pending (ledApply index sub b persistent s).mems := by
  unfold ledApply
  repeat' (first | with_reducible assumption | intro _ | dsimp only | with_reducible refine ledHook_keeps ?_ | with_reducible refine ledCommit_keeps ?_ | with_reducible refine ledPut_keeps ?_ | with_reducible refine noteChange_keeps ?_ | split)

theorem ledWrite_eq {P : List Instr} {index sub : Nat} {b : Bytes} {c : Nat} {o : Option Nat} {s u : State}
    (he : ledWrite index sub b s = (c, u, o)) (hk : Kp P s.pending s.mems) : Kp P u.pending u.mems := by
  unfold ledWrite at he
  split at he
  · cases he; exact hk
  · cases he; exact hk
  · cases he; exact hk
  · exact lcRequest_eq he hk
  · exact kekImport_eq he hk
  · cases he; exact ledApply_keeps hk

theorem sendWaibor_keeps {P : List Instr} {h : WHeader} {mtype : Nat} {payload : Bytes} {s : State} (hk : Kp P s.pending s.mems) :
    Kp P (sendWaibor h mtype payload s).pending (sendWaibor h mtype payload s).mems := by
  unfold sendWaibor
  repeat' (first | with_reducible assumption | intro _ | dsimp only | with_reducible refine outEmit_keeps ?_ | split)

theorem respond_keeps {P : List Instr} {r : WReq} {payload : Bytes} {s : State} (hk : Kp P s.pending s.mems) :
    Kp P (respond r payload s).pending (respond r payload s).mems := by
  unfold respond
  repeat' (first | with_reducible assumption | intro _ | dsimp only | with_reducible refine sendWaibor_keeps ?_ | split)

theorem abortWith_keeps {P : List Instr} {r : WReq} {code : Nat} {s : State} (hk : Kp P s.pending s.mems) :
    Kp P (abortWith r code s).pending (abortWith r code s).mems := by
  unfold abortWith
  repeat' (first | with_reducible assumption | intro _ | dsimp only | with_reducible refine sendWaibor_keeps ?_ | with_reducible refine bump_keeps ?_ | split)

theorem readFor_keeps {P : List Instr} {r : WReq} {index sub : Nat} {s : State} (hk : Kp P s.pending s.mems) :
    Kp P (readFor r index sub s).2.pending (readFor r index sub s).2.mems := by
  unfold readFor
  repeat' (first | with_reducible assumption | intro _ | dsimp only | with_reducible refine ledRead_keeps ?_ | split)

theorem readFor_eq {P : List Instr} {r : WReq} {index sub : Nat} {s u : State} {w} (he : readFor r index sub s = (w, u))
    (hk : Kp P s.pending s.mems) : Kp P u.pending u.mems := by
  have := readFor_keeps (r := r) (index := index) (sub := sub) hk; rw [he] at this; exact this

theorem serveRead_keeps {P : List Instr} {r : WReq} {index sub : Nat} {s : State} (hk : Kp P s.pending s.mems) :
    Kp P (serveRead r index sub s).pending (serveRead r index sub s).mems := by
  unfold serveRead
  repeat' (first | with_reducible assumption | intro _ | dsimp only | with_reducible refine abortWith_keeps ?_ | with_reducible refine readFor_keeps ?_ | with_reducible refine readFor_eq (by assumption) ?_ | with_reducible refine respond_keeps ?_ | split)

theorem doWrite_keeps {P : List Instr} {r : WReq} {index sub : Nat} {b : Bytes} {seg : Bool} {s : State} (hk : Kp P s.pending s.mems) :
    Kp P (doWrite r index sub b seg s).pending (doWrite r index sub b seg s).mems := by
  unfold doWrite
  repeat' (first | with_reducible assumption | intro _ | dsimp only | with_reducible refine ledWrite_eq (by assumption) ?_ | with_reducible refine respond_keeps ?_ | with_reducible refine resetModule_keeps ?_ | with_reducible refine abortWith_keeps ?_ | split)

theorem serveWrite_keeps {P : List Instr} {r : WReq} {index sub vtype : Nat} {b : Bytes} {s : State} (hk : Kp P s.pending s.mems) :
    Kp P (serveWrite r index sub vtype b s).pending (serveWrite r index sub vtype b s).mems := by
  unfold serveWrite
  repeat' (first | with_reducible assumption | intro _ | dsimp only | with_reducible refine abortWith_keeps ?_ | with_reducible refine doWrite_keeps ?_ | split)

theorem serveReadSeg_keeps {P : List Instr} {r : WReq} {index sub offset : Nat} {s : State} (hk : Kp P s.pending s.mems) :
    Kp P (serveReadSeg r index sub offset s).pending (serveReadSeg r index sub offset s).mems := by
  unfold serveReadSeg
  dsimp only
  split
  · exact abortWith_keeps hk
  · split
    · exact abortWith_keeps hk
    · rename_i he
      refine respond_keeps ?_
      show Kp P _ _
      split at he
      · have h := readFor_eq (Option.some.inj he) hk
        exact h
      · split at he
        · split at he
          · cases he; exact hk
          · cases he
        · cases he

theorem setImage_keeps {P : List Instr} {sub : Nat} {b : Bytes} {s : State} (hk : Kp P s.pending s.mems) :
    Kp P (setImage sub b s).pending (setImage sub b s).mems := by
  unfold setImage
  repeat' (first | with_reducible assumption | intro _ | dsimp only | split)

theorem serveWriteInit_keeps {P : List Instr} {r : WReq} {index sub total : Nat} {s : State} (hk : Kp P s.pending s.mems) :
    Kp P (serveWriteInit r index sub total s).pending (serveWriteInit r index sub total s).mems := by
  unfold serveWriteInit
  repeat' (first | with_reducible assumption | intro _ | dsimp only | with_reducible refine abortWith_keeps ?_ | with_reducible refine setImage_keeps ?_ | with_reducible refine respond_keeps ?_ | split)

theorem finishSeg_keeps {P : List Instr} {r : WReq} {index sub : Nat} {b : Bytes} {s : State} (hk : Kp P s.pending s.mems) :
    Kp P (finishSeg r index sub b s).pending (finishSeg r index sub b s).mems := by
  unfold finishSeg
  repeat' (first | with_reducible assumption | intro _ | dsimp only | with_reducible refine respond_keeps ?_ | with_reducible refine setImage_keeps ?_ | with_reducible refine resetModule_keeps ?_ | with_reducible refine abortWith_keeps ?_ | with_reducible refine doWrite_keeps ?_ | split)

theorem serveWriteSeg_keeps {P : List Instr} {r : WReq} {index sub : Nat} {last : Bool} {offset : Nat} {data : Bytes} {s : State} (hk : Kp P s.pending s.mems) :
    Kp P (serveWriteSeg r index sub last offset data s).pending (serveWriteSeg r index sub last offset data s).mems := by
  unfold serveWriteSeg
  repeat' (first | with_reducible assumption | intro _ | dsimp only | with_reducible refine abortWith_keeps ?_ | with_reducible refine finishSeg_keeps ?_ | with_reducible refine respond_keeps ?_ | split)

theorem endSession_keeps {P : List Instr} {s : State} (hk : Kp P s.pending s.mems) :
    Kp P (endSession s).pending (endSession s).mems := by
  unfold endSession
  repeat' (first | with_reducible assumption | intro _ | dsimp only | split)

theorem serveOpen_keeps {P : List Instr} {r : WReq} {fieldKey : Bytes} {s : State} (hk : Kp P s.pending s.mems) :
    Kp P (serveOpen r fieldKey s).pending (serveOpen r fieldKey s).mems := by
  unfold serveOpen
  repeat' (first | with_reducible assumption | intro _ | dsimp only | with_reducible refine abortWith_keeps ?_ | with_reducible refine drawn4_keeps ?_ | with_reducible refine respond_keeps ?_ | split)

theorem serveAuth_keeps {P : List Instr} {r : WReq} {mode keyIndex : Nat} {proof : Bytes} {s : State} (hk : Kp P s.pending s.mems) :
    Kp P (serveAuth r mode keyIndex proof s).pending (serveAuth r mode keyIndex proof s).mems := by
  unfold serveAuth
  repeat' (first | with_reducible assumption | intro _ | dsimp only | with_reducible refine abortWith_keeps ?_ | with_reducible refine respond_keeps ?_ | with_reducible refine endSession_keeps ?_ | with_reducible refine bump_keeps ?_ | split)

theorem serveClose_keeps {P : List Instr} {r : WReq} {s : State} (hk : Kp P s.pending s.mems) :
    Kp P (serveClose r s).pending (serveClose r s).mems := by
  unfold serveClose
  repeat' (first | with_reducible assumption | intro _ | dsimp only | with_reducible refine endSession_keeps ?_ | with_reducible refine respond_keeps ?_ | with_reducible refine abortWith_keeps ?_ | split)

theorem sessionSpent_keeps {P : List Instr} {s : State} (hk : Kp P s.pending s.mems) :
    Kp P (sessionSpent s).pending (sessionSpent s).mems := by
  unfold sessionSpent
  repeat' (first | with_reducible assumption | intro _ | dsimp only | with_reducible refine endSession_keeps ?_ | split)

theorem serveOne_keeps {P : List Instr} {r : WReq} {s : State} (hk : Kp P s.pending s.mems) :
    Kp P (serveOne r s).pending (serveOne r s).mems := by
  unfold serveOne
  repeat' (first | with_reducible assumption | intro _ | dsimp only | with_reducible refine serveRead_keeps ?_ | with_reducible refine serveWrite_keeps ?_ | with_reducible refine serveReadSeg_keeps ?_ | with_reducible refine serveWriteInit_keeps ?_ | with_reducible refine serveWriteSeg_keeps ?_ | with_reducible refine serveOpen_keeps ?_ | with_reducible refine abortWith_keeps ?_ | with_reducible refine serveAuth_keeps ?_ | with_reducible refine serveClose_keeps ?_ | with_reducible refine malformed_keeps ?_ | split)

theorem serve_keeps {P : List Instr} {r : WReq} {s : State} (hk : Kp P s.pending s.mems) :
    Kp P (serve r s).pending (serve r s).mems := by
  unfold serve
  repeat' (first | with_reducible assumption | intro _ | dsimp only | with_reducible refine bump_keeps ?_ | with_reducible refine sessionSpent_keeps ?_ | with_reducible refine serveOne_keeps ?_ | split)

theorem serveFresh_keeps {P : List Instr} {r : WReq} {s : State} (hk : Kp P s.pending s.mems) :
    Kp P (serveFresh r s).pending (serveFresh r s).mems := by
  unfold serveFresh
  repeat' (first | with_reducible assumption | intro _ | dsimp only | with_reducible refine outEmit_keeps ?_ | with_reducible refine bump_keeps ?_ | with_reducible refine serve_keeps ?_ | split)

theorem drainWaiting_keeps {P : List Instr} {v0 : Nat} {s : State} (hk : Kp P s.pending s.mems) :
    Kp P (drainWaiting v0 s).pending (drainWaiting v0 s).mems := by
  induction v0 generalizing s with
  | zero => unfold drainWaiting; repeat' (first | with_reducible assumption | intro _ | dsimp only | with_reducible refine serveFresh_keeps ?_ | split)
  | succ v0 ih => unfold drainWaiting; repeat' (first | with_reducible assumption | intro _ | dsimp only | with_reducible refine ih ?_ | with_reducible refine serveFresh_keeps ?_ | split)

theorem arriveReq_keeps {P : List Instr} {r : WReq} {s : State} (hk : Kp P s.pending s.mems) :
    Kp P (arriveReq r s).pending (arriveReq r s).mems := by
  unfold arriveReq
  repeat' (first | with_reducible assumption | intro _ | dsimp only | with_reducible refine serveFresh_keeps ?_ | with_reducible refine bump_keeps ?_ | with_reducible refine serve_keeps ?_ | with_reducible refine abortWith_keeps ?_ | split)

theorem execWaiborRead_keeps {P : List Instr} {h : WHeader} {index sub : Nat} {s sNext : State} (hx : execWaiborRead h index sub s = .next sNext) (hk : Kp P s.pending s.mems) :
    Kp P sNext.pending sNext.mems := by
  unfold execWaiborRead at hx
  injection hx with hx
  subst hx
  repeat' (first | with_reducible assumption | intro _ | dsimp only | with_reducible refine arriveReq_keeps ?_ | split)

theorem execWaiborWrite_keeps {P : List Instr} {h : WHeader} {index sub vtype : Nat} {value : Bytes} {s sNext : State} (hx : execWaiborWrite h index sub vtype value s = .next sNext) (hk : Kp P s.pending s.mems) :
    Kp P sNext.pending sNext.mems := by
  unfold execWaiborWrite at hx
  injection hx with hx
  subst hx
  repeat' (first | with_reducible assumption | intro _ | dsimp only | with_reducible refine arriveReq_keeps ?_ | split)

theorem execWaiborReadSeg_keeps {P : List Instr} {h : WHeader} {index sub offset : Nat} {s sNext : State} (hx : execWaiborReadSeg h index sub offset s = .next sNext) (hk : Kp P s.pending s.mems) :
    Kp P sNext.pending sNext.mems := by
  unfold execWaiborReadSeg at hx
  injection hx with hx
  subst hx
  repeat' (first | with_reducible assumption | intro _ | dsimp only | with_reducible refine arriveReq_keeps ?_ | split)

theorem execWaiborWriteSegInit_keeps {P : List Instr} {h : WHeader} {index sub total : Nat} {s sNext : State} (hx : execWaiborWriteSegInit h index sub total s = .next sNext) (hk : Kp P s.pending s.mems) :
    Kp P sNext.pending sNext.mems := by
  unfold execWaiborWriteSegInit at hx
  injection hx with hx
  subst hx
  repeat' (first | with_reducible assumption | intro _ | dsimp only | with_reducible refine arriveReq_keeps ?_ | split)

theorem execWaiborWriteSeg_keeps {P : List Instr} {h : WHeader} {index sub : Nat} {last : Bool} {offset : Nat} {data : Bytes} {s sNext : State} (hx : execWaiborWriteSeg h index sub last offset data s = .next sNext) (hk : Kp P s.pending s.mems) :
    Kp P sNext.pending sNext.mems := by
  unfold execWaiborWriteSeg at hx
  injection hx with hx
  subst hx
  repeat' (first | with_reducible assumption | intro _ | dsimp only | with_reducible refine arriveReq_keeps ?_ | split)

theorem execSessionOpen_keeps {P : List Instr} {h : WHeader} {fieldKey : Bytes} {s sNext : State} (hx : execSessionOpen h fieldKey s = .next sNext) (hk : Kp P s.pending s.mems) :
    Kp P sNext.pending sNext.mems := by
  unfold execSessionOpen at hx
  injection hx with hx
  subst hx
  repeat' (first | with_reducible assumption | intro _ | dsimp only | with_reducible refine arriveReq_keeps ?_ | with_reducible refine malformed_keeps ?_ | split)

theorem execSessionAuth_keeps {P : List Instr} {h : WHeader} {mode keyIndex : Nat} {proof : Bytes} {s sNext : State} (hx : execSessionAuth h mode keyIndex proof s = .next sNext) (hk : Kp P s.pending s.mems) :
    Kp P sNext.pending sNext.mems := by
  unfold execSessionAuth at hx
  injection hx with hx
  subst hx
  repeat' (first | with_reducible assumption | intro _ | dsimp only | with_reducible refine arriveReq_keeps ?_ | with_reducible refine malformed_keeps ?_ | split)

theorem execSessionClose_keeps {P : List Instr} {h : WHeader} {s sNext : State} (hx : execSessionClose h s = .next sNext) (hk : Kp P s.pending s.mems) :
    Kp P sNext.pending sNext.mems := by
  unfold execSessionClose at hx
  injection hx with hx
  subst hx
  repeat' (first | with_reducible assumption | intro _ | dsimp only | with_reducible refine arriveReq_keeps ?_ | split)

theorem execLcRequest_keeps {P : List Instr} {h : WHeader} {blob : Bytes} {s sNext : State} (hx : execLcRequest h blob s = .next sNext) (hk : Kp P s.pending s.mems) :
    Kp P sNext.pending sNext.mems := by
  unfold execLcRequest at hx
  injection hx with hx
  subst hx
  repeat' (first | with_reducible assumption | intro _ | dsimp only | with_reducible refine arriveReq_keeps ?_ | split)

theorem execOwnerKekImport_keeps {P : List Instr} {h : WHeader} {blob : Bytes} {s sNext : State} (hx : execOwnerKekImport h blob s = .next sNext) (hk : Kp P s.pending s.mems) :
    Kp P sNext.pending sNext.mems := by
  unfold execOwnerKekImport at hx
  injection hx with hx
  subst hx
  repeat' (first | with_reducible assumption | intro _ | dsimp only | with_reducible refine arriveReq_keeps ?_ | split)

theorem execModuleResetWrite_keeps {P : List Instr} {h : WHeader} {s sNext : State} (hx : execModuleResetWrite h s = .next sNext) (hk : Kp P s.pending s.mems) :
    Kp P sNext.pending sNext.mems := by
  unfold execModuleResetWrite at hx
  injection hx with hx
  subst hx
  repeat' (first | with_reducible assumption | intro _ | dsimp only | with_reducible refine arriveReq_keeps ?_ | split)

theorem execFaultLogClear_keeps {P : List Instr} {h : WHeader} {s sNext : State} (hx : execFaultLogClear h s = .next sNext) (hk : Kp P s.pending s.mems) :
    Kp P sNext.pending sNext.mems := by
  unfold execFaultLogClear at hx
  injection hx with hx
  subst hx
  repeat' (first | with_reducible assumption | intro _ | dsimp only | with_reducible refine arriveReq_keeps ?_ | split)

theorem execLedgerCommitComplete_keeps {P : List Instr} {ok : Bool} {s sNext : State} (hx : execLedgerCommitComplete ok s = .next sNext) (hk : Kp P s.pending s.mems) :
    Kp P sNext.pending sNext.mems := by
  unfold execLedgerCommitComplete at hx
  injection hx with hx
  subst hx
  repeat' (first | with_reducible assumption | intro _ | dsimp only | with_reducible refine respond_keeps ?_ | with_reducible refine ledApply_keeps ?_ | with_reducible refine abortWith_keeps ?_ | with_reducible refine drainWaiting_keeps ?_ | with_reducible refine sessionSpent_keeps ?_ | split)

theorem execSessionAuthTimeout_keeps {P : List Instr} {s sNext : State} (hx : execSessionAuthTimeout s = .next sNext) (hk : Kp P s.pending s.mems) :
    Kp P sNext.pending sNext.mems := by
  unfold execSessionAuthTimeout at hx
  injection hx with hx
  subst hx
  repeat' (first | with_reducible assumption | intro _ | dsimp only | with_reducible refine endSession_keeps ?_ | with_reducible refine advanceTo_keeps ?_ | split)

theorem execSessionIdleExpiry_keeps {P : List Instr} {s sNext : State} (hx : execSessionIdleExpiry s = .next sNext) (hk : Kp P s.pending s.mems) :
    Kp P sNext.pending sNext.mems := by
  unfold execSessionIdleExpiry at hx
  injection hx with hx
  subst hx
  repeat' (first | with_reducible assumption | intro _ | dsimp only | with_reducible refine endSession_keeps ?_ | with_reducible refine advanceTo_keeps ?_ | split)

theorem execSegmentStagingExpiry_keeps {P : List Instr} {src : WSource} {s sNext : State} (hx : execSegmentStagingExpiry src s = .next sNext) (hk : Kp P s.pending s.mems) :
    Kp P sNext.pending sNext.mems := by
  unfold execSegmentStagingExpiry at hx
  injection hx with hx
  subst hx
  repeat' (first | with_reducible assumption | intro _ | dsimp only | with_reducible refine advanceTo_keeps ?_ | split)

theorem execFieldFrameReceive_keeps {P : List Instr} {f : FieldFrame} {s sNext : State} (hx : execFieldFrameReceive f s = .next sNext) (hk : Kp P s.pending s.mems) :
    Kp P sNext.pending sNext.mems := by
  unfold execFieldFrameReceive at hx
  injection hx with hx
  subst hx
  repeat' (first | with_reducible assumption | intro _ | dsimp only | with_reducible refine bump_keeps ?_ | with_reducible refine arriveReq_keeps ?_ | split)

theorem execDoeRequest_keeps {P : List Instr} {objType : Nat} {payload : Bytes} {s sNext : State} (hx : execDoeRequest objType payload s = .next sNext) (hk : Kp P s.pending s.mems) :
    Kp P sNext.pending sNext.mems := by
  unfold execDoeRequest at hx
  injection hx with hx
  subst hx
  repeat' (first | with_reducible assumption | intro _ | dsimp only | with_reducible refine outEmit_keeps ?_ | with_reducible refine arriveReq_keeps ?_ | with_reducible refine malformed_keeps ?_ | split)

theorem execDoeAbort_keeps {P : List Instr} {s sNext : State} (hx : execDoeAbort s = .next sNext) (hk : Kp P s.pending s.mems) :
    Kp P sNext.pending sNext.mems := by
  unfold execDoeAbort at hx
  injection hx with hx
  subst hx
  repeat' (first | with_reducible assumption | intro _ | dsimp only | with_reducible refine drainWaiting_keeps ?_ | split)

theorem execHeartbeat_keeps {P : List Instr} {s sNext : State} (hx : execHeartbeat s = .next sNext) (hk : Kp P s.pending s.mems) :
    Kp P sNext.pending sNext.mems := by
  unfold execHeartbeat at hx
  injection hx with hx
  subst hx
  repeat' (first | with_reducible assumption | intro _ | dsimp only | with_reducible refine advanceTo_keeps ?_ | with_reducible refine bump_keeps ?_ | with_reducible refine outEmit_keeps ?_ | split)

theorem execEmergencyRepeat_keeps {P : List Instr} {s sNext : State} (hx : execEmergencyRepeat s = .next sNext) (hk : Kp P s.pending s.mems) :
    Kp P sNext.pending sNext.mems := by
  unfold execEmergencyRepeat at hx
  injection hx with hx
  subst hx
  repeat' (first | with_reducible assumption | intro _ | dsimp only | with_reducible refine advanceTo_keeps ?_ | with_reducible refine bump_keeps ?_ | with_reducible refine outEmit_keeps ?_ | with_reducible refine emergency_keeps ?_ | split)

theorem scrubCorrected_keeps {P : List Instr} {sub : Nat} {s : State} (hk : Kp P s.pending s.mems) :
    Kp P (scrubCorrected sub s).pending (scrubCorrected sub s).mems := by
  unfold scrubCorrected
  repeat' (first | with_reducible assumption | intro _ | dsimp only | with_reducible refine bump_keeps ?_ | split)

theorem scrubbed_keeps {P : List Instr} {m : MemId} {a owner : Nat} {place : Option (Nat × Nat × Nat)} {r : ScrubResult} {s : State} (hk : Kp P s.pending s.mems) :
    Kp P (scrubbed m a owner place r s).pending (scrubbed m a owner place r s).mems := by
  unfold scrubbed
  repeat' (first | with_reducible assumption | intro _ | dsimp only | exact kp_bad (by assumption) | with_reducible refine scrubCorrected_keeps ?_ | with_reducible refine memEvent_keeps ?_ | split)

theorem execPatrolScrub_keeps {P : List Instr} {t : ScrubTarget} {r : ScrubResult} {s sNext : State} (hx : execPatrolScrub t r s = .next sNext) (hk : Kp P s.pending s.mems) :
    Kp P sNext.pending sNext.mems := by
  unfold execPatrolScrub at hx
  injection hx with hx
  subst hx
  repeat' (first | with_reducible assumption | intro _ | dsimp only | with_reducible refine scrubbed_keeps ?_ | with_reducible refine scrubCorrected_keeps ?_ | with_reducible refine raiseAlarm_keeps ?_ | with_reducible refine bump_keeps ?_ | split)

theorem execRfmRefresh_keeps {P : List Instr} {_row : Nat} {s sNext : State} (hx : execRfmRefresh _row s = .next sNext) (hk : Kp P s.pending s.mems) :
    Kp P sNext.pending sNext.mems := by
  unfold execRfmRefresh at hx
  injection hx with hx
  subst hx
  repeat' (first | with_reducible assumption | intro _ | dsimp only | with_reducible refine bump_keeps ?_ | split)

theorem execSensorCalibration_keeps {P : List Instr} {sensor : Nat} {s sNext : State} (hx : execSensorCalibration sensor s = .next sNext) (hk : Kp P s.pending s.mems) :
    Kp P sNext.pending sNext.mems := by
  unfold execSensorCalibration at hx
  injection hx with hx
  subst hx
  repeat' (first | with_reducible assumption | intro _ | dsimp only | split)

theorem execTallyWritebackPass_keeps {P : List Instr} {ks : Nat} {s sNext : State} (hx : execTallyWritebackPass ks s = .next sNext) (hk : Kp P s.pending s.mems) :
    Kp P sNext.pending sNext.mems := by
  unfold execTallyWritebackPass at hx
  injection hx with hx
  subst hx
  repeat' (first | with_reducible assumption | intro _ | dsimp only | with_reducible refine advanceTo_keeps ?_ | with_reducible refine foldS_keeps _ _ ?_ ?_ | with_reducible refine modCtx_keeps ?_ | split)

theorem execUndervoltageDip_keeps {P : List Instr} {s sNext : State} (hx : execUndervoltageDip s = .next sNext) (hk : Kp P s.pending s.mems) :
    Kp P sNext.pending sNext.mems := by
  unfold execUndervoltageDip at hx
  injection hx with hx
  subst hx
  repeat' (first | with_reducible assumption | intro _ | dsimp only | split)

theorem execUndervoltageDipEnd_keeps {P : List Instr} {s sNext : State} (hx : execUndervoltageDipEnd s = .next sNext) (hk : Kp P s.pending s.mems) :
    Kp P sNext.pending sNext.mems := by
  unfold execUndervoltageDipEnd at hx
  injection hx with hx
  subst hx
  repeat' (first | with_reducible assumption | intro _ | dsimp only | split)

theorem powerLost_keeps {P : List Instr} {s : State} (hk : Kp P s.pending s.mems) :
    Kp P (powerLost s).pending (powerLost s).mems := by
  unfold powerLost
  repeat' (first | with_reducible assumption | intro _ | dsimp only | with_reducible refine powerReset_keeps ?_ | split)

theorem execUndervoltageDeclared_keeps {P : List Instr} {s sNext : State} (hx : execUndervoltageDeclared s = .next sNext) (hk : Kp P s.pending s.mems) :
    Kp P sNext.pending sNext.mems := by
  unfold execUndervoltageDeclared at hx
  injection hx with hx
  subst hx
  repeat' (first | with_reducible assumption | intro _ | dsimp only | with_reducible refine powerLost_keeps ?_ | with_reducible refine sayGoingDown_keeps ?_ | with_reducible refine advanceTo_keeps ?_ | split)

theorem execSupplyRestore_keeps {P : List Instr} {s sNext : State} (hx : execSupplyRestore s = .next sNext) (hk : Kp P s.pending s.mems) :
    Kp P sNext.pending sNext.mems := by
  unfold execSupplyRestore at hx
  injection hx with hx
  subst hx
  repeat' (first | with_reducible assumption | intro _ | dsimp only | with_reducible refine powerReset_keeps ?_ | split)

theorem execFieldPwrLoss_keeps {P : List Instr} {s sNext : State} (hx : execFieldPwrLoss s = .next sNext) (hk : Kp P s.pending s.mems) :
    Kp P sNext.pending sNext.mems := by
  unfold execFieldPwrLoss at hx
  injection hx with hx
  subst hx
  repeat' (first | with_reducible assumption | intro _ | dsimp only | split)

theorem execFieldPwrRestore_keeps {P : List Instr} {s sNext : State} (hx : execFieldPwrRestore s = .next sNext) (hk : Kp P s.pending s.mems) :
    Kp P sNext.pending sNext.mems := by
  unfold execFieldPwrRestore at hx
  injection hx with hx
  subst hx
  repeat' (first | with_reducible assumption | intro _ | dsimp only | split)

theorem execRefclkLoss_keeps {P : List Instr} {c : RefClock} {s sNext : State} (hx : execRefclkLoss c s = .next sNext) (hk : Kp P s.pending s.mems) :
    Kp P sNext.pending sNext.mems := by
  unfold execRefclkLoss at hx
  injection hx with hx
  subst hx
  repeat' (first | with_reducible assumption | intro _ | dsimp only | with_reducible refine hostLoss_keeps ?_ | with_reducible refine linkGone_keeps ?_ | with_reducible refine foldS_keeps _ _ ?_ ?_ | with_reducible refine bondDown_keeps ?_ | with_reducible refine portDown_keeps ?_ | with_reducible refine raiseAlarm_keeps ?_ | split)

theorem execRefclkRestore_keeps {P : List Instr} {c : RefClock} {s sNext : State} (hx : execRefclkRestore c s = .next sNext) (hk : Kp P s.pending s.mems) :
    Kp P sNext.pending sNext.mems := by
  unfold execRefclkRestore at hx
  injection hx with hx
  subst hx
  repeat' (first | with_reducible assumption | intro _ | dsimp only | split)

theorem streamEnable_keeps {P : List Instr} {fn v : Nat} {s : State} (hk : Kp P s.pending s.mems) :
    Kp P (streamEnable fn v s).pending (streamEnable fn v s).mems := by
  unfold streamEnable
  repeat' (first | with_reducible assumption | intro _ | dsimp only | with_reducible refine modBinding_keeps ?_ | split)

theorem streamDisable_keeps {P : List Instr} {fn v : Nat} {s : State} (hk : Kp P s.pending s.mems) :
    Kp P (streamDisable fn v s).pending (streamDisable fn v s).mems := by
  unfold streamDisable
  repeat' (first | with_reducible assumption | intro _ | dsimp only | with_reducible refine touchCore_keeps ?_ | with_reducible refine modBinding_keeps ?_ | split)

theorem execStreamBindingEnable_keeps {P : List Instr} {fn : Nat} {value : W32} {s sNext : State} (hx : execStreamBindingEnable fn value s = .next sNext) (hk : Kp P s.pending s.mems) :
    Kp P sNext.pending sNext.mems := by
  unfold execStreamBindingEnable at hx
  injection hx with hx
  subst hx
  repeat' (first | with_reducible assumption | intro _ | dsimp only | with_reducible refine streamEnable_keeps ?_ | split)

theorem execStreamBindingDisable_keeps {P : List Instr} {fn : Nat} {value : W32} {s sNext : State} (hx : execStreamBindingDisable fn value s = .next sNext) (hk : Kp P s.pending s.mems) :
    Kp P sNext.pending sNext.mems := by
  unfold execStreamBindingDisable at hx
  injection hx with hx
  subst hx
  repeat' (first | with_reducible assumption | intro _ | dsimp only | with_reducible refine streamDisable_keeps ?_ | split)

theorem execStreamWatchdogTick_keeps {P : List Instr} {s sNext : State} (hx : execStreamWatchdogTick s = .next sNext) (hk : Kp P s.pending s.mems) :
    Kp P sNext.pending sNext.mems := by
  unfold execStreamWatchdogTick at hx
  injection hx with hx
  subst hx
  repeat' (first | with_reducible assumption | intro _ | dsimp only | with_reducible refine advanceTo_keeps ?_ | with_reducible refine foldS_keeps _ _ ?_ ?_ | with_reducible refine streamEvent_keeps ?_ | split)

theorem setPlace_keeps {P : List Instr} {fn : Nat} {onQueue : Queue → Queue} {onRing : OutRing → OutRing} {s : State} (hk : Kp P s.pending s.mems) :
    Kp P (setPlace fn onQueue onRing s).pending (setPlace fn onQueue onRing s).mems := by
  unfold setPlace
  repeat' (first | with_reducible assumption | intro _ | dsimp only | with_reducible refine modCq_keeps ?_ | with_reducible refine modFn_keeps ?_ | with_reducible refine modQueue_keeps ?_ | split)

theorem setRecv_keeps {P : List Instr} {fn : Nat} {g : Queue → Queue} {s : State} (hk : Kp P s.pending s.mems) :
    Kp P (setRecv fn g s).pending (setRecv fn g s).mems := by
  unfold setRecv
  repeat' (first | with_reducible assumption | intro _ | dsimp only | with_reducible refine modQueue_keeps ?_ | split)

theorem ringRegWrite_keeps {P : List Instr} {fn k : Nat} {v : W32} {s : State} (hk : Kp P s.pending s.mems) :
    Kp P (ringRegWrite fn k v s).pending (ringRegWrite fn k v s).mems := by
  unfold ringRegWrite
  repeat' (first | with_reducible assumption | intro _ | dsimp only | with_reducible refine modFn_keeps ?_ | with_reducible refine setPlace_keeps ?_ | with_reducible refine ctrlEnable_keeps ?_ | with_reducible refine ctrlDisable_keeps ?_ | with_reducible refine setRecv_keeps ?_ | with_reducible refine recvReturn_keeps ?_ | split)

theorem eventRegWrite_keeps {P : List Instr} {fn k : Nat} {v : W32} {s : State} (hk : Kp P s.pending s.mems) :
    Kp P (eventRegWrite fn k v s).pending (eventRegWrite fn k v s).mems := by
  unfold eventRegWrite
  repeat' (first | with_reducible assumption | intro _ | dsimp only | with_reducible refine eqHeadWrite_keeps ?_ | with_reducible refine modFn_keeps ?_ | split)

theorem telemRegWrite_keeps {P : List Instr} {fn k : Nat} {v : W32} {s : State} (hk : Kp P s.pending s.mems) :
    Kp P (telemRegWrite fn k v s).pending (telemRegWrite fn k v s).mems := by
  unfold telemRegWrite
  repeat' (first | with_reducible assumption | intro _ | dsimp only | with_reducible refine modFn_keeps ?_ | with_reducible refine telemWrite_keeps ?_ | split)

theorem setSeg_keeps {P : List Instr} {fn : Nat} {g : Segment → Segment} {s : State} (hk : Kp P s.pending s.mems) :
    Kp P (setSeg fn g s).pending (setSeg fn g s).mems := by
  unfold setSeg
  repeat' (first | with_reducible assumption | intro _ | dsimp only | with_reducible refine modSeg_keeps ?_ | split)

theorem segRegWrite_keeps {P : List Instr} {fn k : Nat} {v : W32} {s : State} (hk : Kp P s.pending s.mems) :
    Kp P (segRegWrite fn k v s).pending (segRegWrite fn k v s).mems := by
  unfold segRegWrite
  repeat' (first | with_reducible assumption | intro _ | dsimp only | with_reducible refine modFn_keeps ?_ | with_reducible refine setSeg_keeps ?_ | with_reducible refine segEnable_keeps ?_ | with_reducible refine segDisable_keeps ?_ | with_reducible refine modSeg_keeps ?_ | split)

theorem streamRegWrite_keeps {P : List Instr} {fn k : Nat} {v : W32} {s : State} (hk : Kp P s.pending s.mems) :
    Kp P (streamRegWrite fn k v s).pending (streamRegWrite fn k v s).mems := by
  unfold streamRegWrite
  repeat' (first | with_reducible assumption | intro _ | dsimp only | with_reducible refine modFn_keeps ?_ | with_reducible refine modBinding_keeps ?_ | with_reducible refine streamEnable_keeps ?_ | with_reducible refine streamDisable_keeps ?_ | split)

theorem maskWrite_keeps {P : List Instr} {fn vec : Nat} {masked : Bool} {s : State} (hk : Kp P s.pending s.mems) :
    Kp P (maskWrite fn vec masked s).pending (maskWrite fn vec masked s).mems := by
  unfold maskWrite
  repeat' (first | with_reducible assumption | intro _ | dsimp only | with_reducible refine modFn_keeps ?_ | with_reducible refine msix_keeps ?_ | split)

theorem msixWrite_keeps {P : List Instr} {fn k : Nat} {v : W32} {s : State} (hk : Kp P s.pending s.mems) :
    Kp P (msixWrite fn k v s).pending (msixWrite fn k v s).mems := by
  unfold msixWrite
  repeat' (first | with_reducible assumption | intro _ | dsimp only | with_reducible refine maskWrite_keeps ?_ | with_reducible refine modFn_keeps ?_ | split)

theorem tagRegWrite_keeps {P : List Instr} {k : Nat} {v : W32} {s : State} (hk : Kp P s.pending s.mems) :
    Kp P (tagRegWrite k v s).pending (tagRegWrite k v s).mems := by
  unfold tagRegWrite
  repeat' (first | with_reducible assumption | intro _ | dsimp only | with_reducible refine modKeyPage_keeps ?_ | split)

theorem keyRegWrite_keeps {P : List Instr} {fn k : Nat} {v : W32} {s : State} (hk : Kp P s.pending s.mems) :
    Kp P (keyRegWrite fn k v s).pending (keyRegWrite fn k v s).mems := by
  unfold keyRegWrite
  repeat' (first | with_reducible assumption | intro _ | dsimp only | with_reducible refine modKeyPage_keeps ?_ | with_reducible refine keyCmdWrite_keeps ?_ | with_reducible refine tagRegWrite_keeps ?_ | split)

theorem blockWrite_keeps {P : List Instr} {fn off : Nat} {v : W32} {s : State} (hk : Kp P s.pending s.mems) :
    Kp P (blockWrite fn off v s).pending (blockWrite fn off v s).mems := by
  unfold blockWrite
  repeat' (first | with_reducible assumption | intro _ | dsimp only | with_reducible refine ringRegWrite_keeps ?_ | with_reducible refine cqHeadWrite_keeps ?_ | with_reducible refine eventRegWrite_keeps ?_ | with_reducible refine telemRegWrite_keeps ?_ | with_reducible refine modFn_keeps ?_ | with_reducible refine segRegWrite_keeps ?_ | with_reducible refine streamRegWrite_keeps ?_ | with_reducible refine msixWrite_keeps ?_ | with_reducible refine keyRegWrite_keeps ?_ | split)

theorem layoutWrite_keeps {P : List Instr} {fn off : Nat} {v : W32} {s : State} (hk : Kp P s.pending s.mems) :
    Kp P (layoutWrite fn off v s).pending (layoutWrite fn off v s).mems := by
  unfold layoutWrite
  repeat' (first | with_reducible assumption | intro _ | dsimp only | with_reducible refine ringDoorbell_keeps ?_ | with_reducible refine blockWrite_keeps ?_ | split)

theorem setShaper_keeps {P : List Instr} {g : Shaper → Shaper} {s : State} (hk : Kp P s.pending s.mems) :
    Kp P (setShaper g s).pending (setShaper g s).mems := by
  unfold setShaper
  repeat' (first | with_reducible assumption | intro _ | dsimp only | split)

theorem shaperRegWrite_keeps {P : List Instr} {k : Nat} {v : W32} {s : State} (hk : Kp P s.pending s.mems) :
    Kp P (shaperRegWrite k v s).pending (shaperRegWrite k v s).mems := by
  unfold shaperRegWrite
  repeat' (first | with_reducible assumption | intro _ | dsimp only | with_reducible refine setShaper_keeps ?_ | split)

theorem cutRegWrite_keeps {P : List Instr} {k : Nat} {v : W32} {s : State} (hk : Kp P s.pending s.mems) :
    Kp P (cutRegWrite k v s).pending (cutRegWrite k v s).mems := by
  unfold cutRegWrite
  repeat' (first | with_reducible assumption | intro _ | dsimp only | with_reducible refine cutEnable_keeps ?_ | with_reducible refine cutDisable_keeps ?_ | split)

theorem portRegWrite_keeps {P : List Instr} {port k : Nat} {v : W32} {s : State} (hk : Kp P s.pending s.mems) :
    Kp P (portRegWrite port k v s).pending (portRegWrite port k v s).mems := by
  unfold portRegWrite
  repeat' (first | with_reducible assumption | intro _ | dsimp only | with_reducible refine modPort_keeps ?_ | with_reducible refine ethRingWrite_keeps ?_ | with_reducible refine ethHeadWrite_keeps ?_ | with_reducible refine txDoorbell_keeps ?_ | split)

theorem setXw_keeps {P : List Instr} {g : Xw → Xw} {s : State} (hk : Kp P s.pending s.mems) :
    Kp P (setXw g s).pending (setXw g s).mems := by
  unfold setXw
  repeat' (first | with_reducible assumption | intro _ | dsimp only | with_reducible refine modFn_keeps ?_ | split)

theorem hostRegWrite_keeps {P : List Instr} {off : Nat} {v : W32} {s : State} (hk : Kp P s.pending s.mems) :
    Kp P (hostRegWrite off v s).pending (hostRegWrite off v s).mems := by
  unfold hostRegWrite
  repeat' (first | with_reducible assumption | intro _ | dsimp only | with_reducible refine attachResume_keeps ?_ | with_reducible refine attachFresh_keeps ?_ | with_reducible refine setXw_keeps ?_ | with_reducible refine xwWrite_keeps ?_ | split)

theorem sharedWrite_keeps {P : List Instr} {off : Nat} {v : W32} {s : State} (hk : Kp P s.pending s.mems) :
    Kp P (sharedWrite off v s).pending (sharedWrite off v s).mems := by
  unfold sharedWrite
  repeat' (first | with_reducible assumption | intro _ | dsimp only | with_reducible refine lockWrite_keeps ?_ | with_reducible refine bump_keeps ?_ | with_reducible refine keyRegWrite_keeps ?_ | split)

theorem pfWrite_keeps {P : List Instr} {off : Nat} {v : W32} {s : State} (hk : Kp P s.pending s.mems) :
    Kp P (pfWrite off v s).pending (pfWrite off v s).mems := by
  unfold pfWrite
  repeat' (first | with_reducible assumption | intro _ | dsimp only | with_reducible refine shaperRegWrite_keeps ?_ | with_reducible refine cutRegWrite_keeps ?_ | with_reducible refine portRegWrite_keeps ?_ | with_reducible refine hostRegWrite_keeps ?_ | with_reducible refine sharedWrite_keeps ?_ | split)

theorem pfBarWrite_keeps {P : List Instr} {off : Nat} {v : W32} {s : State} (hk : Kp P s.pending s.mems) :
    Kp P (pfBarWrite off v s).pending (pfBarWrite off v s).mems := by
  unfold pfBarWrite
  repeat' (first | with_reducible assumption | intro _ | dsimp only | with_reducible refine ringDoorbell_keeps ?_ | with_reducible refine layoutWrite_keeps ?_ | with_reducible refine pfWrite_keeps ?_ | split)

theorem vfBarWrite_keeps {P : List Instr} {fn off : Nat} {v : W32} {s : State} (hk : Kp P s.pending s.mems) :
    Kp P (vfBarWrite fn off v s).pending (vfBarWrite fn off v s).mems := by
  unfold vfBarWrite
  repeat' (first | with_reducible assumption | intro _ | dsimp only | with_reducible refine ringDoorbell_keeps ?_ | with_reducible refine layoutWrite_keeps ?_ | split)

theorem execRegisterWrite_keeps {P : List Instr} {fn offset : Nat} {value : W32} {s sNext : State} (hx : execRegisterWrite fn offset value s = .next sNext) (hk : Kp P s.pending s.mems) :
    Kp P sNext.pending sNext.mems := by
  unfold execRegisterWrite at hx
  injection hx with hx
  subst hx
  repeat' (first | with_reducible assumption | intro _ | dsimp only | with_reducible refine pfBarWrite_keeps ?_ | with_reducible refine vfBarWrite_keeps ?_ | split)

theorem ctlWrite_keeps {P : List Instr} {core o n v : Nat} {s : State} (hk : Kp P s.pending s.mems) :
    Kp P (ctlWrite core o n v s).pending (ctlWrite core o n v s).mems := by
  unfold ctlWrite
  repeat' (first | with_reducible assumption | intro _ | dsimp only | with_reducible refine modCore_keeps ?_ | with_reducible refine issueCmd_keeps ?_ | with_reducible refine bankPwrWrite_keeps ?_ | split)

theorem rvLoad_eq {P : List Instr} {core a n : Nat} {s u : State} (he : rvLoad core a n s = .stop u)
    (hk : Kp P s.pending s.mems) : Kp P u.pending u.mems := by
  unfold rvLoad at he
  split at he
  · cases he; exact trapCore_keeps hk
  · cases he; exact wakeRange_keeps hk
  · cases he
  · split at he
    · cases he; exact loadTrap_keeps hk
    · cases he

theorem rvStore_keeps {P : List Instr} {core a n v : Nat} {done : State → State} (Hdone : ∀ t, Kp P t.pending t.mems → Kp P (done t).pending (done t).mems) {s : State} (hk : Kp P s.pending s.mems) :
    Kp P (rvStore core a n v done s).pending (rvStore core a n v done s).mems := by
  unfold rvStore
  repeat' (first | with_reducible assumption | intro _ | dsimp only | with_reducible refine Hdone _ ?_ | with_reducible refine trapCore_keeps ?_ | with_reducible refine wakeRange_keeps ?_ | with_reducible refine ctlWrite_keeps ?_ | with_reducible refine memWrite_keeps ?_ | split)

theorem rvSet_keeps {P : List Instr} {core rd : Nat} {v pc : W64} {s : State} (hk : Kp P s.pending s.mems) :
    Kp P (rvSet core rd v pc s).pending (rvSet core rd v pc s).mems := by
  unfold rvSet
  repeat' (first | with_reducible assumption | intro _ | dsimp only | with_reducible refine modCore_keeps ?_ | split)

theorem rvIllegal_keeps {P : List Instr} {core : Nat} {s : State} (hk : Kp P s.pending s.mems) :
    Kp P (rvIllegal core s).pending (rvIllegal core s).mems := by
  unfold rvIllegal
  repeat' (first | with_reducible assumption | intro _ | dsimp only | with_reducible refine trapCore_keeps ?_ | split)

theorem rvResult_keeps {P : List Instr} {core rd : Nat} {v : Option W64} {next : W64} {s : State} (hk : Kp P s.pending s.mems) :
    Kp P (rvResult core rd v next s).pending (rvResult core rd v next s).mems := by
  unfold rvResult
  repeat' (first | with_reducible assumption | intro _ | dsimp only | with_reducible refine rvSet_keeps ?_ | with_reducible refine rvIllegal_keeps ?_ | split)

theorem rvLoadInto_keeps {P : List Instr} {core rd f3 a : Nat} {next : W64} {s : State} (hk : Kp P s.pending s.mems) :
    Kp P (rvLoadInto core rd f3 a next s).pending (rvLoadInto core rd f3 a next s).mems := by
  unfold rvLoadInto
  repeat' (first | with_reducible assumption | intro _ | dsimp only | with_reducible refine rvLoad_eq (by assumption) ?_ | with_reducible refine rvIllegal_keeps ?_ | with_reducible refine rvLoad_eq (by assumption) ?_ | with_reducible refine rvSet_keeps ?_ | split)

theorem rvAtomic_keeps {P : List Instr} {core rd f5 n : Nat} {a b : W64} {rs2 : Nat} {next : W64} {s : State} (hk : Kp P s.pending s.mems) :
    Kp P (rvAtomic core rd f5 n a b rs2 next s).pending (rvAtomic core rd f5 n a b rs2 next s).mems := by
  unfold rvAtomic
  repeat' (first | with_reducible assumption | intro _ | dsimp only | with_reducible refine rvLoad_eq (by assumption) ?_ | with_reducible refine rvIllegal_keeps ?_ | with_reducible refine rvLoad_eq (by assumption) ?_ | with_reducible refine rvSet_keeps ?_ | with_reducible refine modCore_keeps ?_ | with_reducible refine rvStore_keeps ?_ ?_ | split)

theorem rvExec_keeps {P : List Instr} {core i : Nat} {next : W64} {s : State} (hk : Kp P s.pending s.mems) :
    Kp P (rvExec core i next s).pending (rvExec core i next s).mems := by
  unfold rvExec
  repeat' (first | with_reducible assumption | intro _ | dsimp only | with_reducible refine rvSet_keeps ?_ | with_reducible refine rvIllegal_keeps ?_ | with_reducible refine rvLoadInto_keeps ?_ | with_reducible refine rvStore_keeps ?_ ?_ | with_reducible refine rvResult_keeps ?_ | with_reducible refine rvAtomic_keeps ?_ | with_reducible refine ecallAt_keeps ?_ | split)

theorem rvStep_keeps {P : List Instr} {core : Nat} {s : State} (hk : Kp P s.pending s.mems) :
    Kp P (rvStep core s).pending (rvStep core s).mems := by
  unfold rvStep
  repeat' (first | with_reducible assumption | intro _ | dsimp only | with_reducible refine trapCore_keeps ?_ | with_reducible refine rvExec_keeps ?_ | with_reducible refine rvIllegal_keeps ?_ | split)

theorem rvTick_keeps {P : List Instr} {core : Nat} {s : State} (hk : Kp P s.pending s.mems) :
    Kp P (rvTick core s).pending (rvTick core s).mems := by
  unfold rvTick
  repeat' (first | with_reducible assumption | intro _ | dsimp only | with_reducible refine rvStep_keeps ?_ | split)

theorem idle_keeps {P : List Instr} {s : State} (hk : Kp P s.pending s.mems) :
    Kp P (idle s).pending (idle s).mems := by
  unfold idle
  repeat' (first | with_reducible assumption | intro _ | dsimp only | with_reducible refine foldS_keeps _ _ ?_ ?_ | with_reducible refine rvTick_keeps ?_ | split)

end Sys2Proof.Laws
end

