-- ==== Sys2Proof/WellFormed.lean ====
section
/-! DEFINITION. Well-formed commands: every operand inside the range its register, unit or identifier has on the part
with everything fitted. `exec` does not look at it: a command outside it names something the module does not have. -/

namespace Sys2Proof

/-- A function number: 0 the PF, 1 to 1,024 the VFs (R368, R370). -/
def wfFn (fn : Nat) : Bool := decide (fn ≤ 1024)
/-- A queue's name (R22, R52): admin rings are the PF's, a control queue has index 0. -/
def wfQ (q : QRef) : Bool :=
  wfFn q.fn && (match q.kind with
    | .send => decide (q.index < 2 ^ 20)
    | .control => q.index == 0
    | .admin => q.fn == 0 && decide (q.index < 8))
/-- A virtual-device number. -/
def wfVdev (v : Nat) : Bool := decide (v ≤ 1024)
/-- An entry of the row's opcode (R53's opcode table). -/
def wfE (op : Nat) (e : Entry) : Bool := e.toNat % 256 == op
def wfQE (op : Nat) (q : QRef) (e : Entry) : Bool := wfQ q && wfE op e
/-- A 16-bit ring index. -/
def wfIdx (i : Nat) : Bool := decide (i < 2 ^ 16)
def wfCore (c : Nat) : Bool := decide (c < 512)
def wfCluster (c : Nat) : Bool := decide (c < 32)
def wfDie (d : Nat) : Bool := decide (d < 4)
def wfBank (b : Nat) : Bool := decide (b < 16)
def wfLink (l : Nat) : Bool := decide (l < 8)
def wfPort (p : Nat) : Bool := decide (p < 4)
def wfKs (k : Nat) : Bool := decide (k < 2)
def wfSeg (g : Nat) : Bool := decide (g < 16)
def wfRule (r : Nat) : Bool := decide (r < 64)
def wfByte (v : Nat) : Bool := decide (v < 256)
def wfHalf (v : Nat) : Bool := decide (v < 2 ^ 16)
def wfWord (v : Nat) : Bool := decide (v < 2 ^ 32)

/-- A source of Waibor requests: a field node has a 48-bit MAC address. -/
def wfSrc (s : WSource) : Bool :=
  match s with
  | .field m => decide (m < 2 ^ 48)
  | _ => true
def wfH (h : WHeader) : Bool := wfSrc h.source && wfHalf h.wseq && wfWord h.sessionCtr

/-- The fields of a packet fit their widths (R82, R85). -/
def wfPacket (p : Packet) : Bool :=
  wfByte p.epoch && wfByte p.ecnEcho && wfHalf p.pktIndex && wfHalf p.pktCount && decide (p.dstQp < 2 ^ 20) &&
  decide (p.tc < 8) && wfHalf p.sa && decide (p.payload.length ≤ 8192)
def wfRx (r : RxInfo) : Bool :=
  wfKs r.ks && (match r.link with
    | some l => wfLink l
    | none => true) && (match r.port with
    | some p => wfPort p
    | none => true)
/-- A packet of a type that has its own command. -/
def wfP (t : PType) (r : RxInfo) (p : Packet) : Bool := wfRx r && wfPacket p && decide (p.ptype = t)
/-- A tree packet at a link (R230). -/
def wfTree (l : Nat) (p : Packet) : Bool := wfLink l && wfPacket p && decide (p.ptype = .collective)
/-- A circuit-control message (R193): slots to 128, eight queues. -/
def wfCircuit (c : CircuitCtl) : Bool := decide (c.slots ≤ 128) && decide (c.queue < 8)
def wfUnit (u : PowerUnit) : Bool :=
  match u with
  | .engine c e => wfCore c && decide (e < 8)
  | .coreClock c => wfCore c
  | .bank c b => wfCore c && wfBank b
  | .cluster c => wfCluster c
  | .die d => wfDie d
def wfScrub (t : ScrubTarget) : Bool :=
  match t with
  | .hbm a => decide (a < 2 ^ 40)
  | .lpddr a => decide (a < 2 ^ 40)
  | .scratch a => decide (a < 2 ^ 31)
  | .clusterStore a => decide (a < 2 ^ 30)
  | .ksram a => decide (a < 2 ^ 27)
  | .secureSram => true
  | .skippedBank c b => wfCore c && wfBank b
def wfD2d (d : D2dLink) : Bool :=
  match d with
  | .k0k1 => true
  | .ka k d => wfKs k && wfDie d
def wfAccess (a : HostAccess) : Bool :=
  match a with
  | .entry q i => wfQ q && wfIdx i
  | .migration k r => wfKs k && decide (r < 128)
  | .qpContext q => decide (q < 2 ^ 20)
/-- An object of the dictionary (R440). -/
def wfOd (index sub : Nat) : Bool := wfHalf index && wfByte sub

/-- A command is well formed. -/
def wellFormed (i : Instr) : Bool :=
  match i with
  | .doorbell q => wfQ q
  | .rescanTimerExpiry q => wfQ q
  | .tornLimitExceeded q => wfQ q
  | .write q e => wfQE 0x01 q e
  | .writeSignal q e => wfQE 0x02 q e
  | .read q e => wfQE 0x03 q e
  | .fetchAdd q e => wfQE 0x04 q e
  | .compareSwap q e => wfQE 0x05 q e
  | .send q e => wfQE 0x06 q e
  | .multicastWrite q e => wfQE 0x07 q e
  | .waitCount q e => wfQE 0x08 q e
  | .fence q e => wfQE 0x09 q e
  | .localCopy q e => wfQE 0x0A q e
  | .collective q e => wfQE 0x10 q e
  | .launch q e => wfQE 0x20 q e
  | .signalOnly q e => wfQE 0x21 q e
  | .waitCountRelease q => wfQ q
  | .fenceRelease q => wfQ q
  | .headHoldRelease q => wfQ q
  | .cqHeadWrite fn ring _ => wfFn fn && decide (ring < 64)
  | .eqHeadWrite fn _ => wfFn fn
  | .queueEnable fn _ => wfFn fn
  | .queueDisable fn _ => wfFn fn
  | .cntValueRead fn => wfFn fn
  | .registerWrite fn offset _ => wfFn fn && decide (offset < 2 ^ 26)
  | .regionRegister q e => wfQE 0x88 q e
  | .regionDeregister q e => wfQE 0x89 q e
  | .windowOpen q e => wfQE 0x8A q e
  | .windowRevoke q e => wfQE 0x8B q e
  | .keyDrainEnd index => wfHalf index
  | .settle q e => wfQE 0x8C q e
  | .settleComplete q idx => wfQ q && wfIdx idx
  | .recvReturn fn _ => wfFn fn
  | .dataReceive rx p => wfP .data rx p
  | .readRequestReceive rx p => wfP .readRequest rx p
  | .readResponseReceive rx p => wfP .readResponse rx p
  | .atomicReceive rx p => wfP .atomic rx p
  | .atomicResponseReceive rx p => wfP .atomicResponse rx p
  | .abortReceive rx p => wfP .abort rx p
  | .ackReceive rx p => wfP .ack rx p
  | .nackReceive rx p => wfP .nack rx p
  | .rnrReceive rx p => wfP .rnr rx p
  | .openingReceive rx p => wfRx rx && wfPacket p
  | .writtenNotice _ _ => true
  | .packetWriteDone _ _ => true
  | .ackDelayExpiry _ => true
  | .packetTransmit _ _ => true
  | .retransmitTimeout _ _ => true
  | .rnrBackoffExpiry _ => true
  | .giveUpExpiry _ _ => true
  | .responseGiveUp _ _ => true
  | .openingGiveUp _ => true
  | .abortGiveUp _ _ => true
  | .contextFetchComplete ks _ qp _ => wfKs ks && (match qp with
    | some q => decide (q < 2 ^ 20)
    | none => true)
  | .bankerWaitExpiry ks _ _ => wfKs ks
  | .tallyContextAvailable q idx => wfQ q && wfIdx idx
  | .contextPeriodicTouch _ => true
  | .pacingTouch _ => true
  | .shaperTick => true
  | .telemetrySample fn => wfFn fn
  | .telemetryEnable fn _ => wfFn fn
  | .bondFrameReceive link f _ => wfLink link && decide (f.ctl.length ≤ 26) && decide (f.bytes.length ≤ 8320)
  | .bondFrameSend link vc => wfLink link && decide (vc < 5)
  | .idleFlitSend link => wfLink link
  | .idleFlitReceive link bytes => wfLink link && bytes.length == 320
  | .bondIdleTimeout link => wfLink link
  | .bondFecErrorLimit loss => wfLink loss.link && decide (loss.uncounted ≤ 9)
  | .bondLinkTrained link => wfLink link
  | .bondGoingDownExpiry link => wfLink link
  | .bondEnableWrite link value => wfLink link && decide (value < 2)
  | .announcementReceive link bytes => wfLink link && bytes.length == 12
  | .announcePeriodic => true
  | .announcementStale _ => true
  | .circuitLay q e => wfQE 0x92 q e
  | .circuitControlReceive link c => wfLink link && wfCircuit c
  | .circuitLayAnswer link c => wfLink link && wfCircuit c
  | .circuitLift q e => wfQE 0x93 q e
  | .circuitLiftAnswer link c => wfLink link && wfCircuit c
  | .fenceModule q e => wfQE 0x94 q e
  | .unfenceModule q e => wfQE 0x95 q e
  | .lineContextReopen axis => decide (axis < 2)
  | .deadlockWindowExpiry _ => true
  | .waitSatisfied core => wfCore core
  | .groupCreate q e => wfQE 0x90 q e
  | .groupDestroy q e => wfQE 0x91 q e
  | .treeDataReceive link p => wfTree link p
  | .upAck link p => wfTree link p
  | .downAck link p => wfTree link p
  | .treeAbort link p => wfTree link p
  | .fallback link p => wfTree link p
  | .controlAck link p => wfTree link p
  | .busy link p => wfTree link p
  | .treeHopTimeout _ _ member _ _ => decide (member < 1024)
  | .fallbackRingReceive rx p => wfP .collective rx p
  | .tieReceive link p => wfLink link && wfPacket p && decide (p.ptype = .tie)
  | .tieTimeout _ _ => true
  | .collGiveUp _ _ => true
  | .cmd1Write core _ _ => wfCore core
  | .loadw core => wfCore core
  | .stream core => wfCore core
  | .acc core => wfCore core
  | .epilogue core => wfCore core
  | .move core => wfCore core
  | .doorwaySend core => wfCore core
  | .wait core => wfCore core
  | .signal core => wfCore core
  | .phase core => wfCore core
  | .tileCommandFinish core unit => wfCore core && decide (unit < 20)
  | .coreTrap core cause _ => wfCore core && wfByte cause
  | .ecall core _ _ _ => wfCore core
  | .launchComplete _ => true
  | .bankPwrWrite core _ => wfCore core
  | .bankStateChange core bank => wfCore core && wfBank bank
  | .bankWakeComplete core bank => wfCore core && wfBank bank
  | .bankStarvation core bank _ _ => wfCore core && wfBank bank
  | .corePcRead fn => wfFn fn
  | .segmentEnable fn _ => wfFn fn
  | .segmentDisable fn _ => wfFn fn
  | .segmentDisableEnd fn seg => wfFn fn && wfSeg seg
  | .segmentFlush fn _ => wfFn fn
  | .segmentFlushEnd fn seg => wfFn fn && wfSeg seg
  | .walkerReadComplete ks walker _ => wfKs ks && decide (walker < 16)
  | .migrationStart ks record => wfKs ks && decide (record < 128)
  | .migrationWritebackComplete ks record _ => wfKs ks && decide (record < 128)
  | .migrationReadComplete ks record _ => wfKs ks && decide (record < 128)
  | .stampReport => true
  | .residencyStampPass => true
  | .streamBindingEnable fn _ => wfFn fn
  | .streamBindingDisable fn _ => wfFn fn
  | .streamWatchdogTick => true
  | .cutRuleEnable _ => true
  | .cutRuleDisable _ => true
  | .pd23PowerOn => true
  | .cutterIncrement rule slot => wfRule rule && wfHalf slot
  | .stampReadComplete rule => wfRule rule
  | .answerTimeout rule slot => wfRule rule && wfHalf slot
  | .ethFrameReceive port _ => wfPort port
  | .ethFrameTransmit port => wfPort port
  | .ethTxComplete port => wfPort port
  | .ethTxrDoorbell port => wfPort port
  | .ethRingEnable port _ _ => wfPort port
  | .ethRxrHeadWrite port _ => wfPort port
  | .ethStatRead port => wfPort port
  | .pauseFrameReceive port _ mask quanta => wfPort port && wfByte mask && quanta.all wfHalf
  | .pauseTimerExpiry port cls => wfPort port && (match cls with
    | some c => decide (c < 8)
    | none => true)
  | .xoffRepeat port prio => wfPort port && decide (prio ≤ 8)
  | .ethLinkUp port => wfPort port
  | .ethLinkDown port => wfPort port
  | .ethEnableWrite port value => wfPort port && decide (value < 2)
  | .verifyTimeout port => wfPort port
  | .verifyResponseReceive port => wfPort port
  | .hostDataLinkDown => true
  | .hostDataLinkUp _ _ => true
  | .perstAssert => true
  | .perstDeassert => true
  | .hostAttachResume => true
  | .hostAttachFresh => true
  | .cxlCompletionTimeout a => wfAccess a
  | .snoopReceive line => decide (line < 2 ^ 64)
  | .vfFlr fn => wfFn fn && decide (1 ≤ fn)
  | .pfFlr => true
  | .flrDrainEnd fn => wfFn fn
  | .exchangeWindowEnable _ => true
  | .doeRequest objType _ => decide (objType < 2 ^ 24)
  | .doeAbort => true
  | .getVersion => true
  | .getCapabilities => true
  | .negotiateAlgorithms _ => true
  | .getDigests => true
  | .getCertificate slot offset length => wfByte slot && wfHalf offset && wfHalf length
  | .challenge slot nonce => wfByte slot && decide (nonce.length = 32)
  | .getMeasurements index _ nonce => wfByte index && decide (nonce.length = 32)
  | .keyExchange peerKey => decide (peerKey.length = 64)
  | .finish _ => true
  | .endSession => true
  | .vdevCreate q e => wfQE 0x80 q e
  | .vdevDestroy q e => wfQE 0x81 q e
  | .vdevFreeze q e => wfQE 0x82 q e
  | .vdevFreezeDrainEnd vdev => wfVdev vdev
  | .vdevSave q e => wfQE 0x83 q e
  | .vdevSaveComplete vdev => wfVdev vdev
  | .vdevRestore q e => wfQE 0x84 q e
  | .vdevRestoreComplete vdev => wfVdev vdev
  | .vdevReset q e => wfQE 0x85 q e
  | .vdevDrainEnd vdev => wfVdev vdev
  | .clusterReturn cluster => wfCluster cluster
  | .keyInstallTransmit fn index => wfFn fn && wfHalf index
  | .keyInstallReceive fn index => wfFn fn && wfHalf index
  | .keyRemoveTransmit fn index => wfFn fn && wfHalf index
  | .keyRemoveReceive fn index => wfFn fn && wfHalf index
  | .keyCommandEnd => true
  | .alarm bit => decide (bit < 8)
  | .secureWipeEnd => true
  | .lockRead => true
  | .lockRelease _ => true
  | .lockTimeout => true
  | .drbgReseed => true
  | .lcRequest h _ => wfH h
  | .ownerKekImport h _ => wfH h
  | .controlPeriod => true
  | .opChangeComplete die => wfDie die
  | .probeIntervalExpiry die => wfDie die
  | .droopDetect cluster => wfCluster cluster
  | .attributionRecord => true
  | .meterSample watts => wfWord watts
  | .disagreeHoldExpiry => true
  | .refitComplete => true
  | .fallbackClear => true
  | .thermalCeilingStep unit _ => wfByte unit
  | .thermtrip unit => wfByte unit
  | .idleStateEntry u => wfUnit u
  | .unitWakeComplete u => wfUnit u
  | .waiborRead h index sub => wfH h && wfOd index sub
  | .waiborWrite h index sub vtype value => wfH h && wfOd index sub && wfByte vtype && decide (value.length ≤ 1016)
  | .waiborReadSeg h index sub offset => wfH h && wfOd index sub && wfWord offset
  | .waiborWriteSegInit h index sub total => wfH h && wfOd index sub && wfWord total
  | .waiborWriteSeg h index sub _ offset data => wfH h && wfOd index sub && wfWord offset && decide (data.length ≤ 1016)
  | .sessionOpen h fieldKey => wfH h && decide (fieldKey.length = 64)
  | .sessionAuth h mode keyIndex _ => wfH h && wfByte mode && wfByte keyIndex
  | .sessionClose h => wfH h
  | .sessionAuthTimeout => true
  | .sessionIdleExpiry => true
  | .segmentStagingExpiry src => wfSrc src
  | .ledgerCommitComplete _ => true
  | .moduleResetWrite h => wfH h
  | .faultLogClear h => wfH h
  | .heartbeat => true
  | .emergencyRepeat => true
  | .fieldFrameReceive f => wfHalf f.etherType && decide (f.dstMac < 2 ^ 48) && decide (f.srcMac < 2 ^ 48)
  | .powerOnReset => true
  | .moduleReset cause => decide (cause < 7)
  | .startupStepComplete _ => true
  | .positionWaitExpiry => true
  | .watchdogExpiry => true
  | .firmwareRestartEnd => true
  | .fatalAutoResetExpiry => true
  | .d2dCrcFailure link => wfD2d link
  | .d2dFailureTimeout link => wfD2d link
  | .patrolScrub t _ => wfScrub t
  | .rfmRefresh _ => true
  | .sensorCalibration sensor => wfByte sensor
  | .tallyWritebackPass ks => wfKs ks
  | .undervoltageDip => true
  | .undervoltageDeclared => true
  | .supplyRestore => true
  | .refclkLoss _ => true
  | .segmentZeroingEnd fn seg => wfFn fn && wfSeg seg
  | .contextWaitGiveUp q idx => wfQ q && wfIdx idx
  | .droopStretchEnd cluster ns => wfCluster cluster && wfWord ns
  | .undervoltageDipEnd => true
  | .fieldPwrLoss => true
  | .fieldPwrRestore => true
  | .refclkRestore _ => true

end Sys2Proof
end

