-- ==== Sys2Proof/Tests/Slice0.lean ====
section
/-! SUPPORT. Own tests: ill-formed commands are refused, a command of each family does what the manual says on a small state, and
each statement's hypotheses are met by a concrete state. -/

open Sys2Proof Sys2Proof.Machine Sys2Proof.Obl

namespace Sys2Proof.Tests

set_option Elab.async false

/-! ## Small states -/

/-- An entry from its fields (first byte, value), with its mark, owned in the ring's first round. -/
def mkE (fs : List (Nat × Nat)) : Entry :=
  let e : Entry := BitVec.ofNat 512 (fs.foldl (fun a f => a + f.2 * 2 ^ (8 * f.1)) (2 ^ 511))
  e + BitVec.ofNat 512 (computedMark e * (2 ^ 16 + 2 ^ 480))

/-- Send queue 0 of function 1, its control queue, and the PF's first admin ring. -/
def q1 : QRef := { fn := 1, kind := .send, index := 0 }
def c1 : QRef := { fn := 1, kind := .control, index := 0 }
def a0 : QRef := { fn := 0, kind := .admin, index := 0 }

/-- A queue in service: 64 entries, ring in host memory. -/
def live : Queue := { baseLo := 0x10000, size := 6, enable := true, st := .active }

/-- A ring that the device writes: 64 records, in host memory. -/
def ring : OutRing := { baseLo := 0x20000, size := 6, enable := true }

/-- A grant with one cluster. -/
def grant : Grant :=
  { queues := 4, qpBase := 0, cqCount := 4, secure := true, clusters := 1, regionKeys := 100, windowKeys := 100, hbmFrames := 64
    lpddrFrames := 64, mortarSlots := 4, sramQueues := 4 }

/-- A segment of HBM: 4 pages at address 0. -/
def seg0 : Segment := { pages := 4, read := true, write := true, enable := true, valid := true }

/-- Function 1: a virtual device that works. -/
def fn1 : Fn :=
  { vstate := .active, grant := some grant, sends := [(0, live)], control := live, cqs := [(0, ring)], eq := ring
    segs := [(0, seg0)] }

/-- The PF: its completion rings and a segment of its own. -/
def fn0 : Fn := { vstate := .active, cqs := [(0, ring)], eq := ring, segs := [(0, seg0)] }

/-- A module in READY at (1, 1) of wall 1, four by four, with one virtual device and one admin ring. -/
def base : State :=
  { State.reset with
    board := { State.reset.board with step := 12, mstate := 1 }
    wall := { State.reset.wall with pos := some (1, 1), wallNumber := 1, sizeX := 4, sizeY := 4 }
    fns := [(0, fn0), (1, fn1)], admins := [(0, live)], coll := { residue := [] } }

/-- Function 1 changed. -/
def with1 (g : Fn → Fn) (s : State) : State := modFn 1 g s

/-! ## Ill-formed commands: each check of `wellFormed` refuses one -/

def hdr : WHeader := { source := .firmware }
def pkt : Packet := { ptype := .data, bondForm := true, src := 0, dst := 0, ext := .data 0 0 0 1 0 0 }

/-- Queues, functions, indices and opcodes. -/
theorem wf_refuses_rings :
    [Instr.doorbell { q1 with fn := 1025 }, .doorbell { q1 with index := 2 ^ 20 }, .doorbell { c1 with index := 1 },
     .doorbell { a0 with fn := 1 }, .doorbell { a0 with index := 8 }, .write q1 (mkE [(0, 2)]), .send q1 (mkE [(0, 1)]),
     .settleComplete q1 (2 ^ 16), .keyDrainEnd (2 ^ 16), .cqHeadWrite 0 64 0, .eqHeadWrite 1025 0, .registerWrite 0 (2 ^ 26) 0,
     .vdevDrainEnd 1025, .vfFlr 0, .contextWaitGiveUp q1 (2 ^ 16), .keyInstallTransmit 1 (2 ^ 16)].all
      (fun c => !(wellFormed c)) = true := by decide +kernel

/-- Packets, links and frames. -/
theorem wf_refuses_packets :
    [Instr.dataReceive { ks := 2 } pkt, .dataReceive { ks := 0, link := some 8 } pkt, .dataReceive { ks := 0, port := some 4 } pkt,
     .dataReceive { ks := 0 } { pkt with epoch := 256 }, .dataReceive { ks := 0 } { pkt with ecnEcho := 256 },
     .dataReceive { ks := 0 } { pkt with pktIndex := 2 ^ 16 }, .dataReceive { ks := 0 } { pkt with pktCount := 2 ^ 16 },
     .dataReceive { ks := 0 } { pkt with dstQp := 2 ^ 20 }, .dataReceive { ks := 0 } { pkt with tc := 8 },
     .dataReceive { ks := 0 } { pkt with sa := 2 ^ 16 }, .dataReceive { ks := 0 } { pkt with payload := List.replicate 8193 0 },
     .ackReceive { ks := 0 } pkt, .upAck 8 { pkt with ptype := .collective }, .upAck 0 pkt, .tieReceive 0 pkt,
     .contextFetchComplete 2 0 none .clean, .contextFetchComplete 0 0 (some (2 ^ 20)) .clean,
     .bankerWaitExpiry 2 0 0, .bondFrameSend 0 5, .bondFrameSend 8 0,
     .bondFrameReceive 8 ⟨[], []⟩ ⟨0, 0, false⟩, .bondFrameReceive 0 ⟨(List.replicate 27 0), []⟩ ⟨0, 0, false⟩,
     .bondFrameReceive 0 ⟨[], (List.replicate 8321 0)⟩ ⟨0, 0, false⟩, .idleFlitReceive 8 (List.replicate 320 0),
     .idleFlitReceive 0 [], .idleFlitReceive 0 (List.replicate 319 0), .bondFecErrorLimit ⟨0, 10⟩,
     .bondEnableWrite 0 2, .lineContextReopen 2, .treeHopTimeout 0 0 1024 0 true,
     .circuitLayAnswer 0 { handle := 0, source := 0, dest := 0, slots := 129, phase := .laid },
     .circuitLayAnswer 0 { handle := 0, source := 0, dest := 0, slots := 1, phase := .laid, queue := 8 }].all
      (fun c => !(wellFormed c)) = true := by decide +kernel

/-- Compute, memory, ports, power, security and the field side. -/
theorem wf_refuses_units :
    [Instr.stream 512, .tileCommandFinish 0 20, .coreTrap 0 256 0, .bankStateChange 0 16, .segmentZeroingEnd 0 16,
     .walkerReadComplete 0 16 .clean, .migrationStart 0 128, .migrationStart 2 0, .cutterIncrement 64 0,
     .cutterIncrement 0 (2 ^ 16), .ethLinkUp 4, .pauseFrameReceive 0 true 256 [], .pauseFrameReceive 0 true 0 [2 ^ 16],
     .pauseTimerExpiry 0 (some 8), .xoffRepeat 0 9, .ethEnableWrite 0 2, .snoopReceive (2 ^ 64),
     .cxlCompletionTimeout (.qpContext (2 ^ 20)), .cxlCompletionTimeout (.migration 2 0), .cxlCompletionTimeout (.entry q1 (2 ^ 16)),
     .doeRequest (2 ^ 24) [], .getCertificate 256 0 0, .getCertificate 0 (2 ^ 16) 0, .challenge 0 [],
     .getMeasurements 0 false [], .keyExchange [], .clusterReturn 32, .alarm 8, .opChangeComplete 4, .meterSample (2 ^ 32),
     .thermtrip 256, .idleStateEntry (.engine 0 8), .idleStateEntry (.bank 0 16), .idleStateEntry (.cluster 32),
     .idleStateEntry (.die 4), .idleStateEntry (.coreClock 512), .droopStretchEnd 0 (2 ^ 32), .moduleReset 7, .sensorCalibration 256,
     .d2dCrcFailure (.ka 2 0), .d2dCrcFailure (.ka 0 4), .patrolScrub (.hbm (2 ^ 40)) .clean, .patrolScrub (.lpddr (2 ^ 40)) .clean,
     .patrolScrub (.scratch (2 ^ 31)) .clean, .patrolScrub (.clusterStore (2 ^ 30)) .clean, .patrolScrub (.ksram (2 ^ 27)) .clean,
     .patrolScrub (.skippedBank 0 16) .clean, .tallyWritebackPass 2,
     .waiborRead { hdr with source := .field (2 ^ 48) } 0 0, .waiborRead { hdr with wseq := 2 ^ 16 } 0 0,
     .waiborRead { hdr with sessionCtr := 2 ^ 32 } 0 0, .waiborRead hdr (2 ^ 16) 0, .waiborRead hdr 0 256,
     .waiborWrite hdr 0 0 256 [], .waiborWrite hdr 0 0 0 (List.replicate 1017 0), .waiborReadSeg hdr 0 0 (2 ^ 32),
     .waiborWriteSegInit hdr 0 0 (2 ^ 32), .waiborWriteSeg hdr 0 0 true (2 ^ 32) [],
     .waiborWriteSeg hdr 0 0 true 0 (List.replicate 1017 0), .sessionOpen hdr [], .sessionAuth hdr 256 0 [],
     .sessionAuth hdr 0 256 [], .segmentStagingExpiry (.field (2 ^ 48)), .fieldFrameReceive ⟨2 ^ 16, 0, 0, []⟩,
     .fieldFrameReceive ⟨0, 2 ^ 48, 0, []⟩, .fieldFrameReceive ⟨0, 0, 2 ^ 48, []⟩].all
      (fun c => !(wellFormed c)) = true := by decide +kernel

/-- Well-formed ones pass. -/
theorem wf_accepts :
    [Instr.doorbell q1, .write q1 (mkE [(0, 1)]), .dataReceive { ks := 1, link := some 7 } pkt, .stream 511, .migrationStart 1 127,
     .waiborRead { hdr with source := .field 1 } 0x1000 1, .idleStateEntry (.die 3), .moduleReset 6].all wellFormed = true := by
  decide +kernel


/-! ## Entries and their queues: the hypotheses are met -/

/-- The neighbour in the east, and a context opened to it. -/
def peer : W32 := 0x00010102
def ctx0 : Ctx := { index := 0, st := .opened, epoch := 1, txNext := 5, txAcked := 5, rxBase := 3, rto := 1000000 }
def withCtx (k : Ctx) (s : State) : State := setCtx peer k s
def linked : State := withCtx ctx0 base

/-- WRITE, WRITE_SIGNAL, SEND, SIGNAL_ONLY of the whole segment's first bytes to `peer`, signalling semaphore 3 of core 0 by 1. -/
def eWrite : Entry := mkE [(0, 1), (4, 100), (8, 0x1000), (16, 64), (24, 0x10001), (28, 0x00010102), (32, 2)]
def eWriteS : Entry :=
  mkE [(0, 2), (1, 4), (4, 0x40000000), (8, 0), (24, 0x10001), (28, 0x00010102), (32, 2), (36, 12 + 2 ^ 24)]
def eSend : Entry := mkE [(0, 6), (4, 1), (8, 0), (28, 0x00010102), (32, 2), (44, 7)]
def eSig : Entry := mkE [(0, 0x21), (1, 4), (28, 0x00010102), (32, 2), (36, 12 + 2 ^ 24)]

theorem wit_SendEntriesBecomeMessages :
    ∀ p ∈ [(eWrite, 1), (eSend, 6), (eSig, 0x21)], Ready linked q1 p.1 ∧ eOp p.1 = p.2 ∧ destReady linked (eDest p.1) = true ∧
      ctxOf linked (eDest p.1) = some ctx0 ∧ 0 < segmentSize linked ctx0.ethForm ∧
      (eOp p.1 = 0x21 ∨ xlateRights linked (queueFn q1) (eLocal p.1) (eLength p.1) false = .ok) := by
  unfold Ready; decide +kernel

/-- The longest WRITE_SIGNAL, from a segment that holds it. -/
theorem wit_SendEntriesBecomeMessages_longest :
    let s := with1 (fun f => { f with segs := [(0, { seg0 with pages := 512 })] }) linked
    Ready s q1 eWriteS ∧ eOp eWriteS = 2 ∧ destReady s (eDest eWriteS) = true ∧
      ctxOf s (eDest eWriteS) = some ctx0 ∧ 0 < segmentSize s ctx0.ethForm ∧
      xlateRights s (queueFn q1) (eLocal eWriteS) (eLength eWriteS) false = .ok := by
  unfold Ready; decide +kernel

def eRead : Entry := mkE [(0, 3), (4, 8), (8, 0x7FFFF8), (16, 64), (24, 0x10001), (28, 0x00010102), (32, 2)]
def eFa : Entry := mkE [(0, 4), (4, 8), (8, 8), (16, 64), (24, 0x10001), (28, 0x00010102), (32, 2), (44, 1)]
def eCs : Entry := mkE [(0, 5), (4, 8), (8, 8), (16, 64), (24, 0x10001), (28, 0x00010102), (32, 2), (44, 1), (52, 2)]

theorem wit_RequestEntriesAwaitAResponse :
    ∀ p ∈ [(eRead, 3), (eFa, 4), (eCs, 5)], Ready linked q1 p.1 ∧ eOp p.1 = p.2 ∧ destReady linked (eDest p.1) = true ∧
      ctxOf linked (eDest p.1) = some ctx0 ∧ 0 < segmentSize linked ctx0.ethForm ∧
      xlate linked (queueFn q1) (eLocal p.1) (eLength p.1) true = .ok := by
  unfold Ready; decide +kernel

def eWait : Entry := mkE [(0, 8), (44, 5), (48, 10)]
def eFen : Entry := mkE [(0, 9)]
/-- An earlier entry in progress at index 63, the head at 0. -/
def early : Taken := { idx := 63, entry := eWrite }
def busyQ (s : State) : State := modQueue q1 (fun x => { x with taken := [early] }) s

theorem wit_WaitCountAndFenceHoldOrEnd :
    let s := with1 (fun f => { f with counters := [(5, 10)] }) base
    let w := with1 (fun f => { f with counters := [(5, 9)] }) base
    (Ready s q1 eWait ∧ eOp eWait = 8 ∧ counterReached (counterOf s (queueFn q1) (eCounter eWait)) (eTarget eWait) = true) ∧
    (Ready w q1 eWait ∧ counterReached (counterOf w (queueFn q1) (eCounter eWait)) (eTarget eWait) = false) ∧
    (Ready base q1 eFen ∧ eOp eFen = 9 ∧ (queueOf base q1).taken.all (fun u => u.status.isSome) = true) ∧
    (Ready (busyQ base) q1 eFen ∧ (queueOf (busyQ base) q1).taken.all (fun u => u.status.isSome) = false) := by
  unfold Ready; decide +kernel

/-! ## Queues, rings and registers -/

/-- An entry placed at the head of q1's ring. -/
def posted (e : Entry) (s : State) : State := memWrite .host 0x10000 (leBytes 64 e.toNat) s
/-- An entry whose mark is wrong. -/
def torn : Entry := eWrite ^^^ 0x100000000

/-- A ready head, at a doorbell and at a rescan. -/
theorem wit_ScansTakeOrRescan :
    let s := posted eWrite linked
    barOpen s 1 = true ∧ ringsFor s q1 = true ∧ (queueOf s q1).enable = true ∧ (queueOf s q1).st = .active ∧
      (queueOf s q1).rescanAt = none ∧ Takes q1 eWrite s := by
  unfold Takes Lone Ready NothingMore; decide +kernel

theorem wit_ScansTakeOrRescan_rescan :
    let r := modQueue q1 (fun x => { x with rescanAt := some 7, rescanLimit := 8, tornCount := 1 }) (posted eWrite linked)
    (queueOf r q1).rescanAt = some 7 ∧ Takes q1 eWrite (modQueue q1 (fun x => { x with rescanAt := none }) (advanceTo 7 r)) := by
  unfold Takes Lone Ready NothingMore; decide +kernel

theorem wit_ScansTakeOrRescan_torn :
    let s := posted torn linked
    let r := modQueue q1 (fun x => { x with rescanAt := some 7, rescanLimit := 8, tornCount := 7 }) s
    let u := modQueue q1 (fun x => { x with rescanAt := none }) (advanceTo 7 r)
    (barOpen s 1 = true ∧ ringsFor s q1 = true ∧ (queueOf s q1).enable = true ∧ (queueOf s q1).st = .active ∧
      (queueOf s q1).rescanAt = none ∧ FindsTorn q1 s) ∧
    ((queueOf r q1).rescanAt = some 7 ∧ FindsTorn q1 u) := by
  unfold FindsTorn Lone; decide +kernel

/-- The torn count at its limit, on a send queue and on an admin ring. -/
theorem wit_TornLimitHalts :
    let s := modQueue q1 (fun x => { x with rescanAt := some 7, rescanLimit := 1, tornCount := 1 }) (posted torn base)
    let a := modQueue a0 (fun x => { x with rescanAt := some 7, rescanLimit := 1, tornCount := 1 }) (posted torn base)
    ((queueOf s q1).rescanAt.isSome = true ∧ (queueOf s q1).rescanLimit ≤ (queueOf s q1).tornCount ∧
      (queueOf s q1).tornCount ≠ 0 ∧ eOwner (headEntry s q1) = (queueOf s q1).phase ∧ eWhole (headEntry s q1) = false ∧
      queueServed s q1 = true ∧ q1.kind ≠ .admin ∧ (fnOf s q1.fn).vstate = .active) ∧
    ((queueOf a a0).rescanAt.isSome = true ∧ (queueOf a a0).rescanLimit ≤ (queueOf a a0).tornCount ∧
      (queueOf a a0).tornCount ≠ 0 ∧ eOwner (headEntry a a0) = (queueOf a a0).phase ∧ eWhole (headEntry a a0) = false ∧
      queueServed a a0 = true ∧ a0.kind = .admin) := by
  decide +kernel

/-- A head held for each reason, which nothing holds any more. -/
theorem wit_ReleasesTakeTheHeldHead :
    let w := modQueue q1 (fun x => { x with hold := .waitCount, heldEntry := some eWait })
      (with1 (fun f => { f with counters := [(5, 10)] }) (posted eWait base))
    let f := modQueue q1 (fun x => { x with hold := .fence, heldEntry := some eFen }) (posted eFen base)
    let g := modQueue q1 (fun x => { x with hold := .fenceFlag, heldEntry := some eWrite }) (posted eWrite linked)
    let h := modQueue q1 (fun x => { x with hold := .head, heldEntry := some eWrite }) (posted eWrite linked)
    let k := modQueue q1 (fun x => { x with hold := .gate, heldEntry := some eWrite }) (posted eWrite linked)
    ∀ p ∈ [(w, eWait), (f, eFen), (g, eWrite), (h, eWrite), (k, eWrite)],
      (queueOf p.1 q1).heldEntry.isSome = true ∧ Takes q1 p.2 p.1 := by
  unfold Takes Lone Ready NothingMore; decide +kernel

/-- The consumer's index of a ring with nothing held; events dropped while the ring was full. -/
theorem wit_HeadWritesMoveTheConsumer :
    let d := with1 (fun f => { f with eventsDropped := 2, eq := { ring with prod := 3, cons := 4 } }) base
    (barOpen base 1 = true ∧ (63 : Nat) < 64 ∧ (cqOf base 1 63).held = [] ∧ (fnOf base 1).eventsDropped = 0) ∧
    (barOpen d 1 = true ∧ (fnOf d 1).eventsDropped ≠ 0 ∧ (fnOf d 1).eq.enable = true ∧
      ({ (fnOf d 1).eq with cons := (3 : W32).toNat % 65536, armed := true } : OutRing).full = false ∧ hostOk d = true) := by
  decide +kernel

def toOpen (s : State) : State :=
  with1 (fun f => { f with xw := { pages := 1, enable := true }, sends := [(0, { live with enable := false, st := .reset })],
                           control := { live with enable := false, st := .reset } }) s

/-- An enable of each kind of queue, let through and refused (weight 0; a ring that is not enabled). -/
theorem wit_QueueEnable :
    let s := toOpen base
    let c := with1 (fun f => { f with qselKind := 1 }) s
    let a := { s with fns := tset s.fns 0 { fn0 with qselKind := 4 }, admins := [(0, { live with enable := false, st := .reset })] }
    (barOpen s 1 = true ∧ bitOf (0x1001 : W32).toNat 0 = true ∧ (fnOf s 1).qselKind = 0 ∧ (fnOf s 1).qselIndex = 0 ∧
      (queueOf s q1).enable = false ∧ fieldOf (0x1001 : W32).toNat 8 8 ≠ 0 ∧
      queueRefused s q1 (fieldOf (0x1001 : W32).toNat 2 6) = false) ∧
    ((fnOf c 1).qselKind = 1 ∧ (fnOf c 1).qselIndex = 0 ∧ (queueOf c c1).enable = false ∧ queueRefused c c1 0 = false) ∧
    (barOpen a 0 = true ∧ (fnOf a 0).qselKind = 4 ∧ (queueOf a a0).enable = false ∧ queueRefused a a0 0 = false) ∧
    (fieldOf (0x0001 : W32).toNat 8 8 = 0 ∧ queueRefused s q1 (fieldOf (0x1005 : W32).toNat 2 6) = true) := by decide +kernel

/-- A disable of an idle queue, and of one with an entry in progress. -/
theorem wit_QueueDisable :
    (barOpen base 1 = true ∧ bitOf (0x1000 : W32).toNat 0 = false ∧ (fnOf base 1).qselKind = 0 ∧ (fnOf base 1).qselIndex = 0 ∧
      (queueOf base q1).enable = true ∧ (queueOf base q1).st = .active ∧ (queueOf base q1).hold ≠ .waitCount ∧
      (queueOf base q1).taken = [] ∧ (cqOf base 1 (queueOf base q1).cq).held = []) ∧
    ((queueOf (busyQ base) q1).enable = true ∧ (queueOf (busyQ base) q1).st = .active ∧
      (queueOf (busyQ base) q1).hold ≠ .waitCount ∧ (queueOf (busyQ base) q1).taken = [early] ∧ early.status = none) := by
  decide +kernel

theorem wit_CounterReadLatches : barOpen base 1 = true := by decide +kernel

theorem wit_RegisterWriteByAddress :
    base.board.supply = true ∧ barOpen base 1 = true ∧ barOpen base 1024 = true ∧ 8 * 0x17FF < 0xC000 := by decide +kernel

/-! ## Keys -/

/-- REGION_REGISTER of 2 pages, with a key address at 0x1000; WINDOW_OPEN of a scratchpad; entries of an idle index. -/
def eReg : Entry := mkE [(0, 0x88), (4, 0x2000), (8, 0), (44, 3), (52, 0x1000)]
def eRegM : Entry := mkE [(0, 0x88), (4, 0x2000), (8, 0), (44, 3), (52, 0x600000)]
def eWin : Entry := mkE [(0, 0x8A), (4, 0x4000), (8, 0), (44, 1), (45, 1), (46, 0), (52, 0x1000)]
def gens (s : State) : State :=
  { s with keys := { s.keys with table := [(1, { generation := 5 }), (0xC000, { generation := 9 })] } }

theorem wit_RegistrationMakesAKey :
    (Ready (gens base) c1 eReg ∧ eOp eReg = 0x88 ∧ keyRefusal (gens base) 1 false eReg = none ∧
      keysUsed (gens base) 1 false < keyGrant (gens base) 1 false ∧ xlate (gens base) 1 (eKeyAddr eReg) 4 true = .ok ∧
      (allocKey false (gens base)).isSome = true ∧ eKeyTarget eReg ≠ 1 ∧
      segHolding (gens base) 1 (eLocal eReg) (eKeyLen eReg) = some 0 ∧ (segOf (gens base) 1 0).migratory = false) ∧
    (Ready (gens base) c1 eWin ∧ eOp eWin = 0x8A ∧ keyRefusal (gens base) 1 true eWin = none ∧
      keysUsed (gens base) 1 true < keyGrant (gens base) 1 true ∧ xlate (gens base) 1 (eKeyAddr eWin) 4 true = .ok ∧
      (allocKey true (gens base)).isSome = true ∧ eKeyTarget eWin = 1) := by
  unfold Ready; decide +kernel

/-- A region over a migratory segment of two pages, its key stored in a second segment. -/
theorem wit_RegistrationMakesAKey_migratory :
    let s := gens (with1 (fun f => { f with
      segs := [(0, { seg0 with pages := 2, migratory := true }), (1, { seg0 with vaLo := 0x400000, pages := 2 })] }) base)
    Ready s c1 eRegM ∧ keyRefusal s 1 false eRegM = none ∧ keysUsed s 1 false < keyGrant s 1 false ∧
      xlate s 1 (eKeyAddr eRegM) 4 true = .ok ∧ (allocKey false s).isSome = true ∧ eKeyTarget eRegM ≠ 1 ∧
      segHolding s 1 (eLocal eRegM) (eKeyLen eRegM) = some 0 ∧ (segOf s 1 0).migratory = true ∧
      (segOf s 1 0).migrationsFail = false ∧ hostOk s = true ∧
      (pagesOf (eLocal eRegM - segBase (segOf s 1 0)) (eKeyLen eRegM)).all (fun p =>
        !(pageOf s 1 0 p).lost && !(pageOf s 1 0 p).migrating && (pageOf s 1 0 p).pins != 4095) = true ∧
      (pinRun 1 0 (pagesOf (eLocal eRegM - segBase (segOf s 1 0)) (eKeyLen eRegM))
        ((fnOf (vtouch (ksAgent (queueKs (advanceHead eRegM c1 s) c1)) 1 (eKeyAddr eRegM) 4 (advanceHead eRegM c1 s)) 1).pages.length + 1)
        (atKey c1 eRegM s)).isSome = true := by
  unfold Ready; decide +kernel

/-- A key of function 1 at index 1 with generation 5, its window at index 0xC000, and a revoked index 2. -/
def keyed (s : State) : State :=
  { s with keys := { s.keys with waits := [.key 2 c1 0], table :=
    [(1, { generation := 5, owner := 1, valid := true, rights := 7, length := 0x2000 }),
     (2, { generation := 6, owner := 1, revoking := true }),
     (0xC000, { generation := 9, owner := 1, valid := true, window := true, rights := 3, length := 0x2000 }),
     (0xFFFF, { generation := 9, owner := 1, revoking := true, window := true })] } }
def eDereg : Entry := mkE [(0, 0x89), (24, 0x50001)]
def eDeregOld : Entry := mkE [(0, 0x89), (24, 0x40001)]
def eRevoke : Entry := mkE [(0, 0x8B), (24, 0x9C000)]

theorem wit_RevocationBeginsADrain :
    let s := keyed base
    (Ready s c1 eDereg ∧ eOp eDereg = 0x89 ∧ keyCurrent s (eKey eDereg) = true ∧ (keyOf s (keyIdx (eKey eDereg))).owner = c1.fn ∧
      (keyOf s (keyIdx (eKey eDereg))).window = false) ∧
    (Ready s c1 eRevoke ∧ eOp eRevoke = 0x8B ∧ keyCurrent s (eKey eRevoke) = true ∧
      (keyOf s (keyIdx (eKey eRevoke))).window = true) ∧
    (Ready s c1 eDeregOld ∧ keyCurrent s (eKey eDeregOld) = false ∧ (keyOf s (keyIdx (eKey eDeregOld))).revoking = false) := by
  unfold Ready; decide +kernel

theorem wit_DrainEndFreesTheIndex :
    ∀ i ∈ [2, 0xFFFF], (keyOf (keyed base) i).revoking = true ∧ keyDrained (keyed base) i = true := by decide +kernel

def eSettle : Entry := mkE [(0, 0x8C)]

theorem wit_SettleWaitsForEarlierAccesses :
    let u : Taken := { idx := 63, entry := eSettle }
    let s := modQueue c1 (fun x => { x with taken := [u] }) { base with keys := { base.keys with waits := [.settle c1 63 4] } }
    (Ready base c1 eSettle ∧ eOp eSettle = 0x8C) ∧
    (isFatal s = false ∧ s.keys.waits = [.settle c1 63 4] ∧ settled s 1 4 = true ∧ takenAt? s c1 63 = some u ∧
      (queueOf s c1).st = .active ∧ (queueOf s c1).closing = false) := by
  unfold Ready; decide +kernel

/-- A queue with a receive area of 64 slots, 60 of them held by software; a return of all and one beyond. -/
theorem wit_ReceiveSlotsReturn :
    let s := modQueue q1 (fun x => { x with recvKey := 0x50001, recvFree := 4 }) base
    barOpen s 1 = true ∧ (fnOf s 1).qselKind = 0 ∧ (queueOf s (selQueue s 1)).enable = true ∧
      (queueOf s (selQueue s 1)).recvKey ≠ 0 ∧
      2 ^ (queueOf s (selQueue s 1)).recvLog2Slots - (queueOf s (selQueue s 1)).recvFree -
        (queueOf s (selQueue s 1)).slotsUsed.length < (61 : W32).toNat % 2 ^ 17 := by decide +kernel

/-- One entry in progress that asks for a record, in a ring of host memory with room. -/
theorem wit_EntriesEndWithRecords :
    let t : Taken := { idx := 63, entry := mkE [(0, 1), (1, 1), (4, 100), (28, 0x00010102)] }
    let s := modQueue q1 (fun x => { x with taken := [t] }) base
    (queueOf s q1).taken = [t] ∧ t.status = none ∧ (queueOf s q1).st = .active ∧ (queueOf s q1).closing = false ∧
      isFatal s = false ∧ (cqOf s (queueFn q1) (queueOf s q1).cq).held = [] ∧
      (cqOf s (queueFn q1) (queueOf s q1).cq).full = false ∧ (cqOf s (queueFn q1) (queueOf s q1).cq).enable = true ∧
      hostOk s = true ∧ eBatch t.entry = true ∧ eOp t.entry ≠ 0x10 ∧ eOp t.entry ≠ 0x20 ∧ (queueOf s q1).heldEntry = none := by
  decide +kernel

/-! ## Packets -/

/-- The hypotheses of `Admits` for a packet in the clear, as a computation. -/
def admitsB (rx : RxInfo) (p : Packet) (s : State) : Bool :=
  isSequenced p && decide (p.epoch ≠ 0) && decide (wireBad (takeIn rx p s) p = none) && authentic (takeIn rx p s) p &&
  !p.secure &&
  (ctxOf (takeIn rx p s) (ctxPeer p)).any (fun c => c.onChip && decide (c.st = .opened) && decide (p.epoch = c.epoch)) &&
  !(countWrong (takeIn rx p s) p) && !(refusesAll (atWindow rx p p s)) &&
  (ctxOf (atWindow rx p p s) (ctxPeer p)).any (fun k => decide (0 ≤ sdist p.seq k.rxBase) && decide (sdist p.seq k.rxBase < 1024) &&
    !(winBit k.seen (sdist p.seq k.rxBase).toNat)) &&
  decide ((rxOps.judge rx p (atWindow rx p p s)).1 = .admitted)

def admitted (rx : RxInfo) (p : Packet) (s : State) : State := (rxOps.judge rx p (atWindow rx p p s)).2

theorem openSecure_clear {s : State} {p : Packet} (h : p.secure = false) : openSecure s p = .ok p := by
  simp [openSecure, h]

theorem admits_of_admitsB {rx : RxInfo} {p : Packet} {s : State} (h : admitsB rx p s = true) :
    Admits rx p p s (admitted rx p s) := by
  simp only [admitsB, Bool.and_eq_true, decide_eq_true_eq, Option.any_eq_true, Bool.not_eq_true'] at h
  obtain ⟨⟨⟨⟨⟨⟨⟨⟨⟨a, d⟩, b⟩, c⟩, x⟩, k, hk, ⟨e1, e2⟩, e3⟩, f⟩, g⟩, m, hm, ⟨i1, i2⟩, i3⟩, j⟩ := h
  exact ⟨a, d, b, c, openSecure_clear x, d, ⟨k, hk, e1, e2, e3⟩, f, g, ⟨m, hm, i1, i2, i3⟩, Prod.ext j rfl⟩

/-- A module with a context to `peer`, function 1's queue on chip, its key at index 1, a request outstanding, a refused message. -/
def rxBase0 : State :=
  let s := keyed base
  { s with enpin := { s.enpin with
      ctxs := [(peer.toNat, { ctx0 with reqs :=
        [{ msgId := 40, owner := .entry q1 63, fn := 1, localVa := 0x100, length := 8, acked := true },
         { msgId := 41, owner := .none, fn := 1, localVa := 0x100, length := 8 }] })],
      trackers := [{ peer := peer, epoch := 1, msgId := 9, ks := 0, st := .refused, pktCount := 1 }], qpOnChip := [0] } }
def rx0 : RxInfo := { ks := 0, link := some 0 }
def proto (t : PType) (x : PExt) : Packet :=
  { ptype := t, bondForm := true, epoch := 1, src := peer, dst := 0x00010101, seq := 3, ackSeq := 4, msgId := 8, pktCount := 1,
    dstQp := 0, ext := x }
def pData : Packet := { proto .data (.data 0x50001 64 2 1 0 0) with payload := List.replicate 16 7 }
def pReadReq : Packet := proto .readRequest (.data 0x50001 64 2 3 16 0)
def pAtomic : Packet := proto .atomic (.data 0x50001 64 2 4 5 0)
def pResp : Packet := { proto .readResponse (.response 0 40) with payload := List.replicate 8 7 }
def pAtomResp : Packet := proto .atomicResponse (.response 77 41)
def pAbort : Packet := { proto .abort (.abort 0x20 6) with msgId := 9 }

theorem admits_of_each : ∀ p ∈ [pData, pReadReq, pAtomic, pResp, pAtomResp, pAbort], admitsB rx0 p rxBase0 = true := by
  decide +kernel

theorem wit_AdmittedPacketsAreExecuted :
    ∀ p ∈ [pData, pReadReq, pAtomic, pResp, pAtomResp, pAbort], Admits rx0 p p rxBase0 (admitted rx0 p rxBase0) :=
  fun p h => admits_of_admitsB (admits_of_each p h)

theorem wit_ExecutedPacketsTakeEffect :
    let s := rxBase0
    let e (p : Packet) := executing rx0 p (admitted rx0 p s)
    (pData.payload ≠ [] ∧ trackerOf (e pData) (ctxPeer pData) pData.msgId = none) ∧
    trackerOf (e pReadReq) (ctxPeer pReadReq) pReadReq.msgId = none ∧
    (trackerOf (e pAtomic) (ctxPeer pAtomic) pAtomic.msgId = none ∧ (admitted rx0 pAtomic s).memWf = true ∧
      badIn (tierMem (keyOf (e pAtomic) (keyIdx (accessOf (e pAtomic) pAtomic).key)).tier)
        ((keyOf (e pAtomic) (keyIdx (accessOf (e pAtomic) pAtomic).key)).base + (accessOf (e pAtomic) pAtomic).off) 8 (e pAtomic)
          = none) ∧
    (∃ r, requestOf (e pResp) pResp = some r ∧ (responseOffset pResp).toNat + pResp.payload.length ≤ r.length ∧ r.length ≠ 0) ∧
    (∃ r, requestOf (e pAtomResp) pAtomResp = some r ∧ r.owner = .none) ∧
    (∃ x, trackerOf (e pAbort) (ctxPeer pAbort) pAbort.msgId = some x ∧ x.st = .refused) ∧
    (∃ k, ctxOf (e pAbort) (ctxPeer pAbort) = some k ∧ ∀ r ∈ k.reqs, pAbort.msgId ∉ r.resp) :=
  ⟨by decide +kernel, by decide +kernel, by decide +kernel,
    ⟨(requestOf (executing rx0 pResp (admitted rx0 pResp rxBase0)) pResp).get (by decide +kernel), by simp, by decide +kernel⟩,
    ⟨(requestOf (executing rx0 pAtomResp (admitted rx0 pAtomResp rxBase0)) pAtomResp).get (by decide +kernel), by simp,
      by decide +kernel⟩,
    ⟨(trackerOf (executing rx0 pAbort (admitted rx0 pAbort rxBase0)) (ctxPeer pAbort) pAbort.msgId).get (by decide +kernel),
      by simp, by decide +kernel⟩,
    ⟨(ctxOf (executing rx0 pAbort (admitted rx0 pAbort rxBase0)) (ctxPeer pAbort)).get (by decide +kernel), by simp,
      by decide +kernel⟩⟩

/-- A context that nobody has opened yet, and an opening. -/
def fresh0 : State := withCtx { ctx0 with st := .unopened, epoch := 0 } base
def pOpen : Packet := { pData with epoch := 0, seq := 0xFFFFFFFF }

/-- An opening to a context that never lived, one under the number that opened it, and another, within the hold and after it. -/
theorem wit_OpeningsBeginALife :
    let c : Ctx := { ctx0 with st := .unopened, epoch := 0 }
    let o : Ctx := { ctx0 with openSeq := 0xFFFFFFFF }
    let d : Ctx := { ctx0 with openSeq := 7 }
    let late : State := { withCtx d base with now := 10 ^ 12 }
    (isSequenced pOpen = true ∧ pOpen.epoch = 0 ∧ pOpen.secure = false ∧ isLine (ctxPeer pOpen) = false) ∧
    (wireBad (takeIn rx0 pOpen fresh0) pOpen = none ∧ authentic (takeIn rx0 pOpen fresh0) pOpen = true ∧
      ctxOf (takeIn rx0 pOpen fresh0) (ctxPeer pOpen) = some c ∧ c.onChip = true ∧ c.st = .unopened ∧ c.epoch = 0) ∧
    (wireBad (takeIn rx0 pOpen (withCtx o base)) pOpen = none ∧
      ctxOf (takeIn rx0 pOpen (withCtx o base)) (ctxPeer pOpen) = some o ∧ o.st = .opened ∧ o.openSeq = pOpen.seq) ∧
    (ctxOf (takeIn rx0 pOpen (withCtx d base)) (ctxPeer pOpen) = some d ∧ d.openSeq ≠ pOpen.seq ∧
      (nowUs (takeIn rx0 pOpen (withCtx d base)) - d.epochTime) * 1000 <
        timerN (takeIn rx0 pOpen (withCtx d base)) 9 (takeIn rx0 pOpen (withCtx d base)).now) ∧
    (wireBad (takeIn rx0 pOpen late) pOpen = none ∧ ctxOf (takeIn rx0 pOpen late) (ctxPeer pOpen) = some d ∧
      timerN (takeIn rx0 pOpen late) 9 (takeIn rx0 pOpen late).now ≤ (nowUs (takeIn rx0 pOpen late) - d.epochTime) * 1000) := by
  decide +kernel

def out0 : OutPkt := { seq := 5, msgId := 40, index := 0, firstSent := 0, lastSent := 0, timeout := 1000000, tmpl := pData }
def ctxOut (o : OutPkt) : Ctx := { ctx0 with txNext := 6, outs := [o] }
def pAck : Packet := { proto .ack (.ack 6 1) with ackSeq := 6 }
def pNack : Packet := proto .nack (.nack 0x10 0 5 0)
def pRnr : Packet := proto .rnr (.rnr 1 3 5)
def outAbort : OutPkt := { out0 with abort := some 0x20 }

def txm : TxMsg :=
  { msgId := 0, owner := .entry q1 63, ptype := .data, ext := .data 0x50001 0 0 1 0 0, src := .va 1 0x1000, start := 0, len := 16
    pktCount := 1, segment := 8192, dstQp := 2, fn := 1 }
def ctxMsg : Ctx := { ctx0 with msgs := [txm], msgNext := 1 }

theorem wit_AnswersSettleTheirPackets :
    let a := withCtx (ctxOut out0) base
    let n := withCtx (ctxOut outAbort) base
    (wireBad (takeIn rx0 pAck a) pAck = none ∧ isLine (ctxPeer pAck) = false ∧
      ctxOf (takeIn rx0 pAck a) (ctxPeer pAck) = some (ctxOut out0) ∧ pAck.epoch = (ctxOut out0).epoch ∧
      cumCovers (ccTouch (takeIn rx0 pAck a) (ctxOut out0)) pAck.ackSeq out0 = true) ∧
    (wireBad (takeIn rx0 pNack n) pNack = none ∧ isLine (ctxPeer pNack) = false ∧
      ctxOf (takeIn rx0 pNack n) (ctxPeer pNack) = some (ctxOut outAbort) ∧ pNack.epoch = (ctxOut outAbort).epoch ∧
      (0x10 : Nat) ≠ stRemoteReset ∧ (ctxOut outAbort).onChip = true ∧ (ctxOut outAbort).st = .opened) ∧
    (let k := { ctxOut { out0 with msgId := 0 } with msgs := [{ txm with next := 1 }] }
     wireBad (takeIn rx0 pNack (withCtx k base)) pNack = none ∧ ctxOf (takeIn rx0 pNack (withCtx k base)) (ctxPeer pNack) = some k ∧
      (k.msgs.filter (fun m => m.msgId == 0 && m.ptype != .abort)).head? = some { txm with next := 1 } ∧
      k.outs.all (fun o => o.seq == 5 && o.abort.isNone) = true) ∧
    (wireBad (takeIn rx0 pRnr a) pRnr = none ∧ isLine (ctxPeer pRnr) = false ∧
      ctxOf (takeIn rx0 pRnr a) (ctxPeer pRnr) = some (ctxOut out0) ∧ pRnr.epoch = (ctxOut out0).epoch ∧
      (ctxOut out0).outs = [out0] ∧ out0.seq = 5 ∧ (ctxOut out0).rnrUntil = none) := by decide +kernel

def trk : Tracker := { peer := peer, epoch := 1, msgId := 9, ks := 0, pktCount := 3, written := 1 }
def adm0 : Adm :=
  { num := 0, peer := peer, seq := 3, ks := 0, keyIndex := 1, vdev := 1, tgt := .tier 0 64, data := [1, 2, 3, 4], msgId := 9,
    pktCount := 3 }

theorem wit_WritesAreCounted :
    let n := { linked with enpin := { linked.enpin with notices := [(peer, 2, 9)], trackers := [trk] } }
    let w := { linked with enpin := { linked.enpin with adms := [adm0] } }
    (trackerOf n peer 9 = some trk ∧ trk.written + 1 < trk.pktCount) ∧
    (adm0.written = false ∧ adm0.response = none ∧ adm0.tracked = true ∧ padWait w adm0 = none ∧ w.memWf = true) := by
  decide +kernel

theorem wit_ContextTimers :
    let s := withCtx { ctx0 with unreported := 1, unreportedAt := 500 } base
    (ctxOf s peer = some { ctx0 with unreported := 1, unreportedAt := 500 } ∧ isReady s = true) ∧
    (ctxOf linked peer = some ctx0 ∧ ctx0.onChip = true) ∧
    (ctxOf (withCtx ctxMsg base) peer = some ctxMsg ∧ ctxMsg.onChip = true ∧ ctxWaits (withCtx ctxMsg base) peer ctxMsg = true) := by
  decide +kernel

/-- A packet in the last place of the window. -/
theorem wit_TransmitNumbersThePacket :
    let s := busyQ (withCtx { ctxMsg with txNext := 5 + 1023 } base)
    let u := ensureOpening peer (renewSelf peer (touchCtx peer s))
    ∃ c, ctxOf u peer = some c ∧ isReady s = true ∧ c.st = .opened ∧ nextMsg u peer c = some txm ∧ txm.ptype ≠ .abort ∧
      txm.secure = false ∧ ((ctxOf (touchCtx peer s) peer).bind nextResend) = none ∧
      ((ctxOf (touchCtx peer s) peer).bind (nextMsg (touchCtx peer s) peer)).isSome = true ∧ (ctxOf s peer).isSome = true ∧
      sdist c.txNext c.txAcked < 1024 ∧ c.rnrUntil = none ∧ gatesOpen u c = true ∧
      outRoom u (builderKs u txm.owner peer c.home) = true ∧
      srcBank u txm (pktSpan txm txm.next).1 (pktSpan txm txm.next).2 = none ∧
      srcRead u txm (pktSpan txm txm.next).1 (pktSpan txm txm.next).2 = .ok (List.replicate 16 0) ∧
      ownerShaper u txm.owner peer = some 0 ∧ shaperOpen u 0 txm.fn txm.tc = true :=
  ⟨(ctxOf (ensureOpening peer (renewSelf peer (touchCtx peer (busyQ (withCtx { ctxMsg with txNext := 5 + 1023 } base))))) peer).get
    (by decide +kernel), by simp, by decide +kernel⟩

theorem wit_TimeoutsSendAgain :
    let s := withCtx (ctxOut out0) base
    let c := { ctx0 with rnrUntil := some (5, 700) }
    let r := withCtx c base
    let d := { r with board := { r.board with mstate := 2 } }
    (outOf s peer 5 = some out0 ∧ out0.resend = false ∧ isReady s = true) ∧
    let w := ctxOut { out0 with rnrWait := true }
    (ctxOf r peer = some c ∧ isReady r = true ∧ c.outs = []) ∧ (ctxOf d peer = some c ∧ isReady d = false) ∧
    (ctxOf (withCtx { w with rnrUntil := some (5, 700) } base) peer = some { w with rnrUntil := some (5, 700) } ∧
      lowestWaiting { w with rnrUntil := some (5, 700) } = some 5) := by
  decide +kernel

def req0 : PendReq := { msgId := 40, owner := .entry q1 63, fn := 1, localVa := 0x100, length := 8, acked := true }

theorem wit_GiveUpEndsTheEntry :
    let c := { ctxOut { out0 with msgId := 0 } with msgs := [{ txm with next := 1 }] }
    let d := { ctx0 with reqs := [req0] }
    let s := busyQ (withCtx c base)
    let r := busyQ (withCtx d base)
    (outOf s peer 5 = some { out0 with msgId := 0 } ∧ ctxOf s peer = some c ∧ c.st = .opened ∧ isReady s = true ∧ isLine peer = false ∧
      (c.msgs.filter (fun m => m.msgId == 0 && m.ptype != .abort)).head? = some { txm with next := 1 } ∧
      takenAt? s q1 63 = some early ∧ (queueOf s q1).st = .active ∧ (queueOf s q1).closing = false) ∧
    (ctxOf r peer = some d ∧ (d.reqs.filter (fun r => r.msgId == 40)).head? = some req0 ∧ req0.acked = true ∧ isReady r = true ∧
      takenAt? r q1 63 = some early ∧ (queueOf r q1).st = .active ∧ (queueOf r q1).closing = false) := by decide +kernel

theorem wit_GiveUpClosesTheContext :
    let c := { ctxOut out0 with st := .opening }
    let f := { ctxOut { out0 with msgId := 0 } with st := .opening, msgs := [txm] }
    let x := { outAbort with abortSent := true }
    let s := withCtx c base
    let a := withCtx (ctxOut x) base
    (ctxOf s peer = some c ∧ c.outs = [out0] ∧ isReady s = true ∧ isLine peer = false ∧ c.msgs = []) ∧
    (ctxOf (withCtx f base) peer = some f ∧ (f.msgs.filter (fun m => m.msgId == 0)).head? = some txm) ∧
    (ctxOf a peer = some (ctxOut x) ∧ outOf a peer 5 = some x ∧ x.abort.isSome = true ∧ x.abortSent = true ∧ isReady a = true ∧
      (ctxOut x).reqs = [] ∧ (ctxOut x).msgs = []) := by decide +kernel

theorem wit_ContextsComeOnChip :
    let c := { ctx0 with onChip := false }
    let s := withCtx c base
    let x : Parked := { rx := rx0, pkt := pData, blocks := 1, needTally := true, needQp := none, at_ := 0 }
    let b := { s with enpin := { s.enpin with banker0 := [x] } }
    let u := { early with waitsContext := true }
    let w := modQueue q1 (fun y => { y with taken := [u] }) linked
    (ctxOf s peer = some c ∧ ScrubResult.corrected ≠ .uncorrectable ∧ s.enpin.banker0 = [] ∧ s.enpin.banker1 = [] ∧
      chipRoom s c.home = true) ∧
    (hostOk s = true ∧ bankerOf s 1 = []) ∧
    (bankerOf b (0 % 2) = [x] ∧ ctxPeer x.pkt = peer ∧ x.pkt.seq = 3) ∧
    (takenAt? w q1 63 = some u ∧ eOp u.entry = 1 ∧ destReady w (eDest u.entry) = true ∧ ctxOf w (eDest u.entry) = some ctx0 ∧
      0 < segmentSize w ctx0.ethForm) := by decide +kernel

/-- A shaper at its floor and one at its ceiling. -/
theorem wit_ShapersTick :
    let h : Shaper := { slope := 5, wSlope := 5, active := true, credit := -0x80000 }
    let s := { base with shapers := [(shaperKey 0 1 7, h), (shaperKey 1 2047 0, { h with credit := 0x80000 })] }
    tfind s.shapers (shaperKey 0 1 7) = some h ∧ (tfind s.shapers (shaperKey 1 2047 0)).isSome = true ∧ h.wSlope ≠ 0 := by
  decide +kernel

/-- The smallest and the largest telemetry ring; a sample that a full ring cannot take. -/
theorem wit_TelemetrySamples :
    let s := with1 (fun f => { f with telem := { f.telem with ring := ring, count := 64 } }) base
    let w := with1 (fun f => { f with telem := { enable := true, count := 1, ring := { ring with prod := 63 } } }) base
    (∀ n ∈ [0x946, 0x950], let v : W32 := BitVec.ofNat 32 n; barOpen s 1 = true ∧ bitOf v.toNat 6 = true ∧ (fnOf s 1).telem.enable = false ∧
      6 ≤ v.toNat % 32 ∧ v.toNat % 32 ≤ 16 ∧ bitOf v.toNat 5 = false ∧ (fnOf s 1).telem.count ≤ 64 ∧
      ringSram (BitVec.ofNat 32 (v.toNat % 32)) = false ∧ ringLog2 (BitVec.ofNat 32 (v.toNat % 32)) = v.toNat % 32) ∧
    ((fnOf w 1).telem.enable = true ∧ (fnOf w 1).telem.count = 1 ∧ (fnOf w 1).telem.ports = false ∧ telemRoom w 1 = false) := by decide +kernel

/-! ## The wall -/

/-- An announcement of the module at (x, y), every link up. -/
def heard (x y : Nat) : Nat × HeldAnnounce :=
  ((mkId 1 x y).toNat, { a := { origin := mkId 1 x y, nonce := 1, aseq := 1, linksDown := 0, fenced := false }, at_ := 0 })

/-- Every link up and every module of the wall heard. -/
def walled (s : State) : State :=
  { s with wall := { s.wall with
      links := (List.range 8).map (fun l => (l, { st := .up }))
      anns := ((List.range 4).map (fun y => (List.range 4).map (fun x => heard x y))).flatten } }
def wall0 : State := walled linked
def withLink (l : Nat) (x : Link) (s : State) : State := modLink l (fun _ => x) s
def eMul : Entry := mkE [(0, 7), (4, 100), (8, 0), (16, 64), (24, 0x10001), (28, 0x00010102), (32, 2), (44, 0), (48, 13)]

/-- A multicast along the course; a line with a live position that is no member; an entry that waited for a context. -/
theorem wit_MulticastUsesItsLine :
    let s := setCtx (lineId wall0 0) ctx0 wall0
    let u := { early with waitsContext := true }
    let w := modQueue q1 (fun y => { y with taken := [u] }) linked
    (eOp eMul = 7 ∧ Ready s q1 eMul ∧ xlateRights s 1 (eLocal eMul) (eLength eMul) false = .ok ∧
      (linePositions s (eAxis eMul)).isEmpty = false ∧ ctxOf s (lineId s (eAxis eMul)) = some ctx0 ∧
      0 < segmentSize s ctx0.ethForm) ∧
    (ctx0.st = .opened ∧ ctx0.outs = [] ∧ ctxOf s (lineId s (4 % 2)) = some ctx0 ∧
      (linePositions s (4 % 2)).any (fun n => !(bitOf ctx0.members.toNat n)) = true) ∧
    (takenAt? w q1 63 = some u ∧ isFatal w = false ∧ (queueOf w q1).st = .active ∧ (queueOf w q1).closing = false) ∧
    (let k := { ctxMsg with ethForm := true }
     takenAt? (busyQ (withCtx k base)) q1 63 = some early ∧ portWaits (busyQ (withCtx k base)) q1 early = true) := by
  unfold Ready; decide +kernel

/-- The flit that link 0 (E0) hears from the west link of the neighbour in the east. -/
def flitE : IdleFlit := { module := peer, link := 2, posValid := true, sizeX := 4, sizeY := 4 }

theorem wit_LinksComeUp :
    let s (n : Nat) := withLink 0 { st := .training n } base
    ((linkOf base 7).st = .down ∧ ledN base 0x3201 (7 + 1) = 1 ∧ base.board.clk156 = true ∧ base.board.supply = true) ∧
    (linkOf (s 0) 0).st ≠ .down ∧
    (∀ n ∈ [0, 6, 7], let i := parseIdle (idleBytes flitE)
      (linkOf (s n) 0).st = .training n ∧ i.link = partnerLink 0 ∧ (s n).wall.pos.isSome = true ∧
      flitAgrees (s n) 0 i = true ∧ i.goingDown = false ∧ linkUnused (s n) 0 = false) ∧
    (parseIdle (idleBytes { flitE with link := 3 })).link ≠ partnerLink 0 := by decide +kernel

theorem wit_LinksGoDown :
    (linkOf wall0 7).st = .up ∧ (linkOf (withLink 0 { st := .goingDown } base) 0).st = .goingDown ∧ 1 % 2 = 1 ∧ 0 % 2 = 0 := by
  decide +kernel

def frameTo (d : W32) (p : Packet) : BondFrame := { vc := 2, src := peer, dst := d, content := .packet p }

/-- The control fields of a frame's flits. -/
def ctlOf (f : BondFrame) : List (BitVec 20) :=
  (frameCtl f.vc (lastBytes (frameBytes f)) true (flitsOf (frameBytes f)) (List.replicate 15 0)).1

/-- A packet for this module, one for another, and what the receiving link finds of their bytes. -/
theorem wit_FramesPassTheRouter :
    let f := frameTo 0x00010101 pData
    let g := frameTo 0x00010003 { pData with dst := 0x00010003 }
    let rf := parseBond (bondBytes f)
    let rg := parseBond (bondBytes g)
    linkLive base 0 = false ∧ linkLive wall0 0 = true ∧ wall0.wall.pos.isSome = true ∧ frameFate [] 0 [] = .bad ∧
    frameFate (ctlOf f) 0 (stompedBytes f) = .stomped ∧
    (frameFate (ctlOf f) 0 (bondBytes f) = .good ∧ rf.content = .packet pData ∧ rf.multicast = false ∧ oneHop rf pData = false ∧
      rf.vc ≠ 4 ∧ inWall wall0 rf.dst = true ∧ wall0.wall.pos = some (frameDest rf.dst)) ∧
    (frameFate (ctlOf g) 0 (bondBytes g) = .good ∧ rg.content = .packet { pData with dst := 0x00010003 } ∧ rg.multicast = false ∧
      oneHop rg { pData with dst := 0x00010003 } = false ∧ rg.vc ≠ 4 ∧ inWall wall0 rg.dst = true ∧
      wall0.wall.pos ≠ some (frameDest rg.dst) ∧ destDown wall0 rg.dst = false) := by decide +kernel

/-- A frame that fails after part of it has gone on. -/
theorem wit_FramesPassTheRouter_stomped :
    let b := bondBytes (frameTo 0x00010003 { pData with dst := 0x00010003 })
    let u := bump (0x9031 + 2) 1 1 (modLink 2 (fun l => [].foldl (fun x c => takeReturn c x) l)
      (bump (0x9031 + 2) 5 0 (bump (0x9031 + 2) 6 1 wall0)))
    linkLive wall0 2 = true ∧ frameFate [] 1 b = .bad ∧ (stompOn 2 (parseBond b) u).isSome = true := by decide +kernel

/-- The only frame of the router, which may leave on link 0. -/
theorem wit_FramesPassTheRouter_sent :
    let g := frameTo 0x00010003 { pData with dst := 0x00010003 }
    let r : RFrame := { f := g, inLink := some 2, at_ := 0, bytes := 100 }
    let s := { wall0 with wall := { wall0.wall with frames := [r] } }
    linkLive s 0 = true ∧ granted s 0 2 = true ∧ sendOrder s = [r] ∧ offerFrame s 0 2 r = .go g false := by decide +kernel

def ann1 : Announce := { origin := peer, nonce := 1, aseq := 2, linksDown := 0, fenced := false }

theorem wit_AnnouncementsMakeTheWallMap :
    (linkLive wall0 0 = true ∧ parseAnnounce (announceBytes ann1) = ann1 ∧ ann1.origin ≠ ownId wall0 ∧
      (∃ h, tfind wall0.wall.anns ann1.origin.toNat = some h ∧ ahead16 ann1.aseq h.a.aseq = true) ∧
      (∃ h, tfind wall0.wall.anns ann1.origin.toNat = some h ∧ h.a.nonce = ({ ann1 with aseq := 1 } : Announce).nonce ∧
        ahead16 1 h.a.aseq = false)) ∧
    wall0.wall.pos.isSome = true ∧
    (mkId wall0.wall.wallNumber 3 3 ≠ ownId wall0 ∧ (tfind wall0.wall.anns (mkId wall0.wall.wallNumber 3 3).toNat).isSome = true) :=
  ⟨⟨by decide +kernel, by decide +kernel, by decide +kernel,
      ⟨{ a := { ann1 with aseq := 1 }, at_ := 0 }, by decide +kernel⟩,
      ⟨{ a := { ann1 with aseq := 1 }, at_ := 0 }, by decide +kernel⟩⟩, by decide +kernel, by decide +kernel⟩

/-- A lay of all the slots to (3, 2), with its result block at 0x1000. -/
def eLay : Entry := mkE [(0, 0x92), (8, 0x1000), (28, 0x00010203), (32, 5), (44, 128)]
def eLift : Entry := mkE [(0, 0x93), (24, 1)]
def course0 : Course := { handle := 1, dest := 0x00010203, qp := 5, slots := 1, waiter := some (a0, 63, 0x1000) }
def lay0 : CircuitCtl := { handle := 9, source := peer, dest := 0x00010101, slots := 1, phase := .lay }
def ans0 : CircuitCtl := { lay0 with handle := 1, source := 0x00010101, dest := 0x00010203, phase := .laid }
def lift0 : CircuitCtl := { ans0 with phase := .lifted }

theorem wit_CircuitsAreLaid :
    let s := wall0
    let w := { s with wall := { s.wall with courses := [course0] } }
    (eOp eLay = 0x92 ∧ Ready s a0 eLay ∧ xlate s (queueFn a0) (eLocal eLay) 16 true = .ok ∧ s.wall.pos = some (1, 1) ∧
      (tfind s.wall.anns (eDest eLay).toNat).isSome = true ∧
      s.wall.courses.any (fun c => c.bound && c.qp == eDestQp eLay && c.dest == eDest eLay) = false ∧
      plumbLeg s true (1, 1) ((frameDest (eDest eLay)).1, 1) = some 0 ∧
      plumbLeg s false ((frameDest (eDest eLay)).1, 1) (frameDest (eDest eLay)) = some 3 ∧
      circuitOut s (eDest eLay) 0 3 = some 1 ∧ slotsUsed s 1 + ef eLay 44 1 ≤ ledN s 0x3210 3 ∧ freeVcQueue s 1 = some 0) ∧
    (linkUp s 0 = true ∧ lay0.phase = .lay ∧ circuitAt s lay0 = none ∧ lay0.dest = ownId s) ∧
    (ans0.source = ownId w ∧ (w.wall.courses.filter (fun y => y.handle == ans0.handle)).head? = some course0 ∧
      course0.laid = false ∧ linkUp w 0 = true) := by
  unfold Ready; decide +kernel

/-- On that wall every path of the lay is open, whatever circuit takes it. -/
theorem wit_CircuitsAreLaid_open (k : Circuit) (h1 : k.source = ownId wall0) (h2 : k.dest = eDest eLay) (h3 : k.dx = 0)
    (h4 : k.dy = 3) : pathOpen wall0 k = true := by
  simp only [pathOpen, h1, h2, h3, h4]; decide +kernel

theorem wit_CircuitsAreLifted :
    let c := { course0 with laid := true, waiter := none }
    let s := { wall0 with wall := { wall0.wall with courses := [c] } }
    let d := { course0 with laid := true }
    let w := { wall0 with wall := { wall0.wall with courses := [d] } }
    (eOp eLift = 0x93 ∧ Ready s a0 eLift ∧
      (s.wall.courses.filter (fun x => x.handle == eKey eLift && x.laid && x.waiter.isNone)).head? = some c ∧ c.broken = false) ∧
    (Ready wall0 a0 eLift ∧
      (wall0.wall.courses.filter (fun x => x.handle == eKey eLift && x.laid && x.waiter.isNone)).head? = none) ∧
    (linkUp w 0 = true ∧ lift0.source = ownId w ∧ (w.wall.courses.filter (fun x => x.handle == lift0.handle && x.laid)).head? = some d ∧
      d.waiter = some (a0, 63, 0x1000)) := by
  unfold Ready; decide +kernel

theorem wit_ModuleFencesAreAnnounced :
    (Ready base a0 (mkE [(0, 0x94)]) ∧ eOp (mkE [(0, 0x94)]) = 0x94) ∧
    (Ready base a0 (mkE [(0, 0x95)]) ∧ eOp (mkE [(0, 0x95)]) = 0x95) ∧
    (∀ r ∈ base.wall.frames, ∀ a, r.f.content = .announce a → a.origin ≠ ownId base) :=
  ⟨by unfold Ready; decide +kernel, by unfold Ready; decide +kernel, fun r h => absurd h (by simp [base, State.reset])⟩

/-! ## Compute -/

/-- A tile command from its fields: first bit and value. -/
def mkC (fs : List (Nat × Nat)) : W128 := BitVec.ofNat 128 (fs.foldl (fun a f => a + f.2 * 2 ^ f.1) 0)
def launch0 : Launch := { id := 0, q := q1, idx := 63, fn := 1, first := 0, count := 1, length := 0, window := 10 }
/-- Core 0 of function 1 runs a LAUNCH; `k` is the rest of its state. -/
def running (k : Core) (s : State) : State :=
  { busyQ s with compute := { cores := [(0, { k with st := .running, launch := some 0 })], launches := [launch0], nextLaunch := 1 } }
def queued (c : W128) (k : Core) (s : State) : State := running { k with cmdq := [c] } s

def wslot : WSlot := { fmt := 0, sparse := false, values := List.replicate 512 1, scales := [], meta_ := [] }
def cLoadw : W128 := mkC [(0, 1), (8, 7), (11, 1), (17, 1), (32, 64)]
def cStream : W128 := mkC [(0, 2), (8, 1), (24, 0), (32, 0)]
def cAcc (op : Nat) : W128 := mkC [(0, 3), (8, 1), (11, op), (14, 2), (32, 255), (64, 64)]
def cEpi : W128 := mkC [(0, 4), (14, 7), (32, 255), (64, 1024), (96, 2048)]
def cMove : W128 := mkC [(0, 5), (8, 15), (32, 2 ^ 22 - 16), (78, 2 ^ 44)]
def cSend : W128 := mkC [(0, 6), (8, 63), (64, 4)]
def cWait (poll : Nat) : W128 := mkC [(0, 7), (8, poll), (16, 63), (32, 3)]
def cSig (kind core : Nat) : W128 := mkC [(0, 8), (8, kind), (16, 5), (32, core), (48, 65535)]
def cPhase : W128 := mkC [(0, 9), (16, 65535)]
/-- Route 63 to `peer`, QP 2, key 0x10001. -/
def routes0 : Memory := mwriteN [] (32 * 63) (leBytes 32 (0x00010102 + 2 * 2 ^ 32 + 0x10001 * 2 ^ 64))
def kWts : Core := { engines := [(0, { slot0 := some wslot })] }

theorem wit_EnginesWork :
    Starts (queued cLoadw {} base) 0 1 [] cLoadw [] ∧ Starts (queued cStream kWts base) 0 2 [] cStream [] ∧
      (0 ∈ tEngines cStream ∧ slotOf (queued cStream kWts base) 0 0 (cf cStream 16 1) = some wslot ∧ 1 ∉ tEngines cStream) ∧
      (∀ op ∈ [0, 1, 2, 3], Starts (queued (cAcc op) {} base) 0 3 [] (cAcc op) [] ∧ cf (cAcc op) 11 3 = op) ∧
      (queued (cAcc 2) {} base).memWf = true := by
  unfold Starts; decide +kernel

theorem wit_OutputsLeaveTheCore :
    let m := queued cMove {} base
    let d := queued cSend { routes := routes0 } linked
    (Starts (queued cEpi {} base) 0 4 [] cEpi [] ∧ epiMx cEpi = false ∧ epiRow cEpi ≤ epiStep cEpi ∧ 0 < tRows cEpi ∧
      (queued cEpi {} base).memWf = true) ∧
    (Starts m 0 5 [] cMove [] ∧ moveFar m cMove = [] ∧ moveEnd m 0 (mvSrc cMove) (mvLen cMove) false = .mem .scratch (2 ^ 22 - 16) ∧
      moveEnd m 0 (mvDst cMove) (mvLen cMove) true = .mem .cluster 0 ∧ badIn .scratch (2 ^ 22 - 16) (mvLen cMove) m = none ∧
      m.memWf = true) ∧
    (Starts d 0 6 [] cSend [] ∧ cf cSend 17 1 = 0 ∧ destReady d (routeDest (routeOf d 0 (cf cSend 8 6))) = true ∧
      ctxOf d (routeDest (routeOf d 0 (cf cSend 8 6))) = some ctx0 ∧ 0 < segmentSize d ctx0.ethForm ∧ (coreOf d 0).door = []) := by
  unfold Starts; decide +kernel

/-- A MOVE from a page that is not resident, one from a segment that is not there, and a SEND that its fence holds. -/
def cMoveSeg (g : Nat) : W128 := mkC [(0, 5), (8, 15), (32, 2 * 2 ^ 44 + g * 2 ^ 40)]
def cSendF : W128 := mkC [(0, 6), (8, 63), (17, 1), (64, 4)]

theorem wit_OutputsLeaveTheCore_held :
    let m := with1 (fun f => { f with segs := [(0, { seg0 with migratory := true })] }) (queued (cMoveSeg 0) {} base)
    let x := queued (cMoveSeg 5) {} base
    let d := queued cSendF { routes := routes0, door := [{ n := 7, dest := peer, done := none, cmd := cSend, route := [] }] } linked
    (Starts m 0 5 [] (cMoveSeg 0) [] ∧ moveFar m (cMoveSeg 0) = [] ∧
      moveEnd m 0 (mvSrc (cMoveSeg 0)) (mvLen (cMoveSeg 0)) false = .absent 1 0 0 [0] ∧
      moveEnd m 0 (mvDst (cMoveSeg 0)) (mvLen (cMoveSeg 0)) true = .mem .scratch 0) ∧
    (Starts x 0 5 [] (cMoveSeg 5) [] ∧
      moveEnd x 0 (mvSrc (cMoveSeg 5)) (mvLen (cMoveSeg 5)) false = .trap 2 stLocalAccess (2 * 2 ^ 44 + 5 * 2 ^ 40)) ∧
    (Starts d 0 6 [] cSendF [] ∧ (∀ y ∈ (coreOf d 0).door, y.n ≠ (coreOf d 0).doorNext) ∧ cf cSendF 17 1 = 1 ∧
      (coreOf d 0).door.any (fun y => y.dest == routeDest (routeOf d 0 (cf cSendF 8 6))) = true) := by
  unfold Starts; decide +kernel

def rWait : Running := { unit := 11, cmd := cWait 0 }
def sWait (p n : Nat) : State := queued (cWait p) { sems := [(63, n)] } base
def sTook : State := running { running := [rWait], sems := [(63, 3)] } base
def sSig (k c : Nat) : State := queued (cSig k c) { sems := [(5, 65535)] } base

theorem wit_SemaphoreCommands :
    (Starts (sWait 0 3) 0 7 [] (cWait 0) [] ∧ cf (cWait 0) 32 16 ≤ semOf (sWait 0 3) 0 (cf (cWait 0) 16 6)) ∧
    (Starts (sWait 0 2) 0 7 [] (cWait 0) [] ∧ semOf (sWait 0 2) 0 (cf (cWait 0) 16 6) < cf (cWait 0) 32 16 ∧ cf (cWait 0) 8 1 = 0 ∧
      (coreOf (sWait 0 2) 0).st = .running) ∧
    (Starts (sWait 1 2) 0 7 [] (cWait 1) [] ∧ semOf (sWait 1 2) 0 (cf (cWait 1) 16 6) < cf (cWait 1) 32 16 ∧ cf (cWait 1) 8 1 = 1) ∧
    (((coreOf sTook 0).running.filter (fun r => r.unit == 11 && tCode r.cmd == 7)).head? = some rWait ∧
      cf rWait.cmd 32 16 ≤ semOf sTook 0 (cf rWait.cmd 16 6) ∧ sTook.power.aClocksStopped = false ∧ (coreOf sTook 0).clockOff = false) ∧
    (Starts (sSig 0 0) 0 8 [] (cSig 0 0) [] ∧ cf (cSig 0 0) 8 2 = 0 ∧ cf (cSig 0 0) 32 9 < coresFitted (sSig 0 0).part ∧
      coreFn (sSig 0 0) (cf (cSig 0 0) 32 9) = coreFn (sSig 0 0) 0 ∧ (coreFn (sSig 0 0) 0).isSome = true) ∧
    (Starts (sSig 1 0) 0 8 [] (cSig 1 0) [] ∧ cf (cSig 1 0) 8 2 = 1 ∧ coreFn (sSig 1 0) 0 = some 1) ∧
    (Starts (sSig 0 511) 0 8 [] (cSig 0 511) [] ∧ coreFn (sSig 0 511) (cf (cSig 0 511) 32 9) ≠ coreFn (sSig 0 511) 0) ∧
    Starts (queued cPhase {} base) 0 9 [] cPhase [] := by
  unfold Starts; exact ⟨by decide +kernel, by decide +kernel, by decide +kernel, by decide +kernel, by decide +kernel,
    by decide +kernel, by decide +kernel, by decide +kernel⟩

theorem wit_ControlUnitActs :
    let r : Running := { unit := 9, cmd := cMove }
    let s := running { running := [r], cmdq := [mkC [(0, 10)]], pc := 0x100 } base
    let f := running { cmdq := List.replicate 32 cPhase } base
    (programOn s 0 = true ∧ (coreOf s 0).stalled = none ∧ (coreOf s 0).cmdq.length < 32) ∧
    (programOn f 0 = true ∧ (coreOf f 0).stalled = none ∧ 32 ≤ (coreOf f 0).cmdq.length) ∧
    (s.power.aClocksStopped = false ∧
      ((coreOf s 0).running.filter (fun r => r.unit == 9 && !r.waiting && 9 != 11)).head? = some r) ∧
    (issuing s 0 = true ∧ (coreOf s 0).running.all (fun r => tCode r.cmd != 7) = true ∧
      queuedTrap s 0 [] (coreOf s 0).cmdq = some (3, 0x100)) := by decide +kernel

/-- A program of one instruction at address 0, two cores, four bytes of arguments. -/
def eLaunch : Entry := mkE [(0, 0x20), (4, 4), (8, 0x1000), (48, 14), (50, 2)]
def imaged (s : State) : State :=
  memWrite .hbm 0 (leBytes 72 (0x4E494D54 + 2 ^ 32 + 8 * 2 ^ 64 + 4 * 2 ^ 96 + 0x73 * 2 ^ 512)) s

theorem wit_LaunchesRun :
    let s := imaged base
    let u := bump 0x9061 3 1 (advanceHead eLaunch q1 s)
    let done := { running {} base with compute := { cores := [(0, { st := .ended, launch := some 0 })], launches := [launch0] } }
    let wait := running { st := .blocked, running := [{ unit := 11, cmd := cWait 0 }] } base
    let stuck := { wait with compute := { wait.compute with
      cores := [(0, { st := .blocked, launch := some 0, waitSem := 63, running := [{ unit := 11, cmd := cWait 0 }] })] } }
    (eOp eLaunch = 0x20 ∧ Ready s q1 eLaunch ∧ launchHold s q1 eLaunch = .none ∧ loadingOf u q1 (queueOf s q1).head = none ∧ ungranted u (queueFn q1) eLaunch = none ∧
      imageIn u (queueFn q1) (eImm eLaunch * 4096) 64 = true ∧
      getVa u (queueFn q1) (eImm eLaunch * 4096) 64 = .ok (leBytes 64 (0x4E494D54 + 2 ^ 32 + 8 * 2 ^ 64 + 4 * 2 ^ 96)) ∧
      headerOk (leBytes 64 (0x4E494D54 + 2 ^ 32 + 8 * 2 ^ 64 + 4 * 2 ^ 96)) = true ∧
      imageIn u (queueFn q1) (eImm eLaunch * 4096) (64 + 8) = true ∧
      getVa u (queueFn q1) (eImm eLaunch * 4096 + 64) 8 = .ok [0x73, 0, 0, 0, 0, 0, 0, 0] ∧
      getVa u (queueFn q1) (eLocal eLaunch) (eLength eLaunch) = .ok [0, 0, 0, 0]) ∧
    ((done.compute.launches.filter (fun l => l.id == 0)).head? = some launch0 ∧ launch0.fault = none ∧
      coreFinished done 0 = true) ∧
    (let l := { launch0 with fault := some (0x51, 0, 0) }
     let h := { running {} base with compute := { cores := [(0, { st := .halted, cause := 2, launch := some 0 })], launches := [l] } }
     (h.compute.launches.filter (fun l => l.id == 0)).head? = some l ∧ l.fault = some (0x51, 0, 0) ∧ coreQuiet h 0 = true ∧
      (coreOf h 0).launch = some 0) ∧
    ((stuck.compute.launches.filter (fun l => l.id == 0)).head? = some launch0 ∧ launch0.window ≠ 0 ∧
      launch0.deadlockReported = false ∧ deadlocked stuck launch0 = true) := by
  unfold Ready; decide +kernel

theorem wit_BanksAndCoreRegisters :
    let s := running { bankReq := 0x80000000, waking := [3] } base
    let k := { s with keys := { s.keys with table :=
      [(1, { generation := 1, owner := 1, valid := true, tier := 2, base := 0, length := 1 })] } }
    let m := queued cMove { bankReq := 0x80000000 } base
    let p := with1 (fun f => { f with coreSel := 511 }) base
    ((511 : Nat) < coresFitted s.part ∧ bankBits (0x40000000 : W32) 15 = 1 ∧ bankKeyed s 0 15 = false ∧ bankCut s 0 15 = false ∧
      bankBits (0xC0000000 : W32) 15 = 3 ∧ bankBits (2 : W32) 0 = 2 ∧ bankKeyed k 0 0 = true) ∧
    (bankBits (coreOf s 0).bankReq 15 ≠ 0 ∧ bankBits (coreOf s 0).bankReq 15 ≠ bankBits (coreOf s 0).bankSt 15 ∧
      15 ∉ (coreOf s 0).waking ∧ bankInUse s 0 15 = false) ∧
    (3 ∈ (coreOf s 0).waking ∧ coreAsleep s 0 = false ∧ bankState s 0 3 ≠ 2) ∧
    (15 ∉ (coreOf m 0).starving ∧ moverWanted m 0 15 = true ∧ ledAt m 0x5110 1 0 (m.now - 10 ^ 9) ≤ 10 ^ 9) ∧
    (let d := { s with enpin := { s.enpin with adms := [{ adm0 with tgt := .tier 2 0 }] } }
     0 ∉ (coreOf d 0).starving ∧ deliveryWanted d 0 0 = true ∧ deliveryWanted (modCore 0 (fun k => { k with starving := [0] }) d) 0 0 = true) ∧
    (barOpen base 1 = true ∧ selCore base 1 = some 0 ∧ selCore p 1 = none) := by decide +kernel

theorem wit_IncrementsSaturate : 65535 < semOf (running { sems := [(5, 1)] } base) 0 5 + 65535 := by decide +kernel

/-! ## Collectives -/

/-- GROUP_CREATE of the two modules at (1, 1) and (2, 1), root at the neighbour; of a handle in use; GROUP_DESTROY. -/
def eCreate (vdev : Nat) : Entry :=
  mkE [(0, 0x90), (4, 0x10001), (8, 0x1000), (16, vdev), (20, 1), (21, 1), (22, 2), (23, 1), (24, 1), (26, 2)]
def eDestroyG : Entry := mkE [(0, 0x91), (24, 0x10001)]
def eColl : Entry := mkE [(0, 0x10), (4, 16), (8, 0), (16, 0x100), (24, 0x10001), (48, 4)]
/-- The group, its root at member `r`: this module is member 0, the neighbour in the east member 1. -/
def group0 (r : Nat) (l : List Inst) : Group :=
  { handle := 0x10001, vdev := 1, axis := 0, tie := true, tc := 0, ox := 1, oy := 1, w := 2, h := 1, rx := r, ry := 0, slots := 2
    insts := l }
def grouped (r : Nat) (l : List Inst) (s : State) : State := { s with coll := { s.coll with groups := [(1, group0 r l)] } }
def inst0 : Inst := { num := 0 }
def gSt : State := grouped 1 [] wall0
def gTaken : State :=
  holdInst (eKey eColl) 0 .tree (modGroup (eKey eColl) (fun g => { g with count := g.count + 1 }) (advanceHead eColl q1 gSt))

theorem wit_CollectivesStart :
    (eOp (eCreate 1) = 0x90 ∧ Ready wall0 a0 (eCreate 1) ∧ xlate wall0 (queueFn a0) (eLocal (eCreate 1)) 16 true = .ok ∧
      groupCause wall0 (eCreate 1) = 0) ∧
    (Ready gSt a0 (eCreate 1) ∧ groupCause gSt (eCreate 1) = 1) ∧ (eOp eDestroyG = 0x91 ∧ Ready gSt a0 eDestroyG) ∧
    (eOp eColl = 0x10 ∧ Ready gSt q1 eColl ∧ collHold gSt q1 eColl = .none ∧ groupAt gSt (eKey eColl) = some (group0 1 []) ∧
      instOfEntry gSt q1 (queueOf gSt q1).head = none ∧ instOld (group0 1 []) 0 = false ∧
      (instAt gTaken (eKey eColl) 0).map (fun i => (i.mode, i.aborted, i.chunks)) = some (.tree, none, []) ∧
      collWrong gSt (group0 1 []) eColl = false ∧ collRangeBad gSt (group0 1 []) (entrySig eColl) (queueFn q1) eColl = none ∧
      lostMember gSt (group0 1 []) = none ∧ brokenEdge gSt (group0 1 []) = none) := by
  unfold Ready; exact ⟨by decide +kernel, by decide +kernel, by decide +kernel, by decide +kernel⟩

def pTree (down : Bool) (off : Nat) (b : List Byte) : Packet :=
  { ptype := .collective, bondForm := true, src := peer, dst := 0x00010101, ext := .coll 0x10001 0 0 0 0 false down 4 off 1
    payload := b }
def pUp : Packet := pTree false 0 (List.replicate 16 0)
def pDown : Packet := pTree true 0 (List.replicate 16 0)
def pTie : Packet :=
  { ptype := .tie, bondForm := true, src := peer, dst := 0x00010101, ext := .tie true 1 0x10001 0 0 0 0 4
    payload := List.replicate 16 0 }
def pCtl (code chunk : Nat) : Packet := pTree false ctlOffset (ctlPayload code 0x32 0 chunk)
def hop0 (chunk dir tries : Nat) : HopPkt := { member := 1, chunk := chunk, dir := dir, tries := tries, pkt := pUp, sentAt := 0 }

def sig0 : Sig := { op := 0, red := 0, dtype := 0, elements := 4 }
def gUp : State := grouped 0 [inst0] wall0
def gUnit : State := (admitUnit 0x10001 0 sig0 (takeInLink 0 pUp gUp)).2
def gDown : State := grouped 1 [inst0] wall0
def gTie : State := grouped 1 [{ inst0 with mode := .tie }] wall0

/-- A chunk that the own member has given already: without and with two failing residue checks ahead. -/
def instSum : Inst := { inst0 with chunks := [(0, { from_ := [0], acc := List.replicate 4 0x3F800000 })] }
def gSum : State := grouped 0 [instSum] wall0
def gSumBad : State := { gSum with coll := { gSum.coll with residue := [true, true, false] } }

theorem wit_ChunksAreTaken :
    ((treeHead pUp).map (fun t => (t.group, t.inst, t.x, t.down, t.off)) = some (0x10001, 0, sig0, false, 0) ∧ (0 : Nat) ≠ ctlOffset ∧ AtMember gUp 0 0x10001 0 (group0 0 [inst0]) 1 inst0 ∧
      false = (parentOf gUp (group0 0 [inst0]) (myMember gUp (group0 0 [inst0])) == some 1) ∧ combines sig0 = true ∧
      (admitUnit 0x10001 0 sig0 (takeInLink 0 pUp gUp)).1 = true ∧
      (instAt gUnit 0x10001 0).map (fun j => ((tget {} j.chunks (chunkAt sig0 0)).ended, (tget {} j.chunks (chunkAt sig0 0)).from_.length,
        slotFree (group0 0 [inst0]) j (chunkAt sig0 0), j.sig)) = some (false, 0, true, none)) ∧
    (AtMember gSum 0 0x10001 0 (group0 0 [instSum]) 1 instSum ∧ (admitUnit 0x10001 0 sig0 (takeInLink 0 pUp gSum)).1 = true ∧
      (instAt (admitUnit 0x10001 0 sig0 (takeInLink 0 pUp gSum)).2 0x10001 0).map (fun j => ((tget {} j.chunks 0).ended,
        (tget {} j.chunks 0).from_, slotFree (group0 0 [instSum]) j 0, j.sig)) = some (false, [0], true, none) ∧
      (admitUnit 0x10001 0 sig0 (takeInLink 0 pUp gSum)).2.coll.residue = [] ∧ chunkAt sig0 0 = 0 ∧
      AtMember gSumBad 0 0x10001 0 (group0 0 [instSum]) 1 instSum ∧
      (admitUnit 0x10001 0 sig0 (takeInLink 0 pUp gSumBad)).2.coll.residue = [true, true, false]) ∧
    ((treeHead pDown).map (fun t => (t.group, t.inst, t.x, t.down, t.off)) = some (0x10001, 0, sig0, true, 0) ∧ AtMember gDown 0 0x10001 0 (group0 1 [inst0]) 1 inst0 ∧
      true = (parentOf gDown (group0 1 [inst0]) (myMember gDown (group0 1 [inst0])) == some 1) ∧
      isLeaf gDown (group0 1 [inst0]) (myMember gDown (group0 1 [inst0])) = true ∧ (tget {} inst0.chunks (chunkAt sig0 0)).down = false ∧
      (tget {} inst0.chunks (chunkAt sig0 0)).ended = false) ∧
    AtMember gTie 0 0x10001 0 (group0 1 [{ inst0 with mode := .tie }]) 1 { inst0 with mode := .tie } := by
  unfold AtMember; exact ⟨⟨by decide +kernel, by decide +kernel, by decide +kernel, by decide +kernel, by decide +kernel,
    by decide +kernel, by decide +kernel⟩, ⟨by decide +kernel, by decide +kernel, by decide +kernel, by decide +kernel,
    by decide +kernel, by decide +kernel, by decide +kernel⟩, by decide +kernel, by decide +kernel⟩

/-- On the tie lane: an up frame at the root, a down frame at a leaf, and one that has come before. -/
theorem wit_ChunksAreTaken_tie :
    let up : Packet := { pTie with ext := .tie false 1 0x10001 0 0 0 0 4 }
    let i : Inst := { inst0 with mode := .tie }
    let j : Inst := { i with tieSeen := [2 * 1 + 1] }
    let r := grouped 0 [i] wall0
    let d := grouped 1 [j] wall0
    (up.ptype = .tie ∧ AtMember r 0 0x10001 0 (group0 0 [i]) 1 i ∧ i.mode = .tie ∧
      false = (parentOf r (group0 0 [i]) (myMember r (group0 0 [i])) == some 1) ∧ i.tieSeen.contains (2 * 1 + b2n false) = false ∧
      combines sig0 = true ∧ (tget {} i.chunks 0).ended = false ∧ 1 ∉ (tget {} i.chunks 0).from_ ∧ i.sig = none) ∧
    (true = (parentOf gTie (group0 1 [i]) (myMember gTie (group0 1 [i])) == some 1) ∧
      isLeaf gTie (group0 1 [i]) (myMember gTie (group0 1 [i])) = true ∧ (tget {} i.chunks 0).down = false) ∧
    (AtMember d 0 0x10001 0 (group0 1 [j]) 1 j ∧ j.tieSeen.contains (2 * 1 + b2n true) = true) := by
  unfold AtMember; decide +kernel

/-- R240: a first failure is recomputed, a second one aborts the instance with REDUCTION_CHECK_FAILED. -/
theorem test_residue :
    let f (l : List Bool) : State := { base with coll := { base.coll with residue := l } }
    (residueCheck (f [])).1 = true ∧ (residueCheck (f [true, false])).1 = true ∧ count (residueCheck (f [true, false])).2 0x9043 5 = 1 ∧
    (residueCheck (f [true, true])).1 = false ∧ count (residueCheck (f [true, true])).2 0x9043 6 = 1 ∧
    (instAt (residueAbort 0x10001 0 gUp) 0x10001 0).map (fun i => (i.aborted, i.abortPeer)) = some (some 0x31, ownId gUp) := by
  decide +kernel

/-- Answers to an up and to a down hop, to a control packet and a busy one, at a leaf. -/
theorem wit_HopsAreAnswered :
    let i := { inst0 with hops := [hop0 3 0 1, hop0 (ctlKey 3) 2 1], chunks := [(3, { upSent := true, downWait := [1] })] }
    let s := grouped 1 [i] wall0
    (∀ c ∈ [1, 2, 5, 6], ctlCode (pCtl c 3) = c ∧ (treeHead (pCtl c 3)).map (fun t => (t.group, t.inst, t.off)) =
      some (0x10001, 0, ctlOffset)) ∧
    AtMember s 0 0x10001 0 (group0 1 [i]) 1 i ∧ i.mode = .tree ∧
    parentOf s (group0 1 [i]) (myMember s (group0 1 [i])) = some 1 ∧ s.coll.orphans = [] := by
  unfold AtMember; decide +kernel

theorem wit_InstancesEnd :
    let i := { inst0 with hops := [hop0 3 0 1], hopTries := 8, entry := some (q1, 63) }
    let j := { inst0 with hops := [hop0 3 0 8], hopTries := 8 }
    let s := grouped 1 [i] wall0
    let u := grouped 1 [j] wall0
    let t := grouped 1 [{ i with mode := .tie }] wall0
    (ctlCode (pCtl 3 0) = 3 ∧ ctlCode (pCtl 4 0) = 4 ∧ AtMember s 0 0x10001 0 (group0 1 [i]) 1 i ∧ i.mode = .tree ∧ i.fellBack = false) ∧
    (groupAt s 0x10001 = some (group0 1 [i]) ∧ instOf (group0 1 [i]) 0 = some i ∧
      (i.hops.filter (fun k => k.member == 1 && k.chunk == 3 && k.dir == b2n false)).head? = some (hop0 3 0 1) ∧
      (hop0 3 0 1).tries < i.hopTries ∧ edgeDir s (group0 1 [i]) 1 = some 0 ∧ leafSig s (group0 1 [i]) i (hop0 3 0 1) = none) ∧
    ((j.hops.filter (fun k => k.member == 1 && k.chunk == 3 && k.dir == b2n false)).head? = some (hop0 3 0 8) ∧
      instOf (group0 1 [j]) 0 = some j ∧ groupAt u 0x10001 = some (group0 1 [j]) ∧ j.hopTries ≤ (hop0 3 0 8).tries ∧
      j.done = false ∧ j.aborted = none) ∧
    (postedInst s 0x10001 0 = some i ∧ postedInst t 0x10001 0 = some { i with mode := .tie }) := by
  unfold AtMember; decide +kernel

/-! ## Memory -/

def segs1 (l : Table Segment) (s : State) : State := with1 (fun f => { f with segs := l }) s
/-- Segment 0 free to be enabled, with the base address of a host range. -/
def segFree (g : Segment) : State := segs1 [(0, { g with enable := false, valid := false })] base
def segWith (v : W32) (s : State) : Segment := { segFields v.toNat (segOf s 1 0) with cfgError := false }
def hostSeg : Segment := { pages := 1, hostLo := 0x200000 }

/-- Enables of one page: refused for want of rights, let through in the host and in the HBM. -/
theorem wit_SegmentEnable :
    (barOpen base 1 = true ∧ bitOf (0x26 : W32).toNat 5 = true ∧ bitOf (0x26 : W32).toNat 7 = false ∧ selSeg base 1 = 0 ∧
      (segOf (segFree hostSeg) 1 0).enable = false ∧ (segOf (segFree hostSeg) 1 0).disabling = false) ∧
    segRefused (segFree hostSeg) 1 0 (segWith 0x22 (segFree hostSeg)) = true ∧
    (segRefused (segFree hostSeg) 1 0 (segWith 0x26 (segFree hostSeg)) = false ∧ (0x26 : W32).toNat % 4 = 2) ∧
    (segRefused (segFree { pages := 64 }) 1 0 (segWith 0x24 (segFree { pages := 64 })) = false ∧ (0x24 : W32).toNat % 4 ≠ 2 ∧
      bitOf (0x24 : W32).toNat 4 = false) := by decide +kernel

/-- A migratory enable is refused only where its map does not fit (`Config.mapFits` is the implementation's). -/
theorem wit_SegmentEnable_migratory (h : Config.mapFits 1 = true) :
    segRefused (segFree hostSeg) 1 0 (segWith 0x34 (segFree hostSeg)) = false ∧ bitOf (0x34 : W32).toNat 4 = true := by
  refine ⟨?_, by decide +kernel⟩
  have e : segRefused (segFree hostSeg) 1 0 (segWith 0x34 (segFree hostSeg)) = !(Config.mapFits 1) := rfl
  rw [e, h]; rfl

theorem wit_SegmentsComeAndGo :
    let z := segs1 [(0, { seg0 with valid := false, zeroing := true })] base
    let m := segs1 [(0, { seg0 with valid := false, zeroing := true, migratory := true })] base
    let d := segs1 [(0, { seg0 with enable := false, disabling := true })] base
    ((segOf z 1 0).zeroing = true ∧ (segOf z 1 0).migratory = false ∧ z.memWf = true ∧ (segOf m 1 0).migratory = true) ∧
    (bitOf (0x4 : W32).toNat 5 = false ∧ bitOf (0x4 : W32).toNat 7 = false ∧ (segOf (segFree hostSeg) 1 (selSeg base 1)).enable = false) ∧
    ((segOf (keyed base) 1 0).enable = true ∧ segKeyed (keyed base) 1 0 = true) ∧
    ((segOf base 1 0).enable = true ∧ segKeyed base 1 0 = false) ∧
    ((segOf d 1 0).disabling = true ∧ segBusy d 1 0 = false ∧ (segOf d 1 0).migratory = false) := by decide +kernel

/-- A migratory segment of four pages at host address 0x200000, page 1 resident and dirty. -/
def segM : Segment := { seg0 with hostLo := 0x200000, migratory := true }
def page1 : Page := { resident := true, dirty := true, frame := 3 }
def migr (s : State) : State := with1 (fun f => { f with segs := [(0, segM)], pages := [(1, page1)] }) s

theorem wit_FlushesAndStamps :
    let f := with1 (fun f => { f with segs := [(0, { segM with flushing := true })] }) (migr base)
    let c := { migr base with mig := { (migr base).mig with cached := [(0, 1, 1)] } }
    (barOpen base 1 = true ∧ bitOf (0x80 : W32).toNat 7 = true ∧ selSeg (migr base) 1 = 0 ∧ (segOf (migr base) 1 0).valid = true ∧
      (segOf (migr base) 1 0).migratory = true ∧ (segOf (migr base) 1 0).flushing = false ∧
      (segOf (migr base) 1 0).disabling = false ∧ flushable (migr base) 1 0 = true) ∧
    ((segOf f 1 0).flushing = true ∧ flushable f 1 0 = true ∧ (residentOf f 1 0).all (fun p => p.2.held == 0 && !p.2.migrating) = true) ∧
    ((pageOf c 1 0 1).resident = true) := by decide +kernel

def walker0 : Walker := { st := 1, source := 0, fn := 1, seg := 0, va := 5, page := 0, waiter := .entry q1 63 }
def rec0 (st : Nat) : FaultRec := { st := st, fn := 1, seg := 0, page := 0, start := 7, waiters := [(.entry q1 63, 5)] }
def migs (r : Table FaultRec) (w : Table Walker) (s : State) : State :=
  { migr s with mig := { (migr s).mig with recs1 := r, walkers1 := w } }

theorem wit_PagesMigrate :
    let j := migs [(0, rec0 1)] [(15, walker0)] base
    let n := migs [] [(15, walker0)] base
    let q := with1 (fun f => { f with grant := some { grant with hbmFrames := 1 } }) j
    let b := migs [(127, { rec0 2 with victimSeg := 0, victim := 1 })] [] base
    let r := migs [(127, rec0 3)] [] base
    (tfind (walkersOf j 1) 15 = some walker0 ∧ walker0.st ≠ 3 ∧ (pageOf j 1 0 0).lost = false ∧ (pageOf j 1 0 0).resident = false ∧
      recOf j 1 1 0 0 = some (0, rec0 1) ∧ tfind (recsOf j 1) 0 = some (rec0 1)) ∧
    (tfind (walkersOf n 1) 15 = some walker0 ∧ recOf n 1 1 0 0 = none ∧ freeIndex (recsOf n 1) < 128) ∧
    (nextRec j 1 = some 0 ∧ migRunning j 1 < 4 ∧ tfind (recsOf j 1) 0 = some (rec0 1) ∧ migReach j (rec0 1) = true ∧
      framesUsed j 1 (segOf j 1 0).tier < quotaOf j 1 (segOf j 1 0).tier ∧ (freeRun j (segOf j 1 0).tier 1).isSome = true) ∧
    (nextRec q 1 = some 0 ∧ migRunning q 1 < 4 ∧ migReach q (rec0 1) = true ∧
      quotaOf q 1 (segOf q 1 0).tier ≤ framesUsed q 1 (segOf q 1 0).tier ∧
      victimOf q 1 (segOf q 1 0).tier (fun k => k == 0 * 2 ^ 20 + 0) = some (0, 1)) ∧
    (tfind (recsOf b 1) 127 = some { rec0 2 with victimSeg := 0, victim := 1 } ∧ migReach b (rec0 2) = true) ∧
    (tfind (recsOf r 1) 127 = some (rec0 3) ∧ migReach r (rec0 3) = true ∧ r.memWf = true) := by decide +kernel

/-! ## Stream bindings, the cut path, the ports -/

theorem wit_StreamBindings :
    let k := keyed base
    let t := { k with keys := { k.keys with table :=
      [(1, { generation := 5, owner := 1, valid := true, tier := 2, rights := 3, length := 1 })] } }
    let s := with1 (fun f => { f with bindings := [(0, { key := 0x50001 })] }) t
    let w := { s with enpin := { s.enpin with trackers := [{ trk with watch := some (1, 0) }] } }
    let e := with1 (fun f => { f with bindings := [(0, { key := 0x50001, enable := true })] }) t
    (barOpen s 1 = true ∧ bitOf (1 : W32).toNat 0 = true ∧ selBinding s 1 = 0 ∧ (bindingOf s 1 0).enable = false ∧
      bindingRefused s 1 0 { bindingFields (1 : W32).toNat (bindingOf s 1 0) with cfgError := false } = false) ∧
    (barOpen e 1 = true ∧ selBinding e 1 = 0 ∧ (bindingOf e 1 0).enable = true) ∧
    bindingRefused s 1 0 { bindingFields (0x20001 : W32).toNat (bindingOf s 1 0) with cfgError := false } = true ∧
    (bitOf (0 : W32).toNat 0 = false ∧ barOpen w 1 = true) := by decide +kernel

/-- A rule on port 0 for frames of 64 to 512 bytes: one slot in core 0's scratchpad, a template of 60 bytes, one step. -/
def rule0 : List Byte :=
  leBytes 768 (1 * 2 ^ 16 + 64 * 2 ^ 32 + 512 * 2 ^ 48 + 5 * 2 ^ 80 + 1 * 2 ^ 88 + 256 * 2 ^ 128 + 4096 * 2 ^ 192 + 64 * 2 ^ 224 +
    4 * 2 ^ 240 + 60 * 2 ^ 288 + 1 * 2 ^ 304 + 2 ^ 1088 + 2 ^ (1088 + 48))
def ruled (r : CutRule) : State :=
  let s := setPort 0 { linkUp := true } base
  { s with cut := { s.cut with rules := [(0, r)] }, ledger := { s.ledger with values := [(0x3300 * 256 + 1, rule0)] } }
def req1 (st : CutSlot) : CutReq := { slot := 0, st := st, header := List.replicate 40 0, arrival := 5 }
def ruleOn (st : CutSlot) : CutRule := { desc := rule0, enable := true, active := true, reqs := [req1 st], reads := 1 }
/-- The answer area of the request: sequence number 7. -/
def answered (s : State) : State := memWrite .scratch 4096 [7] s

theorem wit_CutRulesWork :
    let p := ruled (ruleOn (.pending 7 3))
    let a := answered p
    (cutFitted (ruled {}).part = true ∧ bitOf (1 : W32).toNat 0 = true ∧ (ruled {}).cut.sel % 64 = 0 ∧
      (cutRuleOf (ruled {}) 0).enable = false ∧ cutRefused (ruled {}) 0 (ledBytes (ruled {}) 0x3300 (0 + 1)) = false ∧
      cutRefused base 0 (ledBytes base 0x3300 (0 + 1)) = true) ∧
    ((cutRuleOf p 0).enable = true ∧ p.cut.rules.any (fun p => p.2.enable) = true) ∧
    reqAt (cutRuleOf (ruled (ruleOn (.filling 7))) 0) 0 = some (req1 (.filling 7)) ∧
    (0 < (cutRuleOf a 0).reads ∧ ((cutRuleOf a 0).reqs.filter isPending).head? = some (req1 (.pending 7 3)) ∧
      scratchBase (cutOutCore rule0) + cutAnsBase rule0 + 0 * cutStride rule0 = 4096 ∧
      badIn .scratch 4096 (4 + cutAnsLen rule0) a = none ∧ df (memRead .scratch 4096 (4 + cutAnsLen rule0) a) 0 3 = 7 ∧
      bitOf (df (memRead .scratch 4096 (4 + cutAnsLen rule0) a) 3 1) 7 = false ∧ (portOf a (cutPort 0)).linkUp = true) ∧
    reqAt (cutRuleOf p 0) 0 = some (req1 (.pending 7 3)) := by decide +kernel

/-- An address of wall `w`: IPv4, four ports a module, 10.`w`.0.0. -/
def wallE (w : Nat) : Bytes := leBytes 2 w ++ [4, 4] ++ List.replicate 16 0 ++ beBytes 4 (0x0A000000 + w * 65536)
def portSt (p : Port) : State :=
  let s := setPort 0 p base
  { s with ledger := { s.ledger with values := [((portCfg 0) * 256 + 1, leBytes 8 0x02AABBCCDD01), (0x4141 * 256 + 1, wallE 1), (0x4141 * 256 + 2, wallE 2)] } }
def up0 : State := portSt { linkUp := true, rxr := ring }
/-- A packet from (0, 0) of wall 2, in its frame as port 0 hears it. -/
def pFar : Packet := { pData with bondForm := false, src := 0x00020000 }
def frameIn0 (p : Packet) : EthFrame :=
  { bytes := portMac up0 0 ++ (enpinFrame up0 (wallE 2) (wallE 1) 0 0 0 0 false p).drop 6 ++ [0, 0, 0, 0] }
def otherFrame : EthFrame := { bytes := List.replicate 64 0 }

/-- The frame that a module makes of a packet is read back as that packet (R82 to R100, R357). -/
theorem test_enpin_frame_round_trip : classify up0 0 (frameIn0 pFar).bytes = .ok pFar := by decide +kernel

theorem wit_PortsReceive :
    let b := { otherFrame with reassemblyError := true }
    let g := { otherFrame with fragment := true }
    let p := portSt { linkUp := true, paused := some 9, pfc := [(3, 9)], xoff := [(8, 9)], verify := .verifying 2 }
    (portFitted up0 0 = true ∧ (portOf up0 0).linkUp = true ∧ b.overflow = false ∧
      heldBytes up0 0 8 + ledN up0 (portCfg 0) 3 ≤ 2 ^ 21 ∧ b.express = false ∧ b.reassemblyError = true) ∧
    (g.reassemblyError = false ∧ g.fragment = true ∧ g.overflow = false ∧ g.express = false) ∧
    (frameFlags up0 0 (frameIn0 pFar) = 0 ∧ nAt (frameIn0 pFar).bytes 12 2 ≠ 0x8808 ∧
      classify up0 0 (frameIn0 pFar).bytes = .ok pFar) ∧
    (frameFlags up0 0 otherFrame = 0 ∧ nAt otherFrame.bytes 12 2 ≠ 0x8808 ∧ classify up0 0 otherFrame.bytes = .notEnpin ∧
      hasTag otherFrame.bytes = false ∧ (portOf up0 0).rxr.enable = true ∧ (portOf up0 0).rxr.full = false ∧ hostOk up0 = true ∧
      otherFrame.bytes.length + 32 ≤ slotBytesOf (portOf up0 0).rxM ∧ up0.memWf = true) ∧
    ((portOf p 0).linkUp = true ∧ (portOf p 0).paused = some 9 ∧ tfind (portOf p 0).pfc 3 = some 9 ∧
      tfind (portOf p 0).xoff 8 = some 9 ∧ (portOf p 0).verify = .verifying 2) := by decide +kernel

/-- An express frame that rule 0 matches, with a free slot. -/
theorem wit_PortsReceive_cut :
    let s := { up0 with cut := { up0.cut with rules := [(0, { desc := rule0, enable := true, active := true })] } }
    let f := { otherFrame with bytes := List.replicate 68 0, express := true }
    portFitted s 0 = true ∧ (portOf s 0).linkUp = true ∧ heldBytes s 0 8 + ledN s (portCfg 0) 3 ≤ 2 ^ 21 ∧ f.overflow = false ∧
      f.reassemblyError = false ∧ f.fragment = false ∧ frameFlags s 0 f = 0 ∧ nAt f.bytes 12 2 ≠ 0x8808 ∧
      oddTags f.bytes = false ∧ cutMatch s 0 f.bytes = some 0 ∧ coreDark s (cutCore (cutRuleOf s 0).desc) = false ∧
      freeSlot (cutRuleOf s 0) = some 0 ∧ bitOf (df (cutRuleOf s 0).desc 1 1) 0 = false := by decide +kernel

/-- The two pause modes that the pause clauses speak of. -/
theorem wit_PortsReceive_modes :
    let s (m : Byte) := { up0 with ledger := { up0.ledger with values := [((portCfg 0) * 256 + 5, [m])] } }
    ledN (s 1) (portCfg 0) 5 = 1 ∧ ledN (s 2) (portCfg 0) 5 = 2 ∧ bitOf 1 0 = true ∧ (0xFFFF : Nat) ≠ 0 := by decide +kernel

def txf (ex : Bool) : TxFrame := { bytes := List.replicate 60 1, express := ex, cls := 0 }
/-- A transmit ring of 64 slots in host memory; `own` puts an owned express frame of 60 bytes into its first slot. -/
def txRing (own : Bool) : State :=
  let s := portSt { linkUp := true, txEnable := true, txBaseLo := 0x30000, txLog2 := 6 }
  if own then memWrite .host 0x30000 (leBytes 92 (1 + 60 * 2 ^ 16 + 2 ^ 255 + 1 * 2 ^ 256)) s else s

theorem wit_PortsTransmit :
    let e := portSt { linkUp := true, express := [txf true] }
    let h := portSt { linkUp := true, hung := some (txf false) }
    let c := portSt { linkUp := true, classes := [(7, [txf false])] }
    let u := portSt { linkUp := true, cur := some (txf false), statSel := 0x1B }
    let m := frameSlot 0 (portOf (txRing true) 0).txSram
      (ringBase (portOf (txRing true) 0).txBaseLo (portOf (txRing true) 0).txBaseHi) (portOf (txRing true) 0).txM
      (portOf (txRing true) 0).txScan
    ((portOf e 0).cur = none ∧ expressReady e 0 = some (txf true)) ∧
    ((portOf h 0).cur = none ∧ expressReady h 0 = none ∧ (portOf h 0).hung = some (txf false)) ∧
    (expressReady c 0 = none ∧ (portOf c 0).hung = none ∧ classReady c 0 = some 7 ∧
      (tget [] (portOf c 0).classes 7).head? = some (txf false) ∧
      (tagged c 0 7 (txf false).bytes).length = (txf false).bytes.length) ∧
    ((portOf u 0).cur = some (txf false) ∧ (txf false).ring = none ∧ 1 ≤ (portOf u 0).statSel ∧ (portOf u 0).statSel ≤ 0x1B) ∧
    (portFitted (txRing true) 0 = true ∧ (portOf (txRing true) 0).txEnable = true ∧ isReady (txRing true) = true ∧
      hostOk (txRing true) = true ∧ m = (.host, 0x30000) ∧
      bitOf (df (memRead .host 0x30000 32 (txRing true)) 31 1) 7 = (portOf (txRing true) 0).txPhase ∧
      txSlotBad (txRing true) 0 (portOf (txRing true) 0).txM (memRead .host 0x30000 32 (txRing true)) = false) ∧
    bitOf (df (memRead .host 0x30000 32 (txRing false)) 31 1) 7 ≠ (portOf (txRing false) 0).txPhase ∧
    ((∀ n ∈ [0x106, 0x110], bitOf (BitVec.ofNat 32 n).toNat 8 = true ∧ 6 ≤ (BitVec.ofNat 32 n).toNat % 32 ∧
      (BitVec.ofNat 32 n).toNat % 32 ≤ 16) ∧ (portOf base 0).rxr.enable = false ∧ (portOf base 0).txEnable = false) := by
  decide +kernel

theorem wit_PortLinks :
    let v (n : Nat) := portSt { linkUp := true, verify := .verifying n }
    (portFitted base 0 = true ∧ (portOf base 0).linkUp = false ∧ ledN base (portCfg 0) 2 = 1 ∧ base.board.supply = true ∧
      base.board.clk156 = true ∧ 8 ≤ base.board.step) ∧
    (portOf up0 0).linkUp = true ∧ ((portOf (v 2) 0).verify = .verifying 2 ∧ (2 : Nat) < 3) ∧
    ((portOf (v 3) 0).verify = .verifying 3 ∧ 3 ≤ 3) := by decide +kernel

/-! ## Virtual devices and the host link -/

/-- VDEV operations on the first admin ring, their result block at 0x2000. -/
def eVd (op v : Nat) (fs : List (Nat × Nat)) : Entry := mkE ([(0, op), (4, v), (16, 0x2000)] ++ fs)
/-- A grant descriptor: 4 queues, one completion ring, cluster `c`. -/
def desc (c : Nat) : List Byte := leBytes 64 (4 + 2 ^ 16 + 2 ^ c * 2 ^ 32 + 8 * 2 ^ 64)
def offered (d : List Byte) (s : State) : State := memWrite .hbm 0x1000 d s

theorem wit_VdevsComeAndGo_create :
    let e := eVd 0x80 2 [(8, 0x1000)]
    let f (s : State) := used a0 (eLocal e) 64 (advanceHead e a0 s)
    let u (s : State) := used a0 (eResult e) 32 (f s)
    let g := offered (desc 31) base
    let b := offered (desc 0) base
    (eOp e = 0x80 ∧ Ready (offered (desc 31) base) a0 e ∧ (fnOf (offered (desc 31) base) (eVdev e)).vop = none ∧
      xlate (advanceHead e a0 g) (queueFn a0) (eLocal e) 64 false = .ok ∧ xlate (f g) (queueFn a0) (eResult e) 32 true = .ok ∧
      rangeReach (u g) (queueFn a0) (eLocal e) 64 = true ∧
      createCauses (u g) (eVdev e) (readAny (u g) (queueFn a0) (eLocal e) 64) = []) ∧
    (Ready b a0 e ∧ xlate (advanceHead e a0 b) (queueFn a0) (eLocal e) 64 false = .ok ∧
      xlate (f b) (queueFn a0) (eResult e) 32 true = .ok ∧ rangeReach (u b) (queueFn a0) (eLocal e) 64 = true ∧
      createCauses (u b) (eVdev e) (readAny (u b) (queueFn a0) (eLocal e) 64) = [4]) := by
  unfold Ready; decide +kernel

theorem wit_VdevsComeAndGo :
    let d := eVd 0x81 1 []
    let r := eVd 0x85 1 []
    let w := with1 (fun f => { f with vop := some (.reset a0 63 0x2000) }) base
    let x := with1 (fun f => { f with vop := some (.destroy a0 63 0x2000), grant := none, retiring := some grant }) base
    (eOp d = 0x81 ∧ Ready base a0 d ∧ (fnOf base (eVdev d)).vop = none ∧
      xlate (advanceHead d a0 base) (queueFn a0) (eResult d) 32 true = .ok ∧
      grantOf (used a0 (eResult d) 32 (advanceHead d a0 base)) (eVdev d) = some grant) ∧
    (eOp r = 0x85 ∧ Ready base a0 r ∧ xlate (advanceHead r a0 base) (queueFn a0) (eResult r) 32 true = .ok ∧
      (grantOf (used a0 (eResult r) 32 (advanceHead r a0 base)) (eVdev r)).isSome = true ∧
      (fnOf (used a0 (eResult r) 32 (advanceHead r a0 base)) (eVdev r)).vstate ≠ .frozen) ∧
    (keysDrained (endDrains 1 w) 1 = true ∧ (fnOf w 1).vop = some (.reset a0 63 0x2000)) ∧
    (keysDrained (endDrains 1 x) 1 = true ∧ (fnOf x 1).vop = some (.destroy a0 63 0x2000)) ∧
    (31 ∈ { base with pools := { returning := [31] } : State }.pools.returning ∧ base.memWf = true) := by
  unfold Ready; decide +kernel

/-- A frozen device without clusters; its image is of a few sections that the model reads out whole. -/
def frozen (vop : Option VOp) : State :=
  with1 (fun f => { f with vstate := .frozen, grant := some { grant with clusters := 0 }, segs := [], vop := vop }) base
/-- An image with no section, and one with a counter section of one counter. -/
def image0 : List Byte :=
  let h := leBytes 32 (0x56444D54 + 2 ^ 32 + 64 * 2 ^ 64)
  h ++ leBytes 4 (crc32c h) ++ List.replicate 28 0
def image3 : List Byte :=
  leBytes 64 (0x56444D54 + 2 ^ 32 + 2 ^ 48 + 96 * 2 ^ 64) ++ leBytes 24 (3 + 88 * 2 ^ 64 + 8 * 2 ^ 128) ++ leBytes 8 77
def imaged0 (s : State) : State := memWrite .hbm 0x1000 image0 s

theorem wit_VdevsFreezeAndMove :
    let f := eVd 0x82 1 []
    let m := eVd 0x84 1 [(8, 0x1000), (44, 64), (52, 0x4000)]
    let z := with1 (fun f => { f with vstate := .frozen, vop := some (.freeze a0 63 0x2000) }) base
    let g := imaged0 (frozen none)
    let x := advanceHead m a0 g
    let y := used a0 (eLocal m) (eBufLen m) x
    let w := used a0 (eMap m) (mapBytes y a0 m) y
    let u := used a0 (eResult m) 32 w
    (eOp f = 0x82 ∧ Ready base a0 f ∧ (fnOf base (eVdev f)).vop = none ∧
      xlate (advanceHead f a0 base) (queueFn a0) (eResult f) 32 true = .ok ∧ freezeCauses (used a0 (eResult f) 32 (advanceHead f a0 base)) (eVdev f) = []) ∧
    ((fnOf z 1).vop = some (.freeze a0 63 0x2000) ∧ freezeQuiet z 1 = true ∧ hostOk z = true ∧
      (fnOf z 1).cqs.all (fun r => r.2.held.isEmpty) = true) ∧
    (eOp m = 0x84 ∧ Ready g a0 m ∧ (fnOf g (eVdev m)).vop = none ∧
      xlate x (queueFn a0) (eLocal m) (eBufLen m) false = .ok ∧ xlate y (queueFn a0) (eMap m) (mapBytes y a0 m) true = .ok ∧
      xlate w (queueFn a0) (eResult m) 32 true = .ok ∧ frozenCauses u (eVdev m) = [] ∧
      rangeReach u (queueFn a0) (eLocal m) (eBufLen m) = true ∧
      imageOk (readAny u (queueFn a0) (eLocal m) (eBufLen m)) (eBufLen m) = true) := by
  unfold Ready; decide +kernel

/-- What a restore has used when it reads its image. -/
def restoring (m : Entry) (s : State) : State :=
  let y := used a0 (eLocal m) (eBufLen m) (advanceHead m a0 s)
  used a0 (eResult m) 32 (used a0 (eMap m) (mapBytes y a0 m) y)

theorem wit_VdevsFreezeAndMove_restore :
    let m := eVd 0x84 1 [(8, 0x1000), (44, 64), (52, 0x4000)]
    let g := imaged0 (frozen none)
    let h := with1 (fun f => { f with grant := some grant }) g
    let c := frozen (some (.restore a0 63 image3 0x4000 0x2000 false))
    (grantOf (restoring m g) 1 = some { grant with clusters := 0 } ∧
      grantHolds { grant with clusters := 0 } (sectionOf (readAny (restoring m g) 0 (eLocal m) (eBufLen m)) 1) = true) ∧
    (grantOf (restoring m h) 1 = some grant ∧ frozenCauses (restoring m h) 1 = [] ∧
      rangeReach (restoring m h) (queueFn a0) (eLocal m) (eBufLen m) = true ∧
      grantHolds grant (sectionOf (readAny (restoring m h) 0 (eLocal m) (eBufLen m)) 1) = false ∧ Ready h a0 m) ∧
    ((fnOf c 1).vop = some (.restore a0 63 image3 0x4000 0x2000 false) ∧ keysDrained (endDrains 1 c) 1 = true ∧
      grantOf c 1 = some { grant with clusters := 0 } ∧ sectionOf image3 3 ≠ []) := by
  unfold Ready; decide +kernel

def eSave (n : Nat) : Entry := eVd 0x83 1 [(8, 0x1000), (44, n)]
/-- What a save has used when it makes its image. -/
def saving (n : Nat) : State :=
  used a0 (eResult (eSave n)) 32 (used a0 (eLocal (eSave n)) (eBufLen (eSave n)) (advanceHead (eSave n) a0 (frozen none)))

theorem wit_VdevsFreezeAndMove_save :
    let s := with1 (fun f => { f with vop := some (.save a0 63 0x1000 0x100000 0x2000) }) (frozen none)
    (∀ n ∈ [64, 0x100000], eOp (eSave n) = 0x83 ∧ eBufLen (eSave n) = n ∧ Ready (frozen none) a0 (eSave n) ∧
      (fnOf (frozen none) (eVdev (eSave n))).vop = none ∧
      xlate (advanceHead (eSave n) a0 (frozen none)) 0 (eLocal (eSave n)) (eBufLen (eSave n)) true = .ok ∧
      xlate (used a0 (eLocal (eSave n)) (eBufLen (eSave n)) (advanceHead (eSave n) a0 (frozen none))) 0 (eResult (eSave n)) 32 true
        = .ok ∧
      frozenCauses (saving n) 1 = [] ∧ rangeReach (saving n) 0 (eLocal (eSave n)) (eBufLen (eSave n)) = true) ∧
    ((fnOf s 1).vop = some (.save a0 63 0x1000 0x100000 0x2000) ∧
      rangeReach s 0 (0x1000 : W64).toNat (0x100000 : W64).toNat = true) := by
  unfold Ready; decide +kernel

theorem leBytes_len (n v : Nat) : (leBytes n v).length = n := by
  induction n generalizing v with
  | zero => rfl
  | succ n ih => simp [leBytes, ih]

theorem blocks_len (g : Nat → List Byte) (k a n : Nat) (h : ∀ i, (g i).length = k) :
    (((rangeFrom a n).map g).flatten).length = k * n := by
  induction n generalizing a with
  | zero => rfl
  | succ n ih => simp [rangeFrom, h, ih, Nat.mul_add, Nat.add_comm]

theorem secCounters_len (f : Fn) : (secCounters f).length = 32768 := blocks_len _ 8 0 4096 (fun _ => leBytes_len _ _)
theorem secBindings_len (s : State) (v : Nat) : (secBindings s v).length = 768 :=
  blocks_len _ 12 0 64 (fun _ => by simp [leBytes_len])
theorem secSegments_len (s : State) (v : Nat) : (secSegments s v).length = 512 :=
  blocks_len _ 32 0 16 (fun _ => by simp [segBlock, leBytes_len])

/-- Every image is longer than 64 bytes; that of the frozen device fits a megabyte: both outcomes of a save are there. -/
theorem wit_VdevsFreezeAndMove_short (s : State) (v : Nat) : 64 < (imageOf s v).length := by
  have n : (sections s v).length = 9 := rfl
  simp only [imageOf, List.length_append, leBytes_len, List.length_replicate, n, up4k, cdiv]
  omega

theorem image_fits (s : State) (v : Nat) (a1 : (secGrant s v).length = 64) (a2 : (secQueues (fnOf s v)).length = 256)
    (a5 : (secKeys s v).length = 0) (a7 : (secCores s v).length = 0) (a8 : (secClusters s v).length = 0)
    (a9 : (secResident s v).length = 0) : (imageOf s v).length ≤ 0x100000 := by
  simp only [imageOf, List.length_append, leBytes_len, List.length_replicate, sections, layOut, secCounters_len, secSegments_len,
    secBindings_len, a1, a2, a5, a7, a8, a9, up4k, cdiv]
  simp

theorem wit_VdevsFreezeAndMove_long : (imageOf (saving 0x100000) 1).length ≤ 0x100000 :=
  image_fits (saving 0x100000) 1 (by decide +kernel) (by decide +kernel) (by decide +kernel) (by decide +kernel) (by decide +kernel)
    (by decide +kernel)

theorem wit_HostLinkComesAndGoes :
    let u := { base with host := { base.host with linkUp := true } }
    let p := { base with ledger := { base.ledger with values := [(0x4170 * 256 + 1, [1])] } }
    let e := { base with board := { base.board with step := 8 } }
    let d := { base with host := { base.host with attached := false } }
    (u.host.linkUp = true ∧ base.host.perst = false ∧ base.board.supply = true ∧ 9 ≤ base.board.step ∧
      base.host.lossAt ≠ some base.now ∧ ledN p 0x4170 1 = 1 ∧ ledN base 0x4170 1 ≠ 1 ∧ hostOk base = true ∧ hostOk d = false) ∧
    (e.host.perst = false ∧ e.board.step < 9) ∧ (base.board.clk100 = true ∧ isFatal d = false) := by decide +kernel

theorem wit_TimeoutsFlrsAndWindows :
    let b := migs [(127, rec0 3)] [] base
    let m := { txm with src := .va 1 0x1000 }
    let h := segs1 [(0, { seg0 with tier := 2, hostLo := 0x200000 })] (busyQ (withCtx { ctxMsg with msgs := [m] } base))
    let c := with1 (fun f => { f with flrDraining := true }) base
    let z := with1 (fun f => { f with vstate := .frozen }) base
    let n := with1 (fun f => { f with vstate := .none }) base
    let y := with1 (fun f => { f with xw := { pages := 1, enable := true } }) { base with host := { base.host with xwSel := 1 } }
    let p := { base with enpin := { base.enpin with banker0 := [{ rx := rx0, pkt := pData, blocks := 1, needTally := false, needQp := some 3, at_ := 0 }] } }
    let x (l : Nat) (en : Bool) := with1 (fun f => { f with xw := { pages := l, baseLo := 0x1000, enable := en } })
      { base with host := { base.host with xwSel := 1 } }
    (tfind (recsOf b 1) 127 = some (rec0 3) ∧ (rec0 3).st = 3) ∧
    (needsHost h q1 63 = true ∧ (takenAt? h q1 63).isSome = true ∧ h.fns.all (fun f => f.2.vop.isNone) = true) ∧
    ((fnOf base 1).vstate = .active ∧ (fnOf z 1).vstate = .frozen ∧ (fnOf n 1).vstate = .none) ∧
    (p.enpin.banker0 ++ p.enpin.banker1).any (fun p => p.needQp == some 3) = true ∧ hostQueueLive y 2 = false ∧
    (barOpen c 1 = false ∧ keysDrained (endDrains 1 c) 1 = true) ∧ (base.board.supply = true ∧ ledN base 0x4170 1 ≠ 1) ∧
    ((∀ l ∈ [1, 65536], bitOf 1 0 = true ∧ (fnOf (x l false) 1).xw.enable = false ∧ (fnOf (x l false) 1).xw.pages ≠ 0 ∧
        (fnOf (x l false) 1).xw.pages ≤ 65536 ∧ ringBase (fnOf (x l false) 1).xw.baseLo (fnOf (x l false) 1).xw.baseHi ≠ 0) ∧
      65536 < (fnOf (x 65537 false) 1).xw.pages ∧ ((fnOf (x 1 true) 1).xw.enable = true ∧ hostQueueLive (x 1 true) 1 = true) ∧
      hostQueueLive (toOpen base) 1 = false) := by decide +kernel

/-! ## Copies, the mailbox, keys and the lock -/

def eCopy : Entry := mkE [(0, 0x0A), (4, 16), (8, 0x1000), (16, 0x2000)]

theorem wit_LocalCopyCopies :
    let u := advanceHead eCopy q1 base
    let piece (n : Nat) := modQueue q1 (fun y => { y with taken := [{ idx := 63, entry := eCopy, copied := n }] }) base
    (eOp eCopy = 0x0A ∧ Ready base q1 eCopy ∧ pieceLen eCopy 0 = eLength eCopy ∧ 0 < eLength eCopy ∧
      xlateRights base (queueFn q1) (eLocal eCopy) (eLength eCopy) false = .ok ∧
      xlateRights base (queueFn q1) (eOffset eCopy) (eLength eCopy) true = .ok ∧
      xlate u (queueFn q1) (eLocal eCopy) (eLength eCopy) false = .ok ∧
      xlate u (queueFn q1) (eOffset eCopy) (eLength eCopy) true = .ok ∧
      getVa (atPiece q1 eCopy 0 u) (queueFn q1) (eLocal eCopy) (eLength eCopy) = .ok (List.replicate 16 0)) ∧
    ((takenAt? (piece 16) q1 63).map (fun t => t.copied) = some (eLength eCopy)) ∧
    ((takenAt? (piece 5) q1 63).map (fun t => t.copied) = some 5 ∧ 5 < eLength eCopy ∧ pieceLen eCopy 5 = 11 ∧
      xlate (piece 5) (queueFn q1) (eLocal eCopy + 5) (pieceLen eCopy 5) false = .ok ∧
      xlate (piece 5) (queueFn q1) (eOffset eCopy + 5) (pieceLen eCopy 5) true = .ok ∧
      getVa (atPiece q1 eCopy 5 (piece 5)) (queueFn q1) (eLocal eCopy + 5) (pieceLen eCopy 5) = .ok (List.replicate 11 0)) := by
  unfold Ready; decide +kernel

/-- A mailbox that serves, with an identity that signs; and after a negotiation, a key exchange and a session. -/
def doe0 : State :=
  { base with host := { base.host with linkUp := true, doe := none },
              sec := { base.sec with keysUnwrapped := true, identityOk := true, lc := .deployed, alarms := 0
                                     certChain := [0x30, 0x82] } }
def spdmIn (x : Spdm) : State := { doe0 with sec := { doe0.sec with spdm := x } }

/-- A Ledger frame for the mailbox: a read of 0x1000 sub 1. -/
def doeFrame : Bytes := [0x10, 1, 0, 7, 0, 4, 0, 0, 0, 0, 0, 0, 0x10, 0, 1, 0]

theorem wit_MailboxAndResponder :
    let b := { doe0 with host := { doe0.host with doe := some doeFrame } }
    (doeServes doe0 = true ∧ doe0.host.doe = none ∧ doeFrame.length ≤ 65536 ∧ requestOk .doe doeFrame = true) ∧
    (doeServes b = true ∧ b.host.doe = some doeFrame) ∧
    (doe0.sec.wiping = false ∧ (let w := { doe0 with sec := { doe0.sec with wiping := true } }
      doeServes w = true ∧ w.sec.wiping = true)) ∧
    (canSign doe0 = true ∧ canSign { doe0 with sec := { doe0.sec with keysUnwrapped := false } } = false ∧
      0 < doe0.sec.certChain.length) ∧
    (doeServes (spdmIn .negotiated) = true ∧ canSign (spdmIn .negotiated) = true ∧ (spdmIn .negotiated).sec.spdm ≠ .idle) ∧
    (doeServes (spdmIn .keyExchanged) = true ∧ (spdmIn .keyExchanged).sec.spdm = .keyExchanged) ∧
    (doeServes (spdmIn .session) = true ∧ (spdmIn .session).sec.spdm = .session) := by decide +kernel

/-- Keys: a page with both associations, in a deployed module. -/
def keys1 : State :=
  with1 (fun f => { f with keyPage := { txState := .live, txPeerSa := 9, txKey := 5, tag := 7 } })
    { base with sec := { base.sec with lc := .deployed, alarms := 0, rxSas := [(9, { owner := 1, st := .live, key := 3 })] } }
def cmdsOf (c : List KeyCmd) (s : State) : State := { s with sec := { s.sec with cmds := c } }
def locked (x : Option Nat) : State := { base with sec := { base.sec with lockToken := x } }

theorem wit_KeysAlarmsAndLock :
    let busy := with1 (fun f => { f with keyPage := { f.keyPage with busy := true } }) keys1
    let c3 : KeyCmd := { fn := 1, op := 3, index := 9 }
    let c4 : KeyCmd := { fn := 1, op := 4, index := 9 }
    let c1 : KeyCmd := { fn := 1, op := 1, index := 9 }
    let h := { base with ledger := { base.ledger with values := [(0x7020 * 256 + 1, [0])] } }
    (barOpen keys1 1 = true ∧ barOpen keys1 0 = true ∧ keys1.board.supply = true ∧ (keyPageOf keys1 1).busy = false ∧
      (keyPageOf keys1 0).busy = false) ∧
    ((keyPageOf busy 1).busy = true) ∧
    (keyResult (cmdsOf [c3] keys1) c3 = 0 ∧ keyResult (cmdsOf [c4] keys1) c4 = 0 ∧ keyResult (cmdsOf [c1] keys1) c1 = 9) ∧
    (base.board.supply = true ∧ ledN base 0x7020 1 = 1 ∧ ledN h 0x7020 1 ≠ 1) ∧
    ((locked none).sec.lockToken = none ∧ (locked (some 5)).sec.lockToken = some ((0x8005 : W32).toNat % 32768) ∧
      (locked (some 6)).sec.lockToken ≠ some ((0x8005 : W32).toNat % 32768)) := by decide +kernel

/-- A page with a staged blob, and the plaintext of a key for it. -/
def keys2 (k : BitVec 256) : State :=
  with1 (fun f => { f with keyPage := { f.keyPage with blob := (1 + 56 * 65536) :: List.replicate 15 0 } })
    { keys1 with sec := { keys1.sec with ownerKek := some k } }
def plain : Bytes := [3, 0, 0, 0, 7, 0, 0, 0] ++ List.replicate 40 0

/-- An installation ends with 0 where the cipher, a free value, unwraps the blob to that plaintext. -/
theorem wit_KeysAlarmsAndLock_install (k : BitVec 256)
    (hu : Config.aesKwUnwrap k (((blobOf (keyPageOf (keys2 0) 1)).drop 8).take 56) = some plain) :
    keyResult (keys2 k) { fn := 1, op := 1, index := 9 } = 0 ∧ keyResult (keys2 k) { fn := 1, op := 2, index := 9 } = 0 := by
  have e : unwrapBlob (keys2 k) (blobOf (keyPageOf (keys2 k) 1)) = some plain := hu
  have a : keyAllowed (keys2 k) 1 = true := rfl
  have b : blobHeaderOk (blobOf (keyPageOf (keys2 k) 1)) = true := rfl
  have c : engineLocked (keys2 k) = false := rfl
  have d : bindingOk (keys2 k) 1 plain = true := rfl
  have i1 : indexOk (keys2 k) 1 1 9 = true := rfl
  have i2 : indexOk (keys2 k) 1 2 9 = true := rfl
  have u1 : usageOk 1 plain = true := rfl
  have u2 : usageOk 2 plain = true := rfl
  simp [keyResult, e, a, b, c, d, i1, i2, u1, u2]

/-! ## Ledger requests, sessions, the life cycle -/

def fwH : WHeader := { source := .firmware }
def doeH : WHeader := { source := .doe, wseq := 3 }
def fieldH : WHeader := { source := .field 7, wseq := 4 }

/-- A session of MAC 7, authenticated by Druwyn's key, in a deployed module; and a request of it with its tag. -/
def sess : State := { doe0 with ledger := { doe0.ledger with session := { st := .auth 2, mac := 7, rxCtr := 3, key := 5 } } }
def sessH (v : WService) : WHeader :=
  { source := .field 7, session := true, sessionCtr := 4
    tag := Config.cmac 5 (waiborHeader (svcType v) 0 (svcPayload v).length 2 4 ++ svcPayload v) }

theorem sess_msg_ok (v : WService) : sessionMsgOk sess { h := sessH v, svc := v } = true := by
  show (true && (_ == _)) = true
  simp
  rfl

/-- Each source is heard; so is a session's request. -/
theorem wit_RequestsAreServed_sources (v : WService) :
    Served base { h := fwH, svc := v } ∧ Served doe0 { h := doeH, svc := v } ∧ Served base { h := fieldH, svc := v } ∧
      Served sess { h := sessH v, svc := v } :=
  ⟨⟨rfl, rfl, fun _ h => (nomatch h), fun h => (nomatch h)⟩, ⟨rfl, rfl, fun _ h => (nomatch h), fun h => (nomatch h)⟩,
    ⟨rfl, rfl, fun _ _ _ hc => (nomatch hc), fun h => (nomatch h)⟩, ⟨rfl, rfl, fun _ _ _ hc => (nomatch hc), fun _ => sess_msg_ok v⟩⟩

theorem wit_RequestsAreServed :
    let r : WReq := { h := fwH, svc := .read 0x2000 1 }
    let c : WReq := { h := fwH, svc := .read 0x9046 1 }
    let n : WReq := { h := fwH, svc := .read 1 1 }
    let w : WReq := { h := fwH, svc := .write 0x2140 1 6 [0, 0, 0, 1] }
    (accessCode (serving r base) fwH false false 0x2000 1 = 0 ∧ (ledRead 0x2000 1 (serving r base)).1.length + 8 ≤ maxPayload .firmware ∧
      isCounter 0x2000 1 = false) ∧
    (accessCode (serving c base) fwH false false 0x9046 1 = 0 ∧ isCounter 0x9046 1 = true) ∧
    accessCode (serving n base) fwH false false 1 1 ≠ 0 ∧
    (accessCode (serving w base) fwH true false 0x2140 1 = 0 ∧ (dict base.part 0x2140 1).map (fun e => e.persistent) = some false ∧
      valueCode (serving w base) fwH 0x2140 1 (some 6) [0, 0, 0, 1] = 0 ∧
      valueCode (serving w base) fwH 0x2140 1 (some 5) [0, 0, 0, 1] ≠ 0) ∧
    (accessCode (serving w base) fwH true false 0x3400 2 = 0 ∧ (dict base.part 0x3400 2).map (fun e => e.persistent) = some true ∧
      valueCode (serving w base) fwH 0x3400 2 (some 1) [9] = 0) := by decide +kernel

/-- The rest of the cases: the fallback's clearing, an image slot written whole, a write that may not be served. -/
theorem wit_RequestsAreServed_more :
    let v (i n : Nat) : WReq := { h := doeH, svc := .write i n 1 [1] }
    (accessCode (serving (v 0x2020 6) doe0) doeH true false 0x2020 6 = 0 ∧
      valueCode (serving (v 0x2020 6) doe0) doeH 0x2020 6 (some 1) [1] = 0 ∧ (dict doe0.part 0x2020 6).isSome = true) ∧
    accessCode (serving { h := doeH, svc := .write 0x7050 1 12 [] } doe0) doeH true false 0x7050 1 = 0 ∧
    accessCode (serving (v 0x9046 1) doe0) doeH true false 0x9046 1 ≠ 0 := by decide +kernel

/-- A segmented write that has come halfway; an open exchange in a provisioned module. -/
def half : State :=
  { base with ledger := { base.ledger with staging := [(1, { index := 0x2140, sub := 1, total := 4, data := [0, 0], lastAt := 0 })] } }
def opened1 : State :=
  { base with sec := { base.sec with lc := .provisioned }, ledger := { base.ledger with session := { st := .opened, mac := 7 } } }

theorem wit_SegmentsAndSessions :
    let i : WReq := { h := fwH, svc := .writeSegInit 0x2140 1 4 }
    (accessCode (serving i base) fwH false true 0x2140 1 = 0 ∧ accessCode (serving i base) fwH true true 0x2140 1 = 0) ∧
    (accessCode (serving i half) fwH true true 0x2140 1 = 0 ∧
      (tfind half.ledger.staging (srcKey .firmware)).map (fun x => (x.index, x.sub, x.total, x.data)) = some (0x2140, 1, 4, [0, 0]) ∧
      half.now ≤ 5000000000 ∧ valueCode (serving i half) fwH 0x2140 1 none [0, 0, 0, 1] = 0) ∧
    ((doe0.board.mstate = 1 ∧ sessionAuthed doe0 = false ∧ engineLocked doe0 = false ∧ canSign doe0 = true ∧ fieldUp doe0 = true)) ∧
    (fieldUp opened1 = true ∧ opened1.ledger.session.st = .opened ∧ opened1.ledger.session.mac = 7 ∧
      opened1.now ≤ opened1.ledger.session.lastAt + 5000000000 ∧ proofOk opened1 0 0 (List.replicate 64 0) = true ∧
      proofOk opened1 3 0 (List.replicate 64 0) = false ∧ opened1.ledger.commit = none ∧ opened1.ledger.cache = []) ∧
    sessionAuthed sess = true := by decide +kernel

/-- A segmented read that goes on, or starts again; an image transfer in its two slots. -/
def snapped : State :=
  { base with ledger := { base.ledger with snapshots := [(1, { index := 0x2140, sub := 1, data := [0, 0, 0, 1] })] } }

theorem wit_SegmentsAndSessions_reads :
    let i (n o : Nat) : WReq := { h := fwH, svc := .readSeg 0x2140 n o }
    (accessCode (serving (i 1 0) base) fwH false true 0x2140 1 = 0 ∧ accessCode (serving (i 1 2) snapped) fwH false true 0x2140 1 = 0 ∧
      accessCode (serving (i 2 2) snapped) fwH false true 0x2140 2 = 0) ∧
    (tfind snapped.ledger.snapshots (srcKey .firmware)).map (fun x => (x.index, x.sub, x.data, x.lastAt)) =
      some (0x2140, 1, [0, 0, 0, 1], 0) ∧ snapped.now ≤ 0 + 5000000000 ∧ (2 : Nat) ≤ 4 := by decide +kernel

/-- An image of four bytes, with a digest and a signature of zeros. -/
def imageB : Bytes := leBytes 32 (0x4E52554F + 2 ^ 32 + 2 ^ 48 + 4 * 2 ^ 96) ++ List.replicate 96 0 ++ [1, 2, 3, 4]
def imaging : State :=
  { doe0 with ledger := { doe0.ledger with staging := [(0, { index := 0x7050, sub := 2, total := 132, data := [] })] } }

theorem wit_SegmentsAndSessions_images :
    let i (n : Nat) : WReq := { h := doeH, svc := .writeSegInit 0x7050 n 132 }
    (accessCode (serving (i 1) doe0) doeH true true 0x7050 1 = 0 ∧ accessCode (serving (i 2) doe0) doeH true true 0x7050 2 = 0 ∧
      doe0.board.mstate ≠ 3 ∧ doe0.sec.bootSlot + 1 = 1 ∧ doe0.sec.bootSlot + 1 ≠ 2 ∧ (132 : Nat) ≤ 2 ^ 24) ∧
    ((tfind imaging.ledger.staging (srcKey .doe)).map (fun x => (x.index, x.sub, x.total, x.data)) = some (0x7050, 2, 132, []) ∧
      imageValid (serving (i 2) imaging) (List.replicate 132 0) = false ∧ imaging.now ≤ 5000000000) := by decide +kernel

/-- An image is valid where its digest and signature verify, which is for free values to say. -/
theorem wit_SegmentsAndSessions_image_valid (pub : Bytes) (x : State) (hk : x.sec.druwynKeys = [(1, pub)])
    (hr : x.sec.revoked = []) (hm : x.sec.secVersionMin = 0)
    (hv : Config.ecdsaVerify pub (Config.sha256 (imageB.take 64)) ((imageB.drop 64).take 64) = true)
    (hh : (Config.sha256 (imageB.drop 128)).toNat = 0) : imageValid x imageB = true := by
  have a : imageHeaderOk imageB = true := by decide +kernel
  have b : df imageB 6 2 = 1 := by decide +kernel
  have c : beNat ((imageB.drop 32).take 32) = 0 := by decide +kernel
  simp [imageValid, a, b, c, hk, hr, hm, hv, hh, tfind]

/-- A life-cycle request's bytes. -/
def lcB (target : Byte) : Bytes := target :: List.replicate 67 0

theorem wit_LifeCycleAndCommits :
    let r : WReq := { h := doeH, svc := .write 0x7000 2 12 (lcB 9) }
    let k : Bytes := 1 :: List.replicate 127 0
    let p := { doe0 with sec := { doe0.sec with lc := .provisioned } }
    (accessCode (serving r doe0) doeH true false 0x7000 2 = 0 ∧ valueCode (serving r doe0) doeH 0x7000 2 (some 12) (lcB 9) = 0 ∧
      lcDecide (serving r doe0) (lcB 9) = .refuse) ∧
    (accessCode (serving r p) doeH true false 0x7010 1 = 0 ∧ valueCode (serving r p) doeH 0x7010 1 (some 12) k = 0 ∧
      p.sec.lc = .provisioned ∧ engineLocked p = false ∧ p.sec.keysUnwrapped = true ∧ p.sec.lcCount < 31 ∧ df k 0 1 = 1 ∧ df k 1 3 = 0 ∧
      (k.drop 108).any (fun x => x != 0) = false) ∧
    (accessCode (serving r doe0) doeH true false 0xA000 1 = 0 ∧ valueCode (serving r doe0) doeH 0xA000 1 (some 1) [1] = 0) ∧
    (accessCode (serving r doe0) doeH true false 0xA020 2 = 0 ∧ valueCode (serving r doe0) doeH 0xA020 2 (some 1) [1] = 0) := by
  decide +kernel

/-- The owner's authorisation moves the module; Druwyn's revokes a key: whether they verify is for free values to say. -/
theorem wit_LifeCycleAndCommits_accepted (r : WReq) (h : r = { h := doeH, svc := .write 0x7000 2 12 (lcB 1) }) (pub : Bytes)
    (ho : ownerAuth (serving r doe0) 1 (List.replicate 67 0 |>.drop 3) = true)
    (hd : druwynAuth (serving r { doe0 with sec := { doe0.sec with druwynKeys := [(2, pub)] } }) 0x82 (List.replicate 67 0 |>.drop 3) = true) :
    lcDecide (serving r doe0) (lcB 1) = .move .provisioned ∧
      lcDecide (serving r { doe0 with sec := { doe0.sec with druwynKeys := [(2, pub)] } }) (lcB 0x82) = .revoke 2 := by
  subst h
  have a (x : State) (b : Bytes) (e : b.headD 0 = 1#8) (d : df b 1 3 = 0) (hx : engineLocked x = false) (hc : x.sec.lcCount = 0)
      (hl : x.sec.lc = .deployed) (o : ownerAuth x 1#8 (b.drop 4) = true) : lcDecide x b = .move .provisioned := by
    unfold lcDecide
    simp only [e, d, hx, hc, hl, o]
    rfl
  have c (x : State) (b : Bytes) (e : b.headD 0 = 0x82#8) (d : df b 1 3 = 0) (hx : engineLocked x = false)
      (o : druwynAuth x 0x82#8 (b.drop 4) = true) : lcDecide x b = .revoke 2 := by
    unfold lcDecide
    simp only [e, d, hx, o]
    rfl
  exact ⟨a _ _ rfl (by decide +kernel) rfl rfl rfl ho, c _ _ rfl (by decide +kernel) rfl hd⟩

def committing : State :=
  { base with ledger := { base.ledger with commit := some { h := fwH, index := 0x3400, sub := 2, value := [9], seg := false } } }

theorem wit_LifeCycleAndCommits_commit : (committing.ledger.commit).map (fun c => (c.index, c.seg)) = some (0x3400, false) := by
  decide +kernel

def readFrame : Bytes := [0x10, 1, 0, 7, 0, 4, 0, 0, 0, 0, 0, 0, 0x20, 0, 1, 0]
/-- A read by a field node, padded; one to another module's address. -/
def frame0 : FieldFrame := { etherType := 0x88B5, srcMac := 7, dstMac := fieldMac base, bytes := readFrame ++ List.replicate 30 0 }

theorem wit_FieldPortTraffic :
    let a := { opened1 with ledger := { opened1.ledger with session := { st := .auth 0, mac := 7 } } }
    let e := { base with ledger := { base.ledger with emRepeat := [(5, List.replicate 20 0)] } }
    opened1.ledger.session.st = .opened ∧ a.ledger.session.st = .auth 0 ∧ (tfind half.ledger.staging (srcKey .firmware)).isSome = true ∧
    fieldUp base = true ∧ (e.ledger.emRepeat = [(5, List.replicate 20 0)] ∧ e.board.fieldPwr = true ∧ e.board.supply = true) ∧
    bridgePasses base { frame0 with etherType := 0x800 } = false := by decide +kernel

theorem wit_FieldPortTraffic_passes : bridgePasses base { frame0 with dstMac := 0xFFFFFFFFFFFF } = true := by
  show (true && true && (_ || true) && true) = true
  simp

/-! ## Power and heat -/

/-- Die 0 changed; the power state changed. -/
def dieIs (d : Die) (s : State) : State := { s with power := { s.power with dies := [(0, d)] } }
def pw (g : Power → Power) (s : State) : State := { s with power := g s.power }

theorem wit_LevelController :
    let m := dieIs { point := 3, target := some 5, next := some 7 } base
    let v : DieView := { want := 9, power := fun n => (n : Rat), gain := fun _ => 1 }
    let b := pw (fun p => { p with stretching := [3] }) base
    levelRuns base = true ∧ (dieOf m 0).target = some 5 ∧ (dieOf m 0).next = some 7 ∧ ([v].length ≤ 4 ∧ v.want ≤ 15) ∧
    (0 < diesFitted base.part ∧ (dieOf base 0).point ≠ 0 ∧ (pairsIn base (dieCores base 0)).all (fun p => !(isFixed base p.1)) = true) ∧
    (clusterFitted base 3 = true ∧ 3 ∉ base.power.stretching) ∧ 3 ∈ b.power.stretching := by decide +kernel

theorem wit_LevelController_idle : ∀ d, (dieOf base d).target = none → (dieOf base d).next = none := fun _ _ => rfl

theorem wit_MeterAndModel :
    let d := pw (fun p => { p with runDisagree := 100000, runFar := 100000 }) base
    let a := pw (fun p => { p with runAgree := 100000, disagreeing := true, refitting := true }) base
    let r := pw (fun p => { p with attrRing := ring }) base
    (base.board.supply = true ∧ base.power.clearAsked = false ∧ heldFor base base.power.runDisagree = false ∧
      heldFor base base.power.runFar = false ∧ heldFor base base.power.runAgree = false) ∧
    (d.power.disagreeing = false ∧ heldFor d d.power.runDisagree = true ∧ heldFor d d.power.runAgree = false ∧
      d.power.fallback = false ∧ heldFor d d.power.runFar = true) ∧
    (a.power.disagreeing = true ∧ heldFor a a.power.runAgree = true ∧ a.power.refitting = true) ∧
    (base.power.attrRing.enable = false ∧ r.power.attrRing.enable = true ∧ hostOk r = true ∧ r.power.energy = [] ∧
      ({ r.power.attrRing with cons := ledN r 0x2130 3 } : OutRing).full = false) := by decide +kernel

theorem wit_HeatAndIdling :
    let w := pw (fun p => { p with waking := [.engine 1 2, .coreClock 1, .cluster 1] }) base
    let b := { base with compute := { base.compute with cores := [(3, { waking := [4] })] } }
    let d := dieIs { wakePending := true, coreOff := true } base
    (unitFitted base 0 = true ∧ unitFitted base 4 = true ∧ ledN base 0x2030 1 * 10 ≤ countedTj base 0 1050 ∧
      countedTj base 0 1000 + 50 ≤ ledN base 0x2030 1 * 10 ∧ countedTj base 0 1040 < ledN base 0x2030 1 * 10 ∧
      ledN base 0x2030 1 * 10 < countedTj base 0 1040 + 50 ∧ (∀ x ∈ base.power.throttled, x = 0) ∧
      base.power.thermtrip = false) ∧
    (PowerUnit.engine 1 2 ∈ w.power.waking ∧ PowerUnit.coreClock 1 ∈ w.power.waking ∧ PowerUnit.cluster 1 ∈ w.power.waking ∧
      coreDark w 16 = false) ∧
    (4 ∈ (coreOf b 3).waking ∧ coreAsleep b 3 = false) ∧
    ((dieOf d 0).wakePending = true ∧ (dieOf d 0).coreOff = true) ∧ base.memWf = true := by decide +kernel

/-- Each kind of unit may enter its idle state in a module that does nothing. -/
theorem wit_HeatAndIdling_idle :
    ∀ u ∈ [PowerUnit.engine 1 2, .coreClock 1, .bank 1 2, .cluster 1, .die 1], idleAllowed base u = true := by decide +kernel

/-! ## Resets, start-up, supplies -/

def atStep (n : Nat) (s : State) : State := { s with board := { s.board with step := n, mstate := 0 } }
def brd (g : Board → Board) (s : State) : State := { s with board := g s.board }

theorem wit_ResetsKeepWhatTheyKeep :
    let off := brd (fun b => { b with supply := false }) base
    let f := brd (fun b => { b with mstate := 2, fatalAt := some 5 })
      { base with ledger := { base.ledger with values := [(0xA000 * 256 + 4, [0, 0, 0, 100])] } }
    let d := brd (fun b => { b with dip := some 0 }) base
    let l := { base with now := 5000, board := { base.board with dip := some 0 } }
    off.board.supply = false ∧ (base.board.supply = true ∧ base.board.dip = none) ∧
    (isFatal f = true ∧ f.board.fatalAt = some 5 ∧ ledN f 0xA000 4 ≠ 0) ∧ (linkOf wall0 0).st ≠ .down ∧
    beNat (tget [] base.ledger.committed (0x1020 * 256 + 1)) ≠ 1 ∧
    (d.board.dip = some 0 ∧ d.now < 0 + 5000 ∧ d.board.supply = true) ∧ (l.board.dip = some 0 ∧ 0 + 5000 ≤ l.now) := by decide +kernel

theorem wit_StartUpSteps :
    let o := { atStep 9 base with wall := { base.wall with pos := none, origin := true } }
    let n := { atStep 9 base with wall := { base.wall with pos := none } }
    let x := { n with ledger := { n.ledger with values := [(0x3200 * 256 + 5, [1])] } }
    let w := { atStep 10 base with wall := { base.wall with pos := none } }
    (∀ k ∈ [1, 2, 3, 4, 5, 6, 7, 8, 10, 11], Starting (atStep k base) k) ∧
    (Starting o 9 ∧ o.wall.pos = none ∧ ledN o 0x3200 5 ≠ 1 ∧ o.wall.origin = true) ∧
    (Starting n 9 ∧ n.wall.origin = false ∧ ledN n 0x3200 5 ≠ 1) ∧ (Starting x 9 ∧ x.wall.pos = none ∧ ledN x 0x3200 5 = 1) ∧
    (atStep 10 base).wall.pos.isSome = true ∧ (Starting w 10 ∧ w.wall.pos = none) := by
  unfold Starting; decide +kernel

theorem wit_BackgroundAndSupplies :
    let r := brd (fun b => { b with restarts := [0, 0] }) base
    let o := pw (fun p => { p with sensorOffline := some (5, 0, 900) }) base
    let u := { base with host := { base.host with linkUp := true } }
    (u.host.linkUp = true ∧ base.host.linkUp = false ∧ 5 < lpddrSize base.part ∧ 5 / 2 ^ 22 < coresFitted base.part ∧
      bankState base (padCore 5) (padOff 5 / bankBytes) = 0 ∧ 5 / 2 ^ 25 < coresFitted base.part / 16) ∧
    (base.board.supply = true ∧ 3 ≤ base.board.step ∧
      (base.board.restarts.filter (fun t => decide (base.now ≤ t + 60000000000))).length < 2) ∧
    (2 ≤ (r.board.restarts.filter (fun t => decide (r.now ≤ t + 60000000000))).length) ∧
    (d2dFitted base .k0k1 = true ∧ d2dFitted base (.ka 1 0) = true ∧ isFatal base = false) ∧ 0 < hbmSize base.part ∧
    ((39 : Nat) < 40 ∧ unitFitted base (sensorUnit 39) = true ∧ unitFitted base (sensorUnit 0) = true ∧
      base.power.sensorOffline = none ∧ o.power.sensorOffline = some (5, 0, 900)) ∧
    (ctxOf linked peer = some ctx0 ∧ ctx0.home ≤ 1) := by decide +kernel

/-! ## The whole machine -/

theorem reset_memWf : State.reset.memWf = true := by decide +kernel

/-- A write keeps the form in an example; a step of a queue that is not empty answers. -/
theorem wit_EveryStepKeepsMemoriesAndQueue :
    let s := { posted eWrite base with pending := [.lockRead, .drbgReseed] }
    s.memWf = true ∧ s.pending = .lockRead :: [.drbgReseed] ∧ base.pending = [] := by decide +kernel

theorem wit_EveryStepKeepsMemoriesAndQueue_answers :
    (match step { base with pending := [.lockRead, .drbgReseed] } with
     | .next t => t.pending == [Instr.drbgReseed]
     | _ => false) = true := by
  show ([Instr.drbgReseed] == [Instr.drbgReseed]) = true
  decide +kernel

theorem wit_MinimalDirections :
    ((1 : Nat) < base.wall.sizeX ∧ 3 < base.wall.sizeX ∧ 1 < base.wall.sizeY ∧ 3 < base.wall.sizeY) ∧
    minimalDirs base true (1, 1) (3, 1) = [0, 1] ∧ minimalDirs base true (1, 1) (0, 1) = [1] ∧
      minimalDirs base false (1, 1) (1, 2) = [3] := by decide +kernel

theorem wit_FramesOfInternalCommands :
    staysInside .lockRead = true ∧ (match exec .undervoltageDip base with | .next t => t.board.dip | _ => none) = some 0 := by
  decide +kernel

/-- Nothing in the queue of a fresh module: it idles. -/
theorem test_idle_step : State.reset.pending = [] := rfl

/-! ## A few values that the manual gives -/

/-- R276: the largest finite values and the smallest subnormals of the element formats. -/
theorem test_formats :
    toFp32 (ofElem 2 0x7E) = 0x43E00000 ∧ toFp32 (ofElem 3 0x7B) = 0x47600000 ∧ toFp32 (ofElem 4 0x1F) = 0x41E00000 ∧
    toFp32 (ofElem 5 0x1F) = 0x40F00000 ∧ toFp32 (ofElem 6 7) = 0x40C00000 ∧ toFp32 (ofElem 2 1) = 0x3B000000 ∧
    toFp32 (ofElem 3 1) = 0x37800000 ∧ toFp32 (ofElem 4 1) = 0x3D800000 ∧ toFp32 (ofElem 6 1) = 0x3F000000 ∧
    isNan (ofElem 2 0xFF) = true ∧ isInf (ofElem 3 0xFC) = true ∧ isNan (ofElem 3 0x7D) = true := by decide +kernel

/-- R277: a scale of 127 is 1, of 0xFF is NaN; the smallest product is the FP32 subnormal 2^-143. -/
theorem test_scales :
    toFp32 (scaled (ofElem 6 2) 127) = 0x3F800000 ∧ isNan (scaled (ofElem 6 2) 255) = true ∧
    toFp32 (scaled (ofElem 3 1) 0) = 0x00000040 := by decide +kernel

/-- R280: ∞ × 0 is NaN, opposite infinities are NaN, and NaN is 0x7FC00000; all products −0 give −0. -/
theorem test_special_products :
    blockProduct [ofElem 3 0x7C] [ofElem 3 0] = 0x7FC00000 ∧
    blockProduct [ofElem 3 0x7C, ofElem 3 0xFC] [ofElem 3 0x3C, ofElem 3 0x3C] = 0x7FC00000 ∧
    blockProduct [ofElem 3 0x7C] [ofElem 3 0xBC] = 0xFF800000 ∧ blockProduct [ofElem 3 0x80] [ofElem 3 0x3C] = 0x80000000 ∧
    blockProduct [ofElem 3 0x3C, ofElem 3 0x3C] [ofElem 3 0x3C, ofElem 3 0xBC] = 0 := by decide +kernel

/-- R281: the largest INT8 block product is 524,288. -/
theorem test_int8_product :
    blockProduct (List.replicate 32 (ofElem 0 0x80)) (List.replicate 32 (ofElem 0 0x80)) = 0x49000000 := by decide +kernel

/-- An INT8 block of 0 × −5 is the integer 0, and no −0 (R281); in BF16 it is −0 (R280). -/
theorem test_int8_zero :
    blockOf ⟨0, false, [], [], []⟩ [ofElem 0 0] [ofElem 0 0xFB] = 0 ∧ blockOf ⟨1, false, [], [], []⟩ [ofElem 1 0] [ofElem 1 0xC0A0] = 0x80000000 := by
  decide +kernel

/-- Ties to even in binary32 addition: 2^24 + 1 is 2^24, 2^24 + 3 is 2^24 + 4. -/
theorem test_fp_add : fpAdd 0x4B800000 0x3F800000 = 0x4B800000 ∧ fpAdd 0x4B800000 0x40400000 = 0x4B800002 := by decide +kernel

/-- R26: CRC-16 with polynomial 0x1021 and no reflection; R175: CRC-32C. Their published check values, over the ASCII digits 1 to 9. -/
theorem test_crcs :
    crc16 0xFFFF (rangeFrom 0x31 9 |>.map (BitVec.ofNat 8)) = 0x29B1 ∧
    crc32c (rangeFrom 0x31 9 |>.map (BitVec.ofNat 8)) = 0xE3069283 := by decide +kernel
end Sys2Proof.Tests
end

section
/-! Minimal directions on a ring (R185): the two distances of a ring add up to its size, and the direction towards the smaller one is
taken, or both when they are equal. -/

namespace Sys2Proof.MinimalDirs
open Sys2Proof Sys2Proof.Machine

variable {a b n up down : Nat}

/-- Between positions of the ring, the distance up is R185's (b − a) mod N. -/
theorem ringUp_eq_emod (ha : a < n) : (ringUp a b n : Int) = ((b : Int) - a) % n := by
  have hsize : max n 1 = n := by omega
  have hcast : ((b + n - a : Nat) : Int) = (b : Int) - a + n := by omega
  rw [ringUp, hsize, Nat.mod_eq_of_lt ha, Int.natCast_emod, hcast, Int.add_emod_right]

/-- The distance down from a to b is the distance up from b to a. -/
theorem ringDown_eq_ringUp_swap : ringDown a b n = ringUp b a n := rfl

/-- The distance up with no remainder left: either b lies after a, or the way goes once past the ring's end. -/
theorem ringUp_eq_ite (ha : a < n) (hb : b < n) : ringUp a b n = if a ≤ b then b - a else b + n - a := by
  have hsize : max n 1 = n := by omega
  rw [ringUp, hsize, Nat.mod_eq_of_lt ha]
  split
  · have hturn : b + n - a = b - a + n := by omega
    rw [hturn, Nat.add_mod_right, Nat.mod_eq_of_lt (by omega)]
  · exact Nat.mod_eq_of_lt (by omega)

/-- R185: the distance west is N − d, d being the distance east. -/
theorem ringDown_eq_size_sub_ringUp (ha : a < n) (hb : b < n) (hne : a ≠ b) : ringDown a b n = n - ringUp a b n := by
  rw [ringDown_eq_ringUp_swap, ringUp_eq_ite hb ha, ringUp_eq_ite ha hb]
  split <;> split <;> omega

/-- The minimal directions of one axis, in terms of the positions on its ring and the numbers of its two directions. -/
def ringDirs (a b n up down : Nat) : List Nat :=
  if a = b then [] else
  if ringUp a b n < ringDown a b n then [up]
  else if ringDown a b n < ringUp a b n then [down] else [up, down]

theorem minimalDirs_alongX (s : State) (here dest : Nat × Nat) :
    minimalDirs s true here dest = ringDirs here.1 dest.1 s.wall.sizeX 0 1 := rfl

theorem minimalDirs_alongY (s : State) (here dest : Nat × Nat) :
    minimalDirs s false here dest = ringDirs here.2 dest.2 s.wall.sizeY 3 2 := rfl

/-- A direction is chosen exactly when its distance is at most the other's. -/
theorem mem_ringDirs (hne : a ≠ b) (x : Nat) :
    x ∈ ringDirs a b n up down ↔
      x = up ∧ ringUp a b n ≤ ringDown a b n ∨ x = down ∧ ringDown a b n ≤ ringUp a b n := by
  rw [ringDirs, if_neg hne]
  rcases Nat.lt_trichotomy (ringUp a b n) (ringDown a b n) with hlt | heq | hgt
  · have hdown : ¬ ringDown a b n ≤ ringUp a b n := Nat.not_le_of_gt hlt
    simp only [if_pos hlt, List.mem_singleton, Nat.le_of_lt hlt, hdown, and_true, and_false, or_false]
  · simp only [heq, Nat.lt_irrefl, if_false, List.mem_cons, List.not_mem_nil, Nat.le_refl, and_true, or_false]
  · have hup : ¬ ringUp a b n ≤ ringDown a b n := Nat.not_le_of_gt hgt
    simp only [if_neg (Nat.lt_asymm hgt), if_pos hgt, List.mem_singleton, Nat.le_of_lt hgt, hup, and_true, and_false, false_or]

/-- R185 on one ring, with the distance given as (b − a) mod N. -/
theorem ringDirs_minimal (ha : a < n) (hb : b < n) (hdirs : up ≠ down) (hne : a ≠ b) :
    ∃ d : Nat, (d : Int) = ((b : Int) - a) % n ∧
      (up ∈ ringDirs a b n up down ↔ d ≤ n - d) ∧ (down ∈ ringDirs a b n up down ↔ n - d ≤ d) ∧
      ∀ x ∈ ringDirs a b n up down, x = up ∨ x = down := by
  refine ⟨ringUp a b n, ringUp_eq_emod ha, ?_, ?_, fun x hx => ?_⟩
  · simp only [mem_ringDirs hne, hdirs, ringDown_eq_size_sub_ringUp ha hb hne, true_and, false_and, or_false]
  · simp only [mem_ringDirs hne, hdirs.symm, ringDown_eq_size_sub_ringUp ha hb hne, true_and, false_and, false_or]
  · exact ((mem_ringDirs hne x).mp hx).imp And.left And.left

/-- Settles O59: each axis is a ring of its own, with its own numbers for the two directions. -/
theorem minimalDirections : Obligations.MinimalDirections := by
  intro here dest s hx hx' hy hy'
  rw [minimalDirs_alongX, minimalDirs_alongY]
  refine ⟨ringDirs_minimal hx hx' (by decide), fun hne => ?_⟩
  obtain ⟨d, hd, hsouth, hnorth, honly⟩ := ringDirs_minimal (up := 3) (down := 2) hy hy' (by decide) hne
  exact ⟨d, hd, hsouth, hnorth, fun x hmem => (honly x hmem).symm⟩

end Sys2Proof.MinimalDirs
end

section
/-! Saturation of a semaphore (R206): an increment past 65,535 leaves the semaphore there and counts the overflow, and the event it
raises afterwards moves no counter and touches no core. -/

namespace Sys2Proof.Saturation
open Sys2Proof Sys2Proof.Machine Sys2Proof.Laws Sys2Proof.Obl

/-! ## An event leaves the Ledger as it is -/

theorem foldS_memSet_ledger {α : Type} (m : MemId) (g : α → State → Memory) (l : List α) (s : State) :
    (foldS (fun k t => memSet m (g k t) t) l s).ledger = s.ledger := by
  induction l generalizing s with
  | nil => rfl
  | cons x l ih => exact (ih _).trans (memSet_ledger _ _ _)

@[simp] theorem repairBad_ledger (m : MemId) (a n : Nat) (s : State) : (repairBad m a n s).ledger = s.ledger := by
  unfold repairBad
  split
  · rfl
  · exact foldS_memSet_ledger m _ _ _

@[simp] theorem ringStore_ledger (ks : Nat) (r : OutRing) (c : Rec) (s : State) : (ringStore ks r c s).ledger = s.ledger := by
  simp only [ringStore, memWrite, memSet_ledger, repairBad_ledger]

@[simp] theorem msix_ledger (fn vec : Nat) (s : State) : (msix fn vec s).ledger = s.ledger := by
  unfold msix
  split
  · rfl
  · split
    · exact outEmit_ledger _ _
    · exact modFn_ledger _ _ _

@[simp] theorem eqWriteNow_ledger (fn : Nat) (c : Rec) (s : State) : (eqWriteNow fn c s).ledger = s.ledger := by
  simp only [eqWriteNow]
  split <;> simp only [msix_ledger, modFn_ledger, ringStore_ledger]

@[simp] theorem eqOverflow_ledger (fn : Nat) (s : State) : (eqOverflow fn s).ledger = s.ledger := by
  unfold eqOverflow
  split
  · simp only [eqWriteNow_ledger, modFn_ledger]
  · rfl

@[simp] theorem raiseOn_ledger (fn code detail : Nat) (module : W32) (qp aux wher : Nat) (s : State) :
    (raiseOn fn code detail module qp aux wher s).ledger = s.ledger := by
  simp only [raiseOn]
  split <;> simp only [eqWriteNow_ledger, modFn_ledger, eqOverflow_ledger]

@[simp] theorem raiseEvent_ledger (fn code detail : Nat) (module : W32) (qp aux wher : Nat) (s : State) :
    (raiseEvent fn code detail module qp aux wher s).ledger = s.ledger := by
  unfold raiseEvent
  split <;> exact raiseOn_ledger _ _ _ _ _ _ _ _

/-! ## Cores and counters are read from the compute part and the Ledger alone -/

theorem coreOf_congr {s t : State} (h : t.compute = s.compute) (c : Nat) : coreOf t c = coreOf s c := by
  rw [coreOf, coreOf, h]

theorem count_congr {s t : State} (h : t.ledger = s.ledger) (index sub : Nat) : count t index sub = count s index sub := by
  rw [count, count, h]

@[simp] theorem coreOf_raiseEvent (fn code detail : Nat) (module : W32) (qp aux wher c : Nat) (s : State) :
    coreOf (raiseEvent fn code detail module qp aux wher s) c = coreOf s c :=
  coreOf_congr (quiet_raiseEvent _ _ _ _ _ _ _ _).compute c

@[simp] theorem count_raiseEvent (fn code detail : Nat) (module : W32) (qp aux wher index sub : Nat) (s : State) :
    count (raiseEvent fn code detail module qp aux wher s) index sub = count s index sub :=
  count_congr (raiseEvent_ledger _ _ _ _ _ _ _ _) index sub

theorem count_bump (index sub n : Nat) (s : State) :
    count (bump index sub n s) index sub = count s index sub + BitVec.ofNat 64 n := by
  rw [count, bump_counters, if_pos rfl, count]

/-! ## The wake that an increment asks for (R438) -/

theorem askUnit_power (u : PowerUnit) (s : State) : ∃ p, askUnit u s = { s with power := p } := by
  unfold askUnit
  split
  · exact ⟨s.power, rfl⟩
  · exact ⟨_, rfl⟩

theorem guarded_power (c : Bool) (s : State) (f : State → State) (hf : ∃ p, f s = { s with power := p }) :
    ∃ p, (if c then f s else s) = { s with power := p } := by
  cases c
  · exact ⟨s.power, rfl⟩
  · exact hf

/-- Asking for a wake changes the power part alone, whichever of the core's die, cluster and clock are off. -/
theorem wakeCore_power (core : Nat) (s : State) : ∃ p, wakeCore core s = { s with power := p } := by
  obtain ⟨p, hdie⟩ := guarded_power (coreDark s core) s (askWake (coreDie core)) ⟨_, rfl⟩
  obtain ⟨q, hcluster⟩ := guarded_power (p.clustersOff.contains (coreCluster core)) { s with power := p }
    (askUnit (.cluster (coreCluster core))) (askUnit_power _ _)
  obtain ⟨r, hclock⟩ := guarded_power (coreOf s core).clockOff { s with power := q } (askUnit (.coreClock core)) (askUnit_power _ _)
  refine ⟨r, ?_⟩
  unfold wakeCore
  simp only [hdie]
  rw [hcluster]
  exact hclock

@[simp] theorem wakeCore_compute (core : Nat) (s : State) : (wakeCore core s).compute = s.compute := by
  obtain ⟨p, h⟩ := wakeCore_power core s
  rw [h]

@[simp] theorem wakeCore_ledger (core : Nat) (s : State) : (wakeCore core s).ledger = s.ledger := by
  obtain ⟨p, h⟩ := wakeCore_power core s
  rw [h]

/-- The state in which an increment meets its semaphore: the deadlock window counts anew and the core's wake is asked for. -/
def reached (core : Nat) (s : State) : State := wakeCore core (touchCore core s)

/-- A change of one core that keeps its run state keeps every core's. -/
theorem st_modCore {core : Nat} {g : Core → Core} {s : State} (hg : (g (coreOf s core)).st = (coreOf s core).st) (c : Nat) :
    (coreOf (modCore core g s) c).st = (coreOf s c).st := by
  rw [coreOf_modCore]
  split
  · next hc => rw [hg, hc]
  · rfl

theorem coreOf_reached (core c : Nat) (s : State) :
    coreOf (reached core s) c = coreOf (touchCore core s) c := coreOf_congr (wakeCore_compute _ _) c

theorem semOf_reached (core sem : Nat) (s : State) : semOf (reached core s) core sem = semOf s core sem := by
  rw [semOf, coreOf_reached, touchCore, coreOf_modCore, if_pos rfl, semOf]

theorem st_reached (core c : Nat) (s : State) : (coreOf (reached core s) c).st = (coreOf s c).st := by
  rw [coreOf_reached]
  exact st_modCore rfl c

theorem count_reached (core index sub : Nat) (s : State) : count (reached core s) index sub = count s index sub :=
  count_congr (wakeCore_ledger _ _) index sub

/-! ## The saturating increment -/

theorem semOf_setSem (core sem v : Nat) (s : State) : semOf (setSem core sem v s) core sem = v := by
  rw [semOf, setSem, coreOf_modCore, if_pos rfl, tget_tset, if_pos rfl]

theorem st_setSem (core sem v c : Nat) (s : State) : (coreOf (setSem core sem v s) c).st = (coreOf s c).st :=
  st_modCore rfl c

/-- The state before the event of a saturating increment: the semaphore at 65,535 and the overflow counted. -/
def saturated (core sem : Nat) (s : State) : State := bump 0x9060 2 1 (setSem core sem 65535 (reached core s))

theorem semOf_saturated (core sem : Nat) (s : State) : semOf (saturated core sem s) core sem = 65535 :=
  semOf_setSem core sem 65535 (reached core s)

theorem count_saturated (core sem : Nat) (s : State) : count (saturated core sem s) 0x9060 2 = count s 0x9060 2 + 1 := by
  calc count (saturated core sem s) 0x9060 2
      = count (setSem core sem 65535 (reached core s)) 0x9060 2 + 1 := count_bump _ _ _ _
    _ = count (reached core s) 0x9060 2 + 1 := congrArg (· + 1) (count_congr (modCore_ledger _ _ _) _ _)
    _ = count s 0x9060 2 + 1 := by rw [count_reached]

theorem st_saturated (core sem c : Nat) (s : State) : (coreOf (saturated core sem s) c).st = (coreOf s c).st := by
  calc (coreOf (saturated core sem s) c).st
      = (coreOf (setSem core sem 65535 (reached core s)) c).st := by rw [saturated, coreOf_bump]
    _ = (coreOf s c).st := (st_setSem _ _ _ _ _).trans (st_reached _ _ _)

/-- An increment past 65,535 is the saturated state followed by SEMAPHORE_IMBALANCE with detail 1 (R206, R213). -/
theorem semAdd_of_overflow {core sem n : Nat} {s : State} (h : 65535 < semOf s core sem + n) :
    semAdd core sem n s =
      raiseEvent (coreEventFn (saturated core sem s) core) 0x22 1 (ownId (saturated core sem s))
        (semEventQp (saturated core sem s) core) (core + sem * 65536) 0 (saturated core sem s) := by
  have hover : ¬ semOf (reached core s) core sem + n ≤ 65535 := by rw [semOf_reached]; omega
  exact if_neg hover

/-- Settles O30: what holds of the saturated state still holds after its event. -/
theorem incrementsSaturate : Obligations.IncrementsSaturate := by
  intro core sem n s h
  rw [semAdd_of_overflow h]
  refine ⟨?_, ?_, ⟨saturated core sem s, rfl⟩, fun c => ?_⟩
  · rw [semOf, coreOf_raiseEvent]
    exact semOf_saturated core sem s
  · rw [count_raiseEvent]
    exact count_saturated core sem s
  · rw [coreOf_raiseEvent]
    exact st_saturated core sem c s

end Sys2Proof.Saturation
end
